-- ==== Sys2Proof/Word.lean ====
section
/-! DEFINITION. The word types of the block and the plainest arithmetic on them. -/

namespace Sys2Proof

abbrev Byte := BitVec 8
abbrev W16 := BitVec 16
abbrev W32 := BitVec 32
abbrev W48 := BitVec 48
abbrev W64 := BitVec 64

/-- The number of `true` answers over `0 .. n-1`. -/
def countTo (n : Nat) (p : Nat → Bool) : Nat :=
  ((List.range n).filter p).length

/-- The lanes of a 16-bit lane mask, ascending (bit i is lane i). -/
def lanesOf (m : BitVec 16) : List Nat :=
  (List.range 16).filter fun i => m.getLsbD i

/-- The mask that names exactly the lanes of a list. -/
def maskOf (l : List Nat) : BitVec 16 :=
  l.foldl (fun m i => m ||| (BitVec.ofNat 16 1 <<< i)) 0#16

/-- Saturating addition below a bound. -/
def satAdd (bound a b : Nat) : Nat := min bound (a + b)

end Sys2Proof
end

