-- ==== Sys2Proof/Format.lean ====
section
/-! DEFINITION. The operand types of the commands: the Morax instruction formats of Tables 03.2 to 03.7
(every field of a word below OPC and FN, which the command itself names), the packet and frame headers
of Tables 13.6 and 13.11, and the small enumerations that commands carry. -/

namespace Sys2Proof

/-- Format Reg (Table 03.2), with the guard fields of Table 03.1; `z` is the field marked 0. -/
structure FReg where
  gn : BitVec 1
  gp : BitVec 3
  d : BitVec 7
  a : BitVec 7
  b : BitVec 7
  c : BitVec 7
  ty : BitVec 4
  ps : BitVec 3
  rnd : BitVec 2
  sat : BitVec 1
  z : BitVec 9
  deriving DecidableEq, Repr

/-- Format Imm (Table 03.3). -/
structure FImm where
  gn : BitVec 1
  gp : BitVec 3
  d : BitVec 7
  a : BitVec 7
  w : BitVec 1
  imm : BitVec 32
  deriving DecidableEq, Repr

/-- Format Mem (Table 03.4). -/
structure FMem where
  gn : BitVec 1
  gp : BitVec 3
  d : BitVec 7
  a : BitVec 7
  b : BitVec 7
  ord : BitVec 2
  sc : BitVec 3
  cls : BitVec 3
  sz : BitVec 3
  off : BitVec 15
  deriving DecidableEq, Repr

/-- Format Br (Table 03.5). -/
structure FBr where
  gn : BitVec 1
  gp : BitVec 3
  tgt : BitVec 24
  join : BitVec 23
  deriving DecidableEq, Repr

/-- Format Col (Table 03.6); `z` is the field marked 0. -/
structure FCol where
  gn : BitVec 1
  gp : BitVec 3
  d : BitVec 7
  a : BitVec 7
  b : BitVec 7
  ms : BitVec 1
  mask : BitVec 16
  di : BitVec 1
  ps : BitVec 3
  z : BitVec 5
  deriving DecidableEq, Repr

/-- Format Tile (Table 03.7). -/
structure FTile where
  gn : BitVec 1
  gp : BitVec 3
  acc : BitVec 2
  ty : BitVec 4
  a : BitVec 7
  b : BitVec 7
  c : BitVec 7
  rnd : BitVec 2
  sat : BitVec 1
  ms : BitVec 1
  mask : BitVec 16
  deriving DecidableEq, Repr

/-- An integer function of Table 03.11 comes in major IALU (format Reg) or IALUI (format Imm). -/
inductive FAlu where
  | reg (f : FReg)
  | imm (f : FImm)
  deriving DecidableEq, Repr

/-- A compare of Table 03.11 comes in major SETP, SETPI or FSETP. -/
inductive FCmp where
  | setp (f : FReg)
  | setpi (f : FImm)
  | fsetp (f : FReg)
  deriving DecidableEq, Repr

/-- A whorl is named by its logical core and its slot (R42). -/
structure Wid where
  core : Nat
  slot : Nat
  deriving DecidableEq, Repr

/-- The two Scribe ports (R409). -/
inductive Port where
  | f
  | h
  deriving DecidableEq, Repr

/-- Where a command record starts from: a queue (R274) or a node of a running graph launch (R295). -/
inductive CmdSrc where
  | queue (q : Nat)
  | node (launch : Nat) (node : Nat)
  deriving DecidableEq, Repr

/-- The source of a write into a chute window (R297). -/
inductive ChuteSrc where
  | hostPort (p : Nat)
  | rafter (n : Nat)
  | dma
  deriving DecidableEq, Repr

/-- The agent that reaches the update window, the fault log or an observation register (R434, R442, R470). -/
inductive CtlAgent where
  | core (ctx : Nat)
  | dma (ctx : Nat)
  | dbg
  deriving DecidableEq, Repr

/-- The agent that writes a doorbell page (R264, R265). -/
inductive BellAgent where
  | host (f port : Nat)
  | core (ctx : Nat)
  deriving DecidableEq, Repr

/-- What starts the reset of a bay (Table 17.11). -/
inductive BayTrigger where
  | request (agent : CtlAgent) (word : W64)
  | detector (bay : Nat)
  deriving DecidableEq, Repr

/-- Why a sleeping bay wakes (R383). -/
inductive WakeCause where
  | request (p : Port)
  | access
  | placement
  deriving DecidableEq, Repr

/-- MetaValue of a CXL.mem MemRd (Table 08.5). -/
inductive Meta where
  | i
  | s
  | a
  deriving DecidableEq, Repr

/-- The joint packet header of Table 13.6, less OP, which the command names. -/
structure JHdr where
  addr : W48
  dst : BitVec 12
  src : BitVec 12
  tag : BitVec 10
  scope : BitVec 3
  cls : BitVec 3
  sub : BitVec 5
  pois : Bool
  len : BitVec 7
  z : BitVec 21
  deriving DecidableEq, Repr

/-- The Rafter header of Table 13.11 with the Ethernet source address, the die and port the frame came in on;
KIND and OP are named by the command. -/
structure RHdr where
  die : Nat
  port : Nat
  smac : W48
  ver : BitVec 4
  dsess : BitVec 16
  ssess : BitVec 16
  psn : W32
  rpsn : W32
  apsn : W32
  addr : W64
  len : BitVec 16
  scope : BitVec 2
  sub : BitVec 5
  tag : BitVec 8
  z : BitVec 16
  pois : Bool
  deriving DecidableEq, Repr

/-- An Ethernet frame's envelope as Port F receives it: the requester's address, whether it was sent to the
broadcast address, and its 802.1Q tag if it had one (R407). -/
structure Envelope where
  smac : W48
  broadcast : Bool
  vtag : Option (BitVec 16)
  deriving DecidableEq, Repr

/-- What the girt die observes while it admits a rafter die (Table 13.4). -/
structure AdmitFacts where
  refclk : Bool
  sideband : Bool
  agreed : Bool
  rate : Nat
  ident : List Byte
  trained : BitVec 8
  streaming : Bool
  deriving DecidableEq, Repr

/-- The module identity facts and straps a start-up samples (R487, R493): SLOT_ID, JTAG_SEL, the DRAM channels that
fail training, and whether the input and the pins allow a start. DESIGN CHOICE, log 12. -/
structure StartFacts where
  slotId : BitVec 5
  jtagSel : Bool
  badChannels : List Nat
  bootCopies : Bool
  spareCopies : Bool
  dictCopies : Bool
  identityOk : Bool
  calOk : Bool
  deriving DecidableEq, Repr

/-- One measurement of the input stage (R386): voltage in mV, current in mA averaged over 10 µs, the projected change of
input current that the next 1 µs of load asks for, in mA, and the filler capacity in W (R391). DESIGN CHOICE, log 12, 78. -/
structure PowerFacts where
  mv : Nat
  ma : Nat
  wantMa : Int
  fillerW : Nat
  sagDomains : List Nat
  deriving DecidableEq, Repr

/-- One thermal sample (R393), in 0.01 °C: 12 junction sensors of each bay, the top DRAM dies, then girt, N0 and N1. -/
structure ThermalFacts where
  bays : List (List Int)
  dies : List (List Int)
  girt : List Int
  deriving DecidableEq, Repr

/-- Energy delivered to each domain since the last reading, in nJ (R394), the filler passes each compute domain issued,
and the input energy in µJ. -/
structure EnergyFacts where
  domains : List (Nat × Nat)
  fillers : List (Nat × Nat)
  input : Nat
  dmaShare : List (CmdSrc × Nat)
  deriving DecidableEq, Repr

/-- The three transports on which the device answers SPDM (R436). -/
inductive Transport where
  | doe (port : Nat)
  | portF
  deriving DecidableEq, Repr

/-- An SPDM request with the Port F header of Table 16.7 (a DOE instance carries only `msg`). -/
structure SpdmFrame where
  env : Envelope
  ver : BitVec 4
  kind : BitVec 4
  z1 : Byte
  seq : W16
  len : W16
  z2 : W16
  msg : List Byte
  deriving DecidableEq, Repr

/-- The two ways into the debug access (R481, R482). -/
inductive DebugPort where
  | jtag
  | uart
  deriving DecidableEq, Repr

/-- Why the input stage turns the module off (R492, Table 19.4). -/
inductive OffCause where
  | undervoltage
  | overvoltage
  | enableBreak
  deriving DecidableEq, Repr

end Sys2Proof
end

