-- ==== Sys2Proof/Syntax.lean ====
section
/-! DEFINITION. The commands of the block: one constructor per row of the opcode table, in the table's order. -/

namespace Sys2Proof

/-- A command: an operation from outside, or a whole and indivisible step of the part (95_what_each_step_holds). -/
inductive Instr where
  /-- ENTER_SERVICE (R5) -/
  | enterService (p : Port)
  /-- ENTER_TEST (R5) -/
  | enterTest (p : Port)
  /-- ENTER_RECOVERY (R5) -/
  | enterRecovery (p : Port)
  /-- ENTER_STANDBY (R385) -/
  | enterStandby (p : Port)
  /-- STANDBY_ENTERED (R385) -/
  | standbyEntered
  /-- WAKE_FROM_STANDBY (R493) -/
  | wakeFromStandby (p : Port)
  /-- MODULE_RESET_REQUEST (R420) -/
  | moduleResetRequest (p : Port)
  /-- START_UP (R493) -/
  | startUp (facts : StartFacts)
  /-- START_END (R494) -/
  | startEnd
  /-- IDENTITY_DERIVED (R431) -/
  | identityDerived (matched : Bool)
  /-- RETIRE_GROVE (R25) -/
  | retireGrove (p : Port) (n : W16)
  /-- TIME_TOKEN (R39) -/
  | timeToken
  /-- FULL_COUNT_TOKEN (R39) -/
  | fullCountToken
  /-- TIME_SOURCE_CHANGE (R38) -/
  | timeSourceChange (port : Nat)
  /-- IADD (R86) -/
  | iadd (w : Wid) (f : FAlu)
  /-- ISUB (R86) -/
  | isub (w : Wid) (f : FAlu)
  /-- IMIN (R86) -/
  | imin (w : Wid) (f : FAlu)
  /-- IMAX (R86) -/
  | imax (w : Wid) (f : FAlu)
  /-- AND (R86) -/
  | and (w : Wid) (f : FAlu)
  /-- OR (R86) -/
  | or (w : Wid) (f : FAlu)
  /-- XOR (R86) -/
  | xor (w : Wid) (f : FAlu)
  /-- SHL (R86) -/
  | shl (w : Wid) (f : FAlu)
  /-- SHR (R86) -/
  | shr (w : Wid) (f : FAlu)
  /-- SAR (R86) -/
  | sar (w : Wid) (f : FAlu)
  /-- IABS (R87) -/
  | iabs (w : Wid) (f : FAlu)
  /-- MOVI (R86) -/
  | movi (w : Wid) (f : FImm)
  /-- MOVHI (R86) -/
  | movhi (w : Wid) (f : FImm)
  /-- IMUL (R86) -/
  | imul (w : Wid) (f : FReg)
  /-- IMULHI (R86) -/
  | imulhi (w : Wid) (f : FReg)
  /-- IMAD (R86) -/
  | imad (w : Wid) (f : FReg)
  /-- IDIV (R87) -/
  | idiv (w : Wid) (f : FReg)
  /-- IREM (R87) -/
  | irem (w : Wid) (f : FReg)
  /-- ONES (R86) -/
  | ones (w : Wid) (f : FReg)
  /-- ZLEAD (R86) -/
  | zlead (w : Wid) (f : FReg)
  /-- BITREV (R86) -/
  | bitrev (w : Wid) (f : FReg)
  /-- FLDX (R87) -/
  | fldx (w : Wid) (f : FReg)
  /-- FLDI (R87) -/
  | fldi (w : Wid) (f : FReg)
  /-- EQ (R86) -/
  | eq (w : Wid) (f : FCmp)
  /-- NE (R88) -/
  | ne (w : Wid) (f : FCmp)
  /-- LT (R86) -/
  | lt (w : Wid) (f : FCmp)
  /-- LE (R86) -/
  | le (w : Wid) (f : FCmp)
  /-- GT (R86) -/
  | gt (w : Wid) (f : FCmp)
  /-- GE (R86) -/
  | ge (w : Wid) (f : FCmp)
  /-- NUM (R88) -/
  | num (w : Wid) (f : FReg)
  /-- NAN (R88) -/
  | nan (w : Wid) (f : FReg)
  /-- PAND (R85) -/
  | pand (w : Wid) (f : FReg)
  /-- POR (R85) -/
  | por (w : Wid) (f : FReg)
  /-- PXOR (R85) -/
  | pxor (w : Wid) (f : FReg)
  /-- PNOT (R85) -/
  | pnot (w : Wid) (f : FReg)
  /-- SEL (R86) -/
  | sel (w : Wid) (f : FReg)
  /-- FADD (R88) -/
  | fadd (w : Wid) (f : FReg)
  /-- FSUB (R88) -/
  | fsub (w : Wid) (f : FReg)
  /-- FMUL (R88) -/
  | fmul (w : Wid) (f : FReg)
  /-- FFMA (R89) -/
  | ffma (w : Wid) (f : FReg)
  /-- FMIN (R88) -/
  | fmin (w : Wid) (f : FReg)
  /-- FMAX (R88) -/
  | fmax (w : Wid) (f : FReg)
  /-- FABS (R88) -/
  | fabs (w : Wid) (f : FReg)
  /-- FNEG (R88) -/
  | fneg (w : Wid) (f : FReg)
  /-- FRCP (R89) -/
  | frcp (w : Wid) (f : FReg)
  /-- FRSQ (R89) -/
  | frsq (w : Wid) (f : FReg)
  /-- FSQRT (R89) -/
  | fsqrt (w : Wid) (f : FReg)
  /-- FEX2 (R89) -/
  | fex2 (w : Wid) (f : FReg)
  /-- FLG2 (R89) -/
  | flg2 (w : Wid) (f : FReg)
  /-- FSIN (R89) -/
  | fsin (w : Wid) (f : FReg)
  /-- FCOS (R89) -/
  | fcos (w : Wid) (f : FReg)
  /-- CVT (R90) -/
  | cvt (w : Wid) (f : FReg)
  /-- LD (R91) -/
  | ld (w : Wid) (f : FMem)
  /-- LD_S (R91) -/
  | ldS (w : Wid) (f : FMem)
  /-- ST (R93) -/
  | st (w : Wid) (f : FMem)
  /-- ATOM_ADD (R93) -/
  | atomAdd (w : Wid) (f : FMem)
  /-- ATOM_MIN_S (R93) -/
  | atomMinS (w : Wid) (f : FMem)
  /-- ATOM_MAX_S (R93) -/
  | atomMaxS (w : Wid) (f : FMem)
  /-- ATOM_MIN_U (R93) -/
  | atomMinU (w : Wid) (f : FMem)
  /-- ATOM_MAX_U (R93) -/
  | atomMaxU (w : Wid) (f : FMem)
  /-- ATOM_AND (R93) -/
  | atomAnd (w : Wid) (f : FMem)
  /-- ATOM_OR (R93) -/
  | atomOr (w : Wid) (f : FMem)
  /-- ATOM_XOR (R93) -/
  | atomXor (w : Wid) (f : FMem)
  /-- EXCH (R93) -/
  | exch (w : Wid) (f : FMem)
  /-- CAS (R93) -/
  | cas (w : Wid) (f : FMem)
  /-- ATOM_FADD (R93) -/
  | atomFadd (w : Wid) (f : FMem)
  /-- FADD32 (R94) -/
  | fadd32 (w : Wid) (f : FMem)
  /-- BF16ADD (R94) -/
  | bf16add (w : Wid) (f : FMem)
  /-- IADD32 (R94) -/
  | iadd32 (w : Wid) (f : FMem)
  /-- FMAX32 (R94) -/
  | fmax32 (w : Wid) (f : FMem)
  /-- IMAX32 (R94) -/
  | imax32 (w : Wid) (f : FMem)
  /-- PREF_LLC (R95) -/
  | prefLlc (w : Wid) (f : FMem)
  /-- PREF_NEAR (R95) -/
  | prefNear (w : Wid) (f : FMem)
  /-- BRA (R96) -/
  | bra (w : Wid) (f : FBr)
  /-- BRX (R96) -/
  | brx (w : Wid) (f : FBr)
  /-- CALL (R97) -/
  | call (w : Wid) (f : FBr)
  /-- RET (R97) -/
  | ret (w : Wid) (f : FBr)
  /-- PARKED_PATH_RELEASE (R54) -/
  | parkedPathRelease (w : Wid) (path : Nat)
  /-- PATH_SWITCH (R55) -/
  | pathSwitch (w : Wid)
  /-- SHFL_PICK (R62) -/
  | shflPick (w : Wid) (f : FCol)
  /-- SHFL_ROT (R62) -/
  | shflRot (w : Wid) (f : FCol)
  /-- SHFL_SWAP (R62) -/
  | shflSwap (w : Wid) (f : FCol)
  /-- SHFL_LEAD (R62) -/
  | shflLead (w : Wid) (f : FCol)
  /-- VOTE_ANY (R62) -/
  | voteAny (w : Wid) (f : FCol)
  /-- VOTE_ALL (R62) -/
  | voteAll (w : Wid) (f : FCol)
  /-- VOTE_BALLOT (R62) -/
  | voteBallot (w : Wid) (f : FCol)
  /-- COLLECTIVE_TIMEOUT (R60) -/
  | collectiveTimeout (w : Wid) (mask : BitVec 16)
  /-- WAIT_EQ (R63) -/
  | waitEq (w : Wid) (f : FMem)
  /-- WAIT_NE (R63) -/
  | waitNe (w : Wid) (f : FMem)
  /-- WAIT_T (R64) -/
  | waitT (w : Wid) (f : FReg)
  /-- WAIT_CONDITION_MET (R63) -/
  | waitConditionMet (w : Wid) (path : Nat)
  /-- WAIT_DEADLINE (R66) -/
  | waitDeadline (w : Wid) (path : Nat)
  /-- WATCH_REREAD (R65) -/
  | watchReread (w : Wid) (path : Nat) (hw : List Host.Cell)
  /-- NOP (R85) -/
  | nop (w : Wid) (f : FReg)
  /-- EXIT (R57) -/
  | exit (w : Wid) (f : FReg)
  /-- FENCE (R250) -/
  | fence (w : Wid) (f : FReg)
  /-- RDSR (R85) -/
  | rdsr (w : Wid) (f : FReg)
  /-- TILE_MAC (R116) -/
  | tileMac (w : Wid) (f : FTile)
  /-- TILE_SEQ (R119) -/
  | tileSeq (w : Wid) (f : FTile)
  /-- TILE_L (R131) -/
  | tileL (w : Wid) (f : FTile)
  /-- TILE_ST (R124) -/
  | tileSt (w : Wid) (f : FTile)
  /-- TILE_ZERO (R117) -/
  | tileZero (w : Wid) (f : FTile)
  /-- TILE_START (R112) -/
  | tileStart (core : Nat)
  /-- PORT_B_YIELD (R114) -/
  | portBYield (core : Nat)
  /-- FILLER_PASS (R133) -/
  | fillerPass (core : Nat)
  /-- CHUTE_RD (R102) -/
  | chuteRd (w : Wid) (f : FReg)
  /-- CHUTE_RDS (R102) -/
  | chuteRds (w : Wid) (f : FReg)
  /-- CHUTE_LVL (R102) -/
  | chuteLvl (w : Wid) (f : FReg)
  /-- KERF (R103) -/
  | kerf (w : Wid) (f : FReg)
  /-- PIN (R104) -/
  | pin (w : Wid) (f : FReg)
  /-- UNPIN (R104) -/
  | unpin (w : Wid) (f : FReg)
  /-- LOAD_RETURN (R83) -/
  | loadReturn (id : Nat) (hw : List Host.Cell)
  /-- WRITE_ACKNOWLEDGED (R248) -/
  | writeAcknowledged (id : Nat)
  /-- CONTEXT_STOP_DONE (R287) -/
  | contextStopDone (ctx : Nat)
  /-- KERNEL_TIME_LIMIT (R75) -/
  | kernelTimeLimit (kernel : Nat)
  /-- GRANULE_ZERO (R156) -/
  | granuleZero (core : Nat) (granule : Nat)
  /-- REMOTE_STORE_ACCESS (R155) -/
  | remoteStoreAccess (id : Nat)
  /-- RD (R225) -/
  | rd (id : Nat)
  /-- WR (R225) -/
  | wr (id : Nat)
  /-- NR (R225) -/
  | nr (id : Nat)
  /-- DS (R225) -/
  | ds (id : Nat)
  /-- MISS_FILL (R167) -/
  | missFill (line : Nat) (corrected uncorrectable : BitVec 16)
  /-- HELD_REQUEST_RELEASE (R168) -/
  | heldRequestRelease (slice : Nat)
  /-- MEMRD (R225) -/
  | memrd (port : Nat) (meta_ : Meta) (addr : W48) (tag : Nat)
  /-- MEMINV (R225) -/
  | meminv (port : Nat) (addr : W48) (tag : Nat)
  /-- MEMCLNEVCT (R221) -/
  | memclnevct (port : Nat) (addr : W48)
  /-- MEMWR (R225) -/
  | memwr (port : Nat) (addr : W48) (data : List Byte) (poison : Bool)
  /-- BIRSPI (R226) -/
  | birspi (port : Nat) (line : Nat) (sector : Nat)
  /-- BIRSPS (R226) -/
  | birsps (port : Nat) (line : Nat) (sector : Nat)
  /-- BIRSPE (R226) -/
  | birspe (port : Nat) (line : Nat) (sector : Nat)
  /-- BICONFLICT (R228) -/
  | biconflict (port : Nat) (line : Nat)
  /-- BI_TIMEOUT (R228) -/
  | biTimeout (line : Nat) (sector : Nat)
  /-- SNPDATA (R93) -/
  | snpdata (port : Nat) (haddr : Nat)
  /-- SNPINV (R93) -/
  | snpinv (port : Nat) (haddr : Nat)
  /-- SNPCUR (R322) -/
  | snpcur (port : Nat) (haddr : Nat)
  /-- GO (R248) -/
  | go (id : Nat)
  /-- BIAS_FLIP_SHARED (R236) -/
  | biasFlipShared (f port : Nat) (word : W64)
  /-- BIAS_FLIP_DEVICE_OWNED (R236) -/
  | biasFlipDeviceOwned (f port : Nat) (word : W64)
  /-- BIAS_FLIP_DONE (R235) -/
  | biasFlipDone (f : Nat)
  /-- BIAS_DONE (R235) -/
  | biasDone (f : Nat)
  /-- DIRTY_WRITEBACK_PERIOD (R240) -/
  | dirtyWritebackPeriod (half : Nat)
  /-- PATROL_SCRUB (R198) -/
  | patrolScrub (channel row : Nat) (corrected uncorrectable : BitVec 16) (parityBad : BitVec 4)
  /-- CHANNEL_MAP_OUT (R200) -/
  | channelMapOut (p : Port) (ch : W16)
  /-- LINE_MOVE (R202) -/
  | lineMove (line : Nat) (readable : Bool)
  /-- REBUILD (R209) -/
  | rebuild (line : Nat) (readable : Bool)
  /-- STRIPE_BUFFER_CLOSE (R206) -/
  | stripeBufferClose (channel row : Nat)
  /-- MIRROR_COPY (R215) -/
  | mirrorCopy (e : Nat)
  /-- ADMIN_OPERATION_DONE (R268) -/
  | adminOperationDone (f : Nat)
  /-- CTX_CREATE (R269) -/
  | ctxCreate (f : Nat) (arg : BitVec 12) (addr : BitVec 42) (z : BitVec 6) (hw : List Host.Cell)
  /-- CTX_DESTROY (R268) -/
  | ctxDestroy (f : Nat) (arg : BitVec 12) (addr : BitVec 42) (z : BitVec 6)
  /-- Q_CREATE (R270) -/
  | qCreate (f : Nat) (arg : BitVec 12) (addr : BitVec 42) (z : BitVec 6) (hw : List Host.Cell)
  /-- Q_DESTROY (R274) -/
  | qDestroy (f : Nat) (arg : BitVec 12) (addr : BitVec 42) (z : BitVec 6)
  /-- Q_PAUSE (R274) -/
  | qPause (f : Nat) (arg : BitVec 12) (addr : BitVec 42) (z : BitVec 6)
  /-- Q_START (R274) -/
  | qStart (f : Nat) (arg : BitVec 12) (addr : BitVec 42) (z : BitVec 6)
  /-- Q_RESUME (R274) -/
  | qResume (f : Nat) (arg : BitVec 12) (addr : BitVec 42) (z : BitVec 6)
  /-- GRAPH_CREATE (R291) -/
  | graphCreate (f : Nat) (arg : BitVec 12) (addr : BitVec 42) (z : BitVec 6) (hw : List Host.Cell)
  /-- GRAPH_PATCH (R293) -/
  | graphPatch (f : Nat) (arg : BitVec 12) (addr : BitVec 42) (z : BitVec 6) (hw : List Host.Cell)
  /-- GRAPH_DESTROY (R293) -/
  | graphDestroy (f : Nat) (arg : BitVec 12) (addr : BitVec 42) (z : BitVec 6)
  /-- TAIL (R272) -/
  | tail (agent : BellAgent) (q : Nat) (value : W64) (hw : List Host.Cell)
  /-- CHEAD (R272) -/
  | chead (agent : BellAgent) (q : Nat) (value : W64)
  /-- SLOT_FETCH (R278) -/
  | slotFetch (q : Nat) (hw : List Host.Cell)
  /-- KERNEL (R280) -/
  | kernel (src : CmdSrc)
  /-- COPY (R281) -/
  | copy (src : CmdSrc) (hw : List Host.Cell)
  /-- FILL (R281) -/
  | fill (src : CmdSrc)
  /-- WAIT_COMMAND (R282) -/
  | waitCommand (src : CmdSrc) (hw : List Host.Cell)
  /-- WAIT_COMMAND_TIMEOUT (R282) -/
  | waitCommandTimeout (src : CmdSrc)
  /-- SIGNAL (R282) -/
  | signal (src : CmdSrc)
  /-- GRAPH_LAUNCH (R294) -/
  | graphLaunch (q : Nat)
  /-- JOB_BEGIN (R304) -/
  | jobBegin (q : Nat)
  /-- CLAIM_HELD (R304) -/
  | claimHeld (q : Nat)
  /-- JOB_END (R283) -/
  | jobEnd (q : Nat)
  /-- FLUSH (R301) -/
  | flush (src : Option CmdSrc) (chute : Nat)
  /-- STOP (R301) -/
  | stop (src : CmdSrc)
  /-- START (R301) -/
  | start (src : CmdSrc)
  /-- PIN_COMMAND (R284) -/
  | pinCommand (src : CmdSrc)
  /-- UNPIN_COMMAND (R284) -/
  | unpinCommand (src : CmdSrc)
  /-- KERF_COMMAND (R284) -/
  | kerfCommand (src : CmdSrc)
  /-- FELL_COMMAND (R285) -/
  | fellCommand (q : Nat)
  /-- COMPLETION_RECORD_WRITE (R286) -/
  | completionRecordWrite (src : CmdSrc)
  /-- QUEUE_RESUME_WRITE (R275) -/
  | queueResumeWrite (p : Port) (q : W16)
  /-- WORD (R298) -/
  | word (src : ChuteSrc) (chute : Nat) (data : W64)
  /-- LASTN (R298) -/
  | lastn (src : ChuteSrc) (chute : Nat) (n : Nat) (data : W64)
  /-- PRODUCER_RESUME (R299) -/
  | producerResume (chute : Nat)
  /-- PLACE_WAVE (R309) -/
  | placeWave (kernel : Nat)
  /-- SWITCH_OUT (R311) -/
  | switchOut (kernel : Nat)
  /-- SWITCH_OUT_DONE (R312) -/
  | switchOutDone (kernel : Nat)
  /-- RESTORE (R313) -/
  | restore (kernel : Nat)
  /-- ENERGY_ATTRIBUTION (R320) -/
  | energyAttribution (facts : EnergyFacts)
  /-- BAR4_READ (R328) -/
  | bar4Read (port f : Nat) (off : Nat) (len : Nat)
  /-- BAR4_WRITE (R328) -/
  | bar4Write (port f : Nat) (off : Nat) (data : List Byte)
  /-- ERR_CAUSE (R330) -/
  | errCause (f : Nat) (value : W64)
  /-- H_SEND (R331) -/
  | hSend (value : W64) (bytes : List Byte)
  /-- H_ACK (R331) -/
  | hAck (value : W64)
  /-- FUNCTION_LEVEL_RESET (R335) -/
  | functionLevelReset (f : Nat)
  /-- VF_DISABLE (R334) -/
  | vfDisable (port : Nat) (numVfs : Nat)
  /-- TLB_INV (R339) -/
  | tlbInv (f : Nat) (word : W64)
  /-- TLB_INV_DONE (R339) -/
  | tlbInvDone (f : Nat)
  /-- ATS_TRANSLATION_COMPLETION (R338) -/
  | atsTranslationCompletion (port : Nat) (pasid : Nat) (page : Nat) (r w x : Bool)
  /-- ATS_INVALIDATION (R340) -/
  | atsInvalidation (port : Nat) (pasid : Nat) (page : Nat) (pages : Nat)
  /-- LINK_DOWN (R342) -/
  | linkDown (port : Nat)
  /-- LINK_UP (R342) -/
  | linkUp (port : Nat)
  /-- LINK_LOSS_RESET (R343) -/
  | linkLossReset (port : Nat)
  /-- IDE_INTEGRITY_FAILURE (R341) -/
  | ideIntegrityFailure (port : Nat)
  /-- ZEROING (R344) -/
  | zeroing (line : Nat)
  /-- LANE_REPAIR (R348) -/
  | laneRepair (joint tenon lane : Nat) (trained : Bool)
  /-- TENON_RETRAIN (R347) -/
  | tenonRetrain (joint tenon : Nat)
  /-- TENON_RETRAIN_DONE (R349) -/
  | tenonRetrainDone (joint tenon : Nat)
  /-- READMIT (R355) -/
  | readmit (p : Port) (n : Nat)
  /-- ADMISSION (R354) -/
  | admission (n : Nat) (facts : AdmitFacts)
  /-- RAFTER_CLOCK (R357) -/
  | rafterClock (n : Nat) (present : Bool)
  /-- RDS (R356) -/
  | rds (n : Nat) (h : JHdr)
  /-- RDO (R356) -/
  | rdo (n : Nat) (h : JHdr)
  /-- RDN (R356) -/
  | rdn (n : Nat) (h : JHdr)
  /-- JOINT_WR (R356) -/
  | jointWr (n : Nat) (h : JHdr) (data : List Byte)
  /-- ATM (R356) -/
  | atm (n : Nat) (h : JHdr) (data : List Byte)
  /-- JOINT_ACW (R370) -/
  | jointAcw (n : Nat) (h : JHdr) (data : List Byte)
  /-- DATA (R356) -/
  | data (n : Nat) (h : JHdr) (data : List Byte)
  /-- ACK (R356) -/
  | ack (n : Nat) (h : JHdr)
  /-- NAK (R356) -/
  | nak (n : Nat) (h : JHdr)
  /-- SRSP (R226) -/
  | srsp (n : Nat) (h : JHdr) (data : List Byte)
  /-- EVN (R221) -/
  | evn (n : Nat) (h : JHdr) (data : List Byte)
  /-- TENON_TEST_START (R358) -/
  | tenonTestStart (p : Port)
  /-- TENON_TEST_END (R358) -/
  | tenonTestEnd (errors : List W16)
  /-- RAFTER_WRITE (R368) -/
  | rafterWrite (h : RHdr) (data : List Byte)
  /-- RAFTER_READ (R368) -/
  | rafterRead (h : RHdr)
  /-- READ_RESP (R365) -/
  | readResp (h : RHdr) (data : List Byte)
  /-- ATOMIC (R368) -/
  | atomic (h : RHdr) (data : List Byte)
  /-- ATOMIC_RESP (R365) -/
  | atomicResp (h : RHdr) (data : List Byte)
  /-- RAFTER_ACW (R370) -/
  | rafterAcw (h : RHdr) (data : List Byte)
  /-- ERROR (R369) -/
  | error (h : RHdr)
  /-- RAFTER_ACK (R367) -/
  | rafterAck (h : RHdr)
  /-- RAFTER_NAK (R367) -/
  | rafterNak (h : RHdr)
  /-- HOLD (R372) -/
  | hold (h : RHdr)
  /-- SYN (R366) -/
  | syn (h : RHdr)
  /-- SYNACK (R366) -/
  | synack (h : RHdr)
  /-- REFUSE (R366) -/
  | refuse (h : RHdr)
  /-- CLOSE (R366) -/
  | close (h : RHdr)
  /-- KEEPALIVE (R366) -/
  | keepalive (h : RHdr)
  /-- SYN_RESEND (R366) -/
  | synResend (sess : Nat)
  /-- ACK_TIMER (R367) -/
  | ackTimer (sess : Nat)
  /-- RETRANSMIT_TIMEOUT (R367) -/
  | retransmitTimeout (sess : Nat)
  /-- KEEPALIVE_SEND (R367) -/
  | keepaliveSend (sess : Nat)
  /-- KEEPALIVE_LOST (R367) -/
  | keepaliveLost (sess : Nat)
  /-- POWER_FAST_LOOP (R389) -/
  | powerFastLoop (facts : PowerFacts)
  /-- POWER_SLOW_LOOP (R389) -/
  | powerSlowLoop (points : List (Nat × Nat))
  /-- DOMAIN_GATE (R381) -/
  | domainGate (domain : Nat)
  /-- DOMAIN_WAKE_DONE (R380) -/
  | domainWakeDone (domain : Nat)
  /-- BAY_SLEEP_REQUEST (R382) -/
  | baySleepRequest (p : Port) (bay : Nat)
  /-- BAY_WAKE_REQUEST (R383) -/
  | bayWakeRequest (cause : WakeCause) (bay : Nat)
  /-- BAY_SLEEP_ENTERED (R382) -/
  | baySleepEntered (bay : Nat)
  /-- BAY_WAKE_DONE (R383) -/
  | bayWakeDone (bay : Nat)
  /-- THERMAL_SAMPLE (R393) -/
  | thermalSample (facts : ThermalFacts)
  /-- THROTTLE_N_ASSERT (R392) -/
  | throttleNAssert
  /-- THROTTLE_N_RELEASE (R496) -/
  | throttleNRelease
  /-- SCRIBE_MESSAGE (R404) -/
  | scribeMessage (p : Port) (env : Envelope) (bytes : List Byte)
  /-- READ (R403) -/
  | read (p : Port) (index : W16) (sub : Byte) (len : BitVec 12) (off : BitVec 20)
  /-- WRITE (R413) -/
  | write (p : Port) (index : W16) (sub : Byte) (off : BitVec 20) (data : List Byte)
  /-- STAGE (R411) -/
  | stage (p : Port) (index : W16) (sub : Byte) (off : BitVec 20) (data : List Byte)
  /-- INFO (R403) -/
  | info (p : Port) (index : W16) (sub : Byte)
  /-- NEXT (R403) -/
  | next (p : Port) (index : W16) (sub : Byte)
  /-- PEG_TAKE (R410) -/
  | pegTake (p : Port)
  /-- PEG_RENEW (R410) -/
  | pegRenew (p : Port)
  /-- PEG_RELEASE (R410) -/
  | pegRelease (p : Port)
  /-- COMMIT (R412) -/
  | commit (p : Port) (flashOk : Bool)
  /-- DISCARD (R411) -/
  | discard (p : Port)
  /-- LEASE_EXPIRY (R410) -/
  | leaseExpiry
  /-- FELL (R459) -/
  | fell (p : Port) (reason : W16)
  /-- RESUME (R464) -/
  | resume (p : Port)
  /-- CUT_COMPLETE (R462) -/
  | cutComplete
  /-- RESUME_COMPLETE (R464) -/
  | resumeComplete
  /-- ERASE (R435) -/
  | erase (agent : CtlAgent)
  /-- CHECK (R435) -/
  | check (agent : CtlAgent)
  /-- ACTIVATE (R435) -/
  | activate (agent : CtlAgent)
  /-- CONFIRM (R435) -/
  | confirm (agent : CtlAgent)
  /-- CANCEL (R435) -/
  | cancel (agent : CtlAgent)
  /-- REVERT (R435) -/
  | revert (agent : CtlAgent)
  /-- UPDATE_OPERATION_DONE (R435) -/
  | updateOperationDone (flashOk : Bool)
  /-- SLOT_WRITE (R434) -/
  | slotWrite (agent : CtlAgent) (off : Nat) (data : List Byte)
  /-- GET_MEASUREMENTS (R438) -/
  | getMeasurements (t : Transport) (seq : W16) (signed : Bool) (index : Nat) (nonce : List Byte)
  /-- SPDM_MESSAGE (R436) -/
  | spdmMessage (t : Transport) (frame : SpdmFrame)
  /-- CORE_FAILED (R448) -/
  | coreFailed (core : Nat) (detector : Nat)
  /-- GROVE_FAILURE (R448) -/
  | groveFailure (grove : Nat)
  /-- DOMAIN_FAILED (R449) -/
  | domainFailed (domain : Nat)
  /-- BAY_RESET (R455) -/
  | bayReset (trigger : BayTrigger)
  /-- DRAIN_CONFIRM_TIMEOUT (R239) -/
  | drainConfirmTimeout (bay : Nat)
  /-- BAY_RETURNED (R243) -/
  | bayReturned (bay : Nat)
  /-- BAY_RETURN_TIMEOUT (R457) -/
  | bayReturnTimeout (bay : Nat)
  /-- FLOG_ACK (R444) -/
  | flogAck (agent : CtlAgent) (value : W64)
  /-- EPTICK (R471) -/
  | eptick (agent : CtlAgent) (value : W64)
  /-- SAMPLE (R475) -/
  | sample
  /-- DBG_MSG (R482) -/
  | dbgMsg (value : BitVec 34)
  /-- UART_FRAME (R482) -/
  | uartFrame (body : List Byte) (crc : W32)
  /-- CHAIN_SEL (R481) -/
  | chainSel (value : Byte)
  /-- TAP_TENON_TEST (R481) -/
  | tapTenonTest (value : W64)
  /-- DEBUG_READ (R484) -/
  | debugRead (addr : W48) (len : W16) (seq : W16) (port : DebugPort)
  /-- DEBUG_WRITE (R484) -/
  | debugWrite (addr : W48) (seq : W16) (port : DebugPort) (data : List Byte)
  /-- DEBUG_FELL (R459) -/
  | debugFell (seq : W16) (port : DebugPort)
  /-- DEBUG_RESUME (R464) -/
  | debugResume (seq : W16) (port : DebugPort)
  /-- TAG_READ (R482) -/
  | tagRead (arg : W32) (seq : W16) (port : DebugPort)
  /-- STATUS (R482) -/
  | status (seq : W16) (port : DebugPort)
  /-- CHALLENGE (R483) -/
  | challenge (seq : W16) (port : DebugPort)
  /-- UNLOCK (R483) -/
  | unlock (seq : W16) (port : DebugPort) (data : List Byte)
  /-- UNLOCK_LOCKOUT_END (R483) -/
  | unlockLockoutEnd
  /-- POWER_ON (R491) -/
  | powerOn (mv : Nat)
  /-- TURN_OFF (R492) -/
  | turnOff (cause : OffCause)
  /-- MODULE_RESET (R496) -/
  | moduleReset
  /-- MOD_RESET_RELEASE (R496) -/
  | modResetRelease
  /-- PERST_ASSERT (R496) -/
  | perstAssert (port : Nat)
  /-- PERST_RELEASE (R495) -/
  | perstRelease (port : Nat)
  /-- HALT_N_FALL (R496) -/
  | haltNFall
  /-- HALT_N_RISE (R464) -/
  | haltNRise
  /-- ENTER_START (R5) -/
  | enterStart (p : Port)
  /-- REFERENCE_CLOCK_RETURN (R38) -/
  | referenceClockReturn (port : Nat)
  /-- ETHERNET_PORT_DOWN (R360) -/
  | ethernetPortDown (n port : Nat)
  /-- ETHERNET_PORT_UP (R360) -/
  | ethernetPortUp (n port : Nat)
  /-- HOT_RESET (R342) -/
  | hotReset (port : Nat)
  /-- VF_ENABLE (R325) -/
  | vfEnable (port : Nat) (f : Nat) (busMaster : Bool) (vfEnable numVfs : Nat)
  /-- RESTORE_DONE (R315) -/
  | restoreDone (kernel : Nat)
  /-- DOMAIN_GATE_DONE (R381) -/
  | domainGateDone (domain : Nat)
  /-- TEST_LOGIC_RESET (R481) -/
  | testLogicReset
  /-- EXTEST (R481) -/
  | extest (cells : BitVec 13)
  deriving DecidableEq, Repr

end Sys2Proof
end

