-- ==== Sys2Proof/Decode.lean ====
section
/-! DEFINITION. Decoding a table word. The part takes commands, not encoded words: no row of the opcode table has bits. -/

namespace Sys2Proof

/-- The command a word spells by the table's bits. The table gives bits for none of its 335 rows, so no word spells one.
DESIGN CHOICE, log 56. -/
def decodeTableWord (_nbits _w : Nat) : Option Instr := none

end Sys2Proof
end

