-- ==== Sys2Proof/Machine/Encode.lean ====
section
/-! DEFINITION. The instruction word (R79 to R85): the 64 bits of each format (Tables 03.1 to 03.7), and the functions that the
major opcodes define (Tables 03.9 to 03.16). -/

namespace Sys2Proof.Machine

/-- A function of a major opcode: OPC and FN of Table 03.1. -/
structure Code where
  opc : BitVec 6
  fn : BitVec 7
  deriving DecidableEq, Repr

/-- Bits 63:47 of every instruction (Table 03.1) above bits 46:0. -/
def wordOf (c : Code) (gn : BitVec 1) (gp : BitVec 3) (low : BitVec 47) : W64 := c.opc ++ gn ++ gp ++ c.fn ++ low

/-- Format Reg (Table 03.2). -/
def regWord (c : Code) (f : FReg) : W64 :=
  wordOf c f.gn f.gp (f.d ++ f.a ++ f.b ++ f.c ++ f.ty ++ f.ps ++ f.rnd ++ f.sat ++ f.z)

/-- Format Imm (Table 03.3). -/
def immWord (c : Code) (f : FImm) : W64 := wordOf c f.gn f.gp (f.d ++ f.a ++ f.w ++ f.imm)

/-- Format Mem (Table 03.4). -/
def memWord (c : Code) (f : FMem) : W64 :=
  wordOf c f.gn f.gp (f.d ++ f.a ++ f.b ++ f.ord ++ f.sc ++ f.cls ++ f.sz ++ f.off)

/-- Format Br (Table 03.5). -/
def brWord (c : Code) (f : FBr) : W64 := wordOf c f.gn f.gp (f.tgt ++ f.join)

/-- Format Col (Table 03.6). -/
def colWord (c : Code) (f : FCol) : W64 :=
  wordOf c f.gn f.gp (f.d ++ f.a ++ f.b ++ f.ms ++ f.mask ++ f.di ++ f.ps ++ f.z)

/-- Format Tile (Table 03.7). -/
def tileWord (c : Code) (f : FTile) : W64 :=
  wordOf c f.gn f.gp (f.acc ++ f.ty ++ f.a ++ f.b ++ f.c ++ f.rnd ++ f.sat ++ f.ms ++ f.mask)

/-- How many functions, from 0 up, a major opcode defines (Tables 03.9 to 03.16); 0 for an undefined one. -/
def fnCount (opc : Nat) : Nat :=
  match opc with
  | 0x00 => 5
  | 0x01 => 2
  | 0x02 => 1
  | 0x03 => 1
  | 0x04 => 1
  | 0x05 => 1
  | 0x08 => 11
  | 0x09 => 11
  | 0x0A => 3
  | 0x0B => 2
  | 0x0C => 5
  | 0x0D => 6
  | 0x0E => 6
  | 0x10 => 8
  | 0x11 => 7
  | 0x12 => 1
  | 0x13 => 8
  | 0x14 => 5
  | 0x18 => 2
  | 0x19 => 1
  | 0x1A => 11
  | 0x1B => 5
  | 0x1C => 2
  | 0x20 => 4
  | 0x21 => 3
  | 0x28 => 1
  | 0x29 => 1
  | 0x2A => 1
  | 0x2B => 1
  | 0x2C => 1
  | 0x30 => 3
  | 0x31 => 1
  | 0x32 => 2
  | _ => 0

/-- Does a word name a defined major opcode and one of its functions (R85)? MOVI and MOVHI are IALUI's 0x10 and 0x11. -/
def wordDefined (w : W64) : Bool :=
  let opc := (w.extractLsb' 58 6).toNat
  let fn := (w.extractLsb' 47 7).toNat
  decide (fn < fnCount opc) || (opc == 0x09 && (fn == 0x10 || fn == 0x11))

end Sys2Proof.Machine
end

