-- ==== Sys2Proof/Config.lean ====
section
/-! DEFINITION. What the spec leaves to the module at hand: free values, with no body, so that a statement holds for
every value of them. -/

namespace Sys2Proof

/-- A fresh free value: the n-th that a run draws (applied to `State.free`). DESIGN CHOICE, log 8. -/
opaque Config.freeWord : Nat → W64

/-- The value a special-function instruction (FSFU function, operand) gives inside the error bound of R89. DESIGN CHOICE, log 9. -/
opaque Config.fsfu : Nat → W32 → W32

/-- RSASSA-PSS verification by a modulus (R422): modulus, message, signature. DESIGN CHOICE, log 10. -/
opaque Config.pssVerifies : List Byte → List Byte → List Byte → Bool

/-- The modulus of the Niroern root key in the boot ROM (R422). DESIGN CHOICE, log 10. -/
opaque Config.rootModulus : List Byte

/-- A signature by the identity key over a message (R422). DESIGN CHOICE, log 10. -/
opaque Config.identitySign : List Byte → List Byte

/-- The n-th block of 32 bytes of the Security Engine's random generator (R422). DESIGN CHOICE, log 10. -/
opaque Config.random32 : Nat → List Byte

/-- SPDM response bytes whose contents the SPDM standard fixes and this spec does not restate (R436). PRESUMED, log 11. -/
opaque Config.spdmBody : Nat → List Byte → List Byte

/-- Digests that the spec does not fix: 0 of the boot ROM with the SE ROM, 1 of the calibration record in use, 2 to 4 of the images
that slot A is shipped with (measurement blocks 1 to 5, R438). DESIGN CHOICE, log 10. -/
opaque Config.romDigest : Nat → List Byte

/-- The die revision and manufacturer code of the TAP's IDCODE (Table 18.7). -/
opaque Config.idcode : W32

/-- Chooses the place of girt engine k among those still open: the spec names the codes and not their places. DEDUCED, log 86. -/
opaque Config.girtSlot : Nat → Nat

/-- How far, in ns, the slowest grove's counter lies behind device time; the fastest is less than 21 ns ahead of it (R40).
DESIGN CHOICE, log 54. -/
opaque Config.skewLow : Nat

/-- The bytes of the images that slot A is shipped with (the spec gives no image). DESIGN CHOICE, log 6. -/
opaque Config.factoryByte : Nat → Byte

end Sys2Proof
end

