-- ==== Sys2Proof/Machine/State.lean ====
section
/-! DEFINITION. The state of the module as plain data: every register, table, buffer, counter, mode and pin the spec
gives the part, the queue of commands that wait, and the state right after reset. -/

namespace Sys2Proof.Machine

/-- A sparse map by number, keys ascending; what an unlisted key holds is said where the map is used. -/
abbrev FMap (V : Type) := List (Nat × V)

/-- Memory as (address, byte) cells in canonical form: addresses strictly rising, no byte 0 listed; an unlisted address
reads as 0 (lines are zeroed before their first access, R344, R178, R156). -/
abbrev Mem := List Host.Cell

/-- Operating states (Table 00.3), coded as OD 0x2000:01. -/
inductive OpState where
  | start
  | service
  | test
  | recovery
  | standby
  deriving DecidableEq, Repr

/-- Where a start-up stands (R493, R494, R424, R430). -/
inductive StartPhase where
  | off            -- no input power, or domain 76 held in reset
  | released       -- the release point is set; START_UP is due
  | running        -- the timed sequence of Table 19.5 runs
  | held           -- a held start (R424)
  | romRecovery    -- only the boot ROM runs (R430)
  | ended
  deriving DecidableEq, Repr

/-- The module's edge: power input, pins, straps, device time (chapters 01 and 19). DESIGN CHOICE, log 7. -/
structure ModuleSt where
  op : OpState
  phase : StartPhase
  cause : Nat             -- cause of the start-up under way (Table 15.5); 0 for a wake from STANDBY
  inputMv : Nat
  switchClosed : Bool
  pwrGood : Bool
  modResetN : Bool
  perstN : List Bool      -- PERST0_N, PERST1_N
  haltN : Bool
  haltSeen : Bool         -- HALT_N was taken as low before the present START ended
  throttleN : Bool
  slotId : BitVec 5
  jtagSel : Bool
  refclk : List Bool      -- REFCLK0, REFCLK1 present
  time : W64              -- device time, ns (R3)
  groveWait : List Nat    -- logical groves that wait for a full-count token (R41)
  groveLast : FMap Nat    -- last timestamp a grove issued (R40)
  fullAt : Nat            -- the 65,536 ns interval whose full-count token has been sent (R39)
  maxSkew : Nat           -- greatest skew measured since start-up, ns (R41)
  draining : Bool         -- the STANDBY drain of R385 is under way
  startResult : Nat       -- reason code of a held start (HELD_START detail); 0 none
  memActive : Bool        -- CXL DVSEC Memory_Active (R494)
  memInfoValid : Bool     -- CXL DVSEC Memory_Info_Valid (Table 19.5)
  dvsecSize : Nat         -- CXL DVSEC range size (R323)
  wasShort : Bool         -- start-up found a bay below 160 working groves
  deriving DecidableEq, Repr

/-- One reset record (Table 15.7). -/
structure ResetRec where
  time : W64
  cause : Nat
  who : Nat
  classes : BitVec 4
  deriving DecidableEq, Repr

/-- The object dictionary as the MC holds it (chapter 15). An entry that `od` does not list holds its default. -/
structure Dict where
  od : FMap (List Byte)       -- key index × 256 + sub; committed values and stored counters
  staged : FMap (List Byte)
  peg : Option Port
  leaseEnd : Nat              -- device time at which the lease expires
  resets : List ResetRec      -- newest first, at most 16
  generation : Nat
  deriving DecidableEq, Repr

/-- The boot record (Table 16.1). -/
structure BootRec where
  counter : Nat
  pref : Nat                  -- 0 slot A, 1 slot B
  trial : Bool
  tries : Nat
  deriving DecidableEq, Repr

/-- A logical grove whose entry of OD 0x4200:01 is not that of the first calibration (R9, R10, R451). -/
structure GroveEnt where
  bay : Nat
  col : Nat
  row : Nat
  removed : BitVec 16
  lost : Bool
  deriving DecidableEq, Repr

/-- A map-out as the relocation list keeps it (R201). -/
structure MapOut where
  before : List Nat         -- channels mapped out before it
  lost : List Nat           -- D: the channels whose data leaves
  oldLines : Nat
  newLines : Nat
  moved : List Nat          -- the lines of F already moved (R202)
  done : Bool               -- all of F has moved
  deriving DecidableEq, Repr

/-- The spare-map record (Table 16.1): grove map and removed cores, groves dead since shipment, mapped-out channels, retired
bays. -/
structure SpareMap where
  groves : FMap GroveEnt
  dead : List Nat
  out : List Nat
  retired : List Nat
  setOut : List Nat         -- with the mapped-out set: the channels that were out when the data sets were fixed (R190)
  moves : List MapOut       -- and the relocation list since, newest first (R201)
  seq : Nat                 -- records written (R438: block 6 changes with each)
  deriving DecidableEq, Repr

/-- Module flash and what was set at test (R423). -/
structure Flash where
  slotA : Mem               -- complement of what the slot reads, so that an erased slot lists nothing
  slotB : Mem
  factory : Bool            -- slot A still holds the images it was shipped with
  boot : BootRec
  serial : List Byte
  macBase : W48
  hashKey : List (BitVec 10)
  points : FMap (Nat × Nat)   -- key domain × 8 + point: (RATE105, MV) where it differs from the nominal table
  fillerFj : FMap Nat         -- energy per filler pass of a domain, fJ
  badGroves : List Nat        -- physical groves (208 × bay + 13 × column + row) not working at shipment
  certModulus : List Byte
  certChain : List Byte
  spare : SpareMap
  dictP : FMap (List Byte)    -- the dictionary record: P-class entries as they were last signed (R423)
  deriving DecidableEq, Repr

/-- An update operation under way (Table 16.5). -/
inductive UpdOp where
  | erase
  | check
  | activate
  | confirm
  | cancel
  | revert
  deriving DecidableEq, Repr

/-- The Security Engine and the update registers (chapter 16). -/
structure Trust where
  keyAvailable : Bool
  keyDerived : Bool
  runSlot : Nat
  runVersions : List Nat
  runSvn : Nat
  startCounter : Nat        -- COUNTER at the end of start-up (measurement 7)
  op : Option UpdOp
  opResult : Nat
  done : Bool
  pend : Bool
  onTrial : Bool
  dropped : Bool
  svn : Nat
  result : Nat
  writable : Bool
  restored : Bool           -- measurement 10 bit 4
  debugSeen : Bool          -- measurement 10 bit 0
  fwdig : List (List Byte)  -- FWDIG of N0, N1
  bootKeep : Option BootRec -- the boot record in flash while a changed one waits to be signed (R428)
  logMark : Nat             -- FLOG_COUNT when the present start-up began
  spdm : FMap Nat           -- per transport (0, 1 DOE; 2 Port F): SPDM connection phase
  deriving DecidableEq, Repr

/-- BAY_STATE values (Table 17.10). -/
inductive BaySt where
  | running
  | resetting
  | returning
  | retired
  | asleep
  | off
  deriving DecidableEq, Repr

structure Bay where
  st : BaySt
  abrupt : Bool
  since : Nat               -- device time of order 1 of a reset
  draining : Bool           -- an orderly drain is under way (reset or sleep), or the bay's lines are being handed back
  confirmed : Bool          -- the bay controller has confirmed an orderly reset (R239)
  toSleep : Bool            -- the drain ends in BAY_SLEEP
  forced : Bool             -- a forced sleep (R384)
  waking : Bool
  trigger : Nat
  hotSince : Nat            -- device time since which the bay maximum is at or above 110 °C; 0 not
  bands : List Nat          -- bands written by the substitute home (R210), channel × 768 + band
  marked : List Nat         -- marked bands at an abrupt loss (R241), channel × 768 + band
  deriving DecidableEq, Repr

inductive DomSt where
  | on
  | gating
  | gated
  | waking
  | off
  deriving DecidableEq, Repr

/-- A power domain (Table 14.1, R394). -/
structure Dom where
  st : DomSt
  pt : Nat
  lim : Nat                 -- issue limit less 1
  idleSince : Nat
  wanted : Bool             -- became eligible for work while GATING
  why : Nat                 -- reason bits that hold its issue limit below 64 (R395)
  ptWhy : Nat               -- reason bits that hold its point below the one it would otherwise hold (R395)
  onSteps : Nat             -- array steps since the domain last became ON (Table 03.17)
  issued : Bool             -- a core of it issued in the last 1 ms (R389)
  deriving DecidableEq, Repr

/-- A join a path carries (R51). -/
structure Join where
  addr : W64
  split : Nat
  deriving DecidableEq, Repr

/-- Where the watch of a WAIT sits (R65). -/
inductive WatchAt where
  | store (core : Nat)
  | slice (n : Nat)
  | poll
  | timer
  deriving DecidableEq, Repr

/-- A path that waits (R63, R64). -/
structure WaitInfo where
  ne : Bool
  va : Nat
  pa : Nat
  size : Nat
  cmp : W64
  deadline : W64
  acq : Bool
  scope : Nat
  dest : Nat
  pc : W64
  at_ : WatchAt
  nextPoll : Nat            -- when a polled word is read next; 0 before its first read
  deriving DecidableEq, Repr

inductive PathSt where
  | run
  | parked (since : Nat)
  | released
  | waiting (w : WaitInfo)
  | coll (mask : BitVec 16) (pc : W64)
  deriving DecidableEq, Repr

/-- One entry of a whorl's path table (R50 to R55). -/
structure Path where
  pid : Nat
  lanes : BitVec 16
  pc : W64
  joins : List Join
  st : PathSt
  deriving DecidableEq, Repr

inductive ShflKind where
  | pick
  | rot
  | swap
  | lead
  deriving DecidableEq, Repr

inductive VoteKind where
  | any
  | all
  | ballot
  deriving DecidableEq, Repr

inductive TileKind where
  | mac
  | seq
  | fold
  | st
  | zero
  deriving DecidableEq, Repr

/-- A whorl collective (R58). -/
inductive CollOp where
  | shfl (k : ShflKind) (f : FCol)
  | vote (k : VoteKind) (f : FCol)
  | tile (k : TileKind) (f : FTile)
  deriving DecidableEq, Repr

/-- An open collective instance (R58, R60). -/
structure OpenColl where
  pc : W64
  mask : BitVec 16
  arrived : BitVec 16
  opened : Nat
  fullAt : Option Nat       -- device time since which its last member finds the tile queue full (R127)
  op : CollOp
  deriving DecidableEq, Repr

/-- A tile instruction in a tile queue, with the u registers read at entry (R111). -/
structure TileOp where
  kind : TileKind
  f : FTile
  a : W64
  b : W64
  c : W64
  pc : W64
  lanes : BitVec 16
  mark : Nat                -- requests numbered below this were issued before it (R115)
  deriving DecidableEq, Repr

/-- A resident whorl (Table 02.1). Unlisted registers read 0; p7 is not stored (R44). -/
structure Whorl where
  kernel : Nat
  index : Nat
  launched : BitVec 16
  v : FMap W32              -- key lane × 64 + register
  u : FMap W64
  p : List Nat              -- lane × 8 + register of the predicates that hold 1
  acc : FMap W32            -- key tile × 16 + 4i + j
  accInt : BitVec 4         -- bit t: tile t holds INT32
  liveV : List Nat
  liveT : BitVec 4
  paths : List Path
  cur : Nat
  nextPid : Nat
  nextSplit : Nat
  issues : Nat
  curIssues : Nat
  colls : List OpenColl
  tileQ : List TileOp
  stopped : Bool
  deriving DecidableEq, Repr

/-- A line of a core's L1 (R71). -/
structure L1Line where
  block : Nat               -- physical address / 64
  bytes : List Byte
  pois : BitVec 16          -- bit k: its 4 B word k is poisoned
  deriving DecidableEq, Repr

/-- A core (R42). Registers live in its whorls, its store in `MemSys.store`. -/
structure Core where
  slots : FMap Whorl
  l1 : List L1Line          -- most recently used first
  icache : List (Nat × List Byte)   -- 64 B blocks of its own instruction cache, most recent first
  granules : FMap Nat       -- granule number to owning context
  zeroing : List Nat        -- granules that wait to be zeroed (R156)
  failed : Bool
  simtRr : Nat              -- last slot that took the SIMT slot (R46)
  tileRr : Nat              -- last slot that took the TILE slot (R112)
  yield : Bool              -- a port-B requester takes the next step (R114)
  deriving DecidableEq, Repr

/-- Kinds of core memory request. -/
inductive ReqKind where
  | load (signed : Bool)
  | store
  | atom (fn : Nat)
  | acw (fn : Nat)
  | pref (near : Bool)
  | read                    -- BAR4 or debug read (NR)
  | fwrite                  -- Framer, BAR4, debug or DMA posted write
  | dread                   -- Framer or girt DMA read into the DMA cache (DS)
  deriving DecidableEq, Repr

/-- Where a physical address lies (Table 00.4). -/
inductive Region where
  | dram
  | scratch
  | store
  | chute
  | ctl
  | host
  | peer
  | unmapped
  deriving DecidableEq, Repr

/-- Who sent a request. -/
inductive Agent where
  | core (c slot : Nat)
  | bar (port f : Nat)
  | cxl (port : Nat)
  | rafter (n : Nat)
  | session (s : Nat)
  | dma (ctx : Nat)
  | framer
  | dbg
  deriving DecidableEq, Repr

/-- One lane of a request: its addresses, its operand bytes, its compare bytes, and what came back. -/
structure LaneAcc where
  lane : Nat
  va : Nat
  pa : Nat
  data : List Byte
  cmp : List Byte
  got : Option (List Byte)
  pois : Bool
  sent : Bool               -- it has reached its destination
  done : Bool               -- answered or applied
  err : Bool                -- it met an unavailable home or an error completion
  route : List Nat := []    -- the tenons its packet crosses, kept by the edge routers until it arrives (R33 to R35)
  deriving DecidableEq, Repr

inductive ReqPhase where
  | blocked                 -- a release that waits under Table 09.3
  | ats                     -- waits for an ATS translation (R338)
  | port                    -- waits at its CXL port (R342)
  | sent                    -- on its way, or held or waiting at its destination
  | served                  -- every lane answered or applied
  | acked
  deriving DecidableEq, Repr

/-- A memory request in flight. -/
structure Req where
  id : Nat
  agent : Agent
  kind : ReqKind
  lanes : List LaneAcc
  size : Nat
  dest : BitVec 7           -- destination register field of a load or atomic
  pc : W64
  acq : Bool
  rel : Bool
  scope : Nat
  cls : Nat
  region : Region
  ctx : Nat
  once : Bool               -- the access executes once for the path (u destination, R82)
  phase : ReqPhase
  merged : Option Nat       -- the earlier read this one merged into (R169)
  age : Nat                 -- device time at issue
  back : Bool               -- its result has been written to its destination
  fills : List L1Line       -- the blocks its reply brings to the L1
  noFill : Bool             -- an invalidation or a later write keeps them out (R249, R259)
  wt : Bool := false        -- a write-through COPY's write (Table 10.10)
  deriving DecidableEq, Repr

/-- Line states (Table 08.3). -/
inductive LineSt where
  | i
  | s
  | e
  | f
  | o
  | m
  deriving DecidableEq, Repr

/-- Sector data states (Table 06.2). -/
inductive SecSt where
  | invalid
  | clean
  | dirty
  deriving DecidableEq, Repr

/-- A tag and directory entry (Table 08.2) of a home line, or an entry of a slice's overflow table (R219). -/
structure Line where
  slice : Nat               -- 16 × half + slice
  way : Nat
  st : LineSt
  own : Nat
  pres : BitVec 12
  hsec : BitVec 4
  sec : List SecSt
  pois : BitVec 4
  pin : Option Nat          -- partition that pinned it
  stamp : Nat               -- recency
  ovf : Bool
  deriving DecidableEq, Repr

/-- A near copy (R164). -/
structure Near where
  half : Nat
  slice : Nat
  set : Nat
  way : Nat
  line : Nat
  sectors : BitVec 4
  stamp : Nat
  deriving DecidableEq, Repr

/-- Directory requests (chapter 08, Transitions). -/
inductive DirReq where
  | rd (half : Nat) (near : Bool)
  | wr
  | hs (port : Nat)
  | ha (port : Nat)
  | hw (port : Nat)
  | xs (n : Nat)
  | xa (n : Nat)
  | nr
  | ds
  | kf
  | nc (half : Nat) (secs : BitVec 4)   -- a near copy that waits for its way (R164, R238)
  | pn (f : Nat)                        -- a PIN by partition f that waits for its way (R171)
  | mv                                  -- a pinned line that leaves a carved way (R177)
  | rc (host : Bool)                    -- a recall of the host's copies, or of every external one (R236, R241)
  deriving DecidableEq, Repr

/-- A request as its home sees it. `op` is 0 for a plain read or write, otherwise 1 + the ATOM FN, or 32 + the ACW FN. -/
structure HomeReq where
  kind : DirReq
  agent : Agent
  req : Nat                 -- id in `MemSys.reqs`, or 0
  seq : Nat                 -- requests in flight numbered below this left their source before it
  tag : Nat
  pa : Nat
  len : Nat
  op : Nat
  data : List Byte
  cmp : List Byte
  pois : Bool
  cls : Nat
  looked : Bool             -- it has been held at the slice input (R168)
  deriving DecidableEq, Repr

/-- A miss register, which also holds an open transaction of the line (R167, R224). -/
structure MissReg where
  slice : Nat
  line : Nat
  need : BitVec 4           -- sectors asked of DRAM and not yet arrived
  snoops : List (Nat × Nat) -- (agent, sector) answers still awaited
  inval : Bool              -- the snoops are invalidations
  kept : Bool               -- an answer left the host a copy
  evict : Bool              -- the transaction evicts the line (R238), or frees its overflow entry (R219)
  waiters : List HomeReq
  got : BitVec 4            -- sectors brought for a line that has no way (R173, R219)
  bad : BitVec 4            -- of them, those delivered poisoned (R197)
  snooped : Bool            -- snoops were sent
  since : Nat               -- device time at which they were (R228)
  again : Bool              -- an answer left the line exclusive with the host: nothing was given up
  deriving DecidableEq, Repr

/-- A host line in the girt die's DMA cache (R93); `own` in E or M, `dirty` in M. -/
structure HostLine where
  addr : Nat
  port : Nat
  own : Bool
  dirty : Bool
  bytes : List Byte
  deriving DecidableEq, Repr

/-- A stripe buffer of a parity channel's controller (R206). -/
structure StripeBuf where
  channel : Nat
  row : Nat
  opened : Nat
  lines : List Nat          -- the data channels whose line of the row is in
  deriving DecidableEq, Repr

/-- A remembered release write of the scope check (R256). -/
structure RelMem where
  place : Nat               -- slice number, or 128 + core
  block : Nat
  scope : Nat
  agent : Agent
  deriving DecidableEq, Repr

/-- The memory system (chapters 06 to 09 and 12). -/
structure MemSys where
  dram : Mem
  llc : Mem                 -- home copies of the DIRTY sectors; a CLEAN sector holds what DRAM holds (Table 08.3)
  scratch : Mem
  store : Mem
  host : Mem                -- host memory as the device last saw it
  mirror : Mem              -- mirror copies, keyed by primary address
  mirrorPois : List Nat     -- sectors, keyed by primary sector, whose mirror copy is poisoned
  lines : FMap Line
  near : List Near
  miss : List MissReg
  held : List HomeReq
  reqs : List Req
  nextReq : Nat
  stamp : Nat
  dramPois : List Nat       -- sectors that hold the poison marker
  wordPois : List Nat       -- poisoned 4 B core-store or scratch words, by address / 4
  mapouts : List MapOut     -- newest first
  mappedOut : List Nat
  setOut : List Nat         -- channels mapped out when the data sets were last fixed (R190)
  rebuildBad : Nat
  zeroMarks : List (Nat × Nat)  -- line ranges [from, to) marked for zeroing
  bias : FMap Nat           -- 64 KiB page to 1 (shared on port 0) or 2 (on port 1)
  biasCache : List Nat
  hostLines : List HostLine
  ats : List (Nat × Nat × Nat × Bool × Bool × Bool)   -- port, PASID, page, R, W, X
  tlb : List (Nat × Nat × W64)    -- context, page, entry
  poisBands : List Nat      -- bands (channel × 768 + band) that read as poisoned where not `covered` (R241, R243)
  covered : List Nat        -- sectors of such bands that a write has covered whole since
  stripes : List StripeBuf
  relMem : List RelMem
  subst : FMap Nat          -- bay to the bay of its substitute homes (R210)
  unsure : List Nat         -- bays whose homes began without directory entries (R242)
  sure : List Nat           -- lines of such homes whose entry has been made since
  orphans : FMap Nat        -- lines of a lost home in M at a rafter die, and their owner, until their new entry is made (R241)
  watches : List (Nat × Nat × Nat × Nat)  -- monitor tables: slice, core, slot, path; oldest first
  icFill : FMap (List (Nat × Nat × List Byte))   -- grove instruction caches: block, fill time and bytes, most recent first (R48)
  passAt : FMap Nat         -- half to the device time of its last periodic write-back (R240)
  correctedAt : FMap (List Nat)   -- channel to times of corrected blocks in the last hour (R200)
  failedAt : FMap (List Nat)      -- channel to times of uncorrectable blocks in the last 24 h
  deriving DecidableEq, Repr

/-- A context (R269). -/
structure Ctx where
  f : Nat
  seed : W64
  frec : W64
  ptroot : W64
  pasid : BitVec 20
  fault : Nat               -- first fault code, 0 none
  faultPa : Nat             -- device physical address of the fault record once written
  frec_ : Nat               -- the fault record, but for MORE
  frecDue : Bool            -- it has not been written yet
  frecCore : Nat            -- the core it names
  more : Nat
  stopping : Bool
  dying : Bool              -- destroyed: goes once the stop is complete
  stopTime : W64
  gens : FMap W64           -- generator state per core (R148)
  resv : Nat                -- granules held, high-water mark in bytes per core
  deriving DecidableEq, Repr

/-- A command record read by the Framer: its 512 bits, or why it could not be read (R277). -/
structure Rec where
  bits : BitVec 512
  bad : Nat                 -- 0 read; 1 BAD_COMMAND as a malformed indirect entry; 2 ADDRESS_ERROR; 3 POISONED
  last : Bool               -- reading it releases its slot
  deriving DecidableEq, Repr

inductive ExecPhase where
  | running
  | waiting                 -- waits on memory, on a claim, on a watched word or on a peer
  | flushWait
  | finished                -- its completion condition is met
  deriving DecidableEq, Repr

/-- A command that executes. -/
structure Exec where
  rec_ : Rec
  seq : Nat
  typ : Nat
  phase : ExecPhase
  status : Nat
  fault : Nat
  aux : Nat
  progress : Nat
  began : W64
  metTime : W64
  deadline : Nat
  energy : Nat
  repl : Nat
  kernel : Nat
  launch : Nat
  writes : List Nat         -- request ids still to be acknowledged
  deriving DecidableEq, Repr

/-- A completion record waiting in the shadow ring; PHASE is set when it is written (R288). -/
structure CRec where
  bits : BitVec 256
  irq : Bool
  scope : Nat               -- memory scope that its write releases (Table 09.2)
  deriving DecidableEq, Repr

inductive QSt where
  | ready
  | paused
  | cqWait
  | stalled
  | faulted
  deriving DecidableEq, Repr

/-- An open job (R283, R304). -/
structure Job where
  num : W32
  energy : Nat
  claim : List Nat
  want : Nat
  held : Bool
  deriving DecidableEq, Repr

/-- A queue (R270, Table 10.6). -/
structure Queue where
  ctx : Nat
  f : Nat
  ring : W64
  cring : W64
  headwb : W64
  cls : Nat
  rlog : Nat
  clog : Nat
  cvec : Nat
  evec : Nat
  st : QSt
  paused : Bool             -- a pause is in force beneath CQ_WAIT or COMPLETION_STALLED
  head : W32
  tail : W32
  chead : W32
  fetched : W32             -- slots read, head included
  released : Nat            -- slots released since the last HEAD write-back
  indLeft : Nat             -- records of the indirect buffer still to read
  indAddr : W64
  written : Nat
  shadow : List CRec
  seq : Nat
  ahead : List Rec
  exec : Option Exec
  job : Option Job
  recs : List (Nat × Nat × CRec)   -- record writes on their way: request, number of the record, record (R263, Table 10.7)
  drainDue : Bool           -- shadow records wait for the translation of their slot
  headDue : Bool            -- a HEAD write-back waits for its translation (R273)
  heads : List Nat          -- HEAD write-backs on their way
  prior : List Nat          -- writes of its ended commands that were still on their way (R260)
  bells : List Nat          -- host writes that came in before a doorbell and were still on their way (R264)
  deriving DecidableEq, Repr

inductive KSt where
  | waiting
  | resident
  | saving
  | saved
  | restoring
  | ended
  deriving DecidableEq, Repr

/-- A saved whorl with the core and slot it left (R312). -/
structure Saved where
  core : Nat
  slot : Nat
  whorl : Whorl
  deriving DecidableEq, Repr

/-- A kernel instance (R280, R309 to R319). -/
structure Kern where
  src : CmdSrc
  q : Nat
  seq : Nat
  ctx : Nat
  part : Nat
  cls : Nat
  pc : W64
  args : W64
  hint : W64
  hlog : Nat
  tlim : Nat
  rsafe : Bool
  tpw : Nat
  wpc : Nat
  gran : Nat
  nwh : Nat
  next : Nat                -- first unplaced whorl index
  left : Nat                -- whorls placed and not ended
  st : KSt
  repl : Nat
  chuteTaken : Bool
  first : List (Nat × Nat)  -- (core, granule) first allocated for this kernel
  cores : List Nat
  charged : Nat
  placedAt : Nat            -- device time of its first placement
  startAt : FMap Nat        -- core to the device time at which the kernel started there (R48)
  readySince : Nat
  ranFor : Nat              -- time counted against the limit, ns
  saved : List Saved
  savedStore : List (Nat × Nat × List Byte)
  pending : Option Nat      -- detector-time of a failure that waits for the resume (R319)
  endAt : Nat               -- device time at which its last whorl ended
  lastAck : Nat             -- device time of the last acknowledgement of a write of its cores
  deriving DecidableEq, Repr

/-- One version of a graph (R293). -/
structure Version where
  num : Nat
  nodes : W64
  edges : W64
  idx : W64
  ret : W64
  nn : Nat
  ne : Nat
  pins : Nat
  current : Bool
  deriving DecidableEq, Repr

structure Graph where
  f : Nat
  ctx : Nat
  versions : List Version   -- the alive ones
  last : Nat                -- last version number given
  deriving DecidableEq, Repr

/-- A running graph launch (R294, R295). -/
structure Launch where
  q : Nat
  graph : Nat
  version : Nat
  state : W64
  done : List Nat
  started : List Nat
  running : FMap Exec
  failed : Nat              -- first status other than SUCCESS
  energy : Nat
  prior : FMap (List Nat)   -- node to its writes that were still on their way when it ended (R260)
  deriving DecidableEq, Repr

/-- A stored word of a chute (Table 10.21). -/
structure CWord where
  bytes : List Byte
  first : Bool
  last : Bool
  trunc : Bool
  pois : Bool
  pkt : Nat
  nbytes : Nat
  deriving DecidableEq, Repr

/-- A chute (R296 to R301). -/
structure Chute where
  words : List CWord
  inPkt : Bool
  cur : List Byte           -- bytes of the word being packed
  pkt : Nat                 -- number of the open or last packet
  stored : Bool             -- a word of the open packet is stored
  dropping : Bool           -- the rest of the open packet is dropped
  stopped : Bool
  flush : List (Option CmdSrc)   -- requests a pending flush completes
  waitSrc : Option ChuteSrc      -- producer that waits for space
  waitWord : List Byte
  waitLast : Bool
  deriving DecidableEq, Repr

/-- A bias flip under way (R236). -/
structure Flip where
  page : Nat
  tag : Byte
  irq : Bool
  result : Nat
  toShared : Nat            -- 0 device-owned, 1 shared on port 0, 2 on port 1
  deriving DecidableEq, Repr

/-- A function's control page and holdings (R329, R332). -/
structure Fn where
  hvec : Nat
  bvec : Nat
  fvec : Nat
  err : BitVec 5
  adminDone : Bool
  adminCode : W32
  adminNum : Nat
  tlbDone : Bool
  tlbCode : W32
  tlbCtx : Nat              -- context whose translations the last TLB_INV names
  tlbUpTo : Nat             -- requests numbered below this may have used them
  biasQ : List W64
  flips : List Flip
  closing : List Nat        -- pages whose flip to device-owned is under way
  groves : List Nat
  units : List Nat
  busMaster : List Bool     -- Bus Master Enable in each view
  deriving DecidableEq, Repr

/-- A CXL port (R322, R342). -/
structure CxlPort where
  up : Bool
  lostAt : Option Nat       -- device time at which its link was lost
  resetDue : Bool           -- a link-loss reset that waits for the resume (R342)
  insecure : Bool
  secure : Bool
  vfEnable : Bool
  numVfs : Nat
  msgs : List (Nat × Nat)   -- MSI-X messages that wait: (function, vector)
  deriving DecidableEq, Repr

/-- The Port H mailbox (Table 12.4). -/
structure Mailbox where
  busy : Bool
  req : List Byte           -- the request under way
  resp : Bool
  rlen : Nat
  rsp : List Byte
  deriving DecidableEq, Repr

/-- A tenon (Table 13.3). -/
structure Tenon where
  width : Nat
  rep : Nat
  train : Bool
  retr : Nat
  lane : Nat
  bad : List Nat            -- logical lanes found failing and not repaired
  recent : List Nat         -- device times of retrains for replay
  deriving DecidableEq, Repr

/-- A rafter die (R354 to R361). -/
structure Die where
  result : Nat              -- OD 0x1400 + n:01
  reason : Nat
  ident : List Byte
  trained : Nat
  rate : Nat
  cfg : Nat                 -- configuration in use; 0xFF not admitted
  ports : FMap Nat          -- port to 0 down, 1 training, 2 up
  clock : Bool
  powered : Bool
  deriving DecidableEq, Repr

/-- A frame a session keeps until it is acknowledged (R367). -/
structure Frame where
  psn : W32
  op : Nat
  addr : W64
  data : List Byte
  len : Nat
  scope : Nat
  sub : Nat
  tag : Nat
  req : Nat                 -- request it carries, 0 none
  lane : Nat                -- and the lane of it
  pois : Bool
  deriving DecidableEq, Repr

/-- A received DATA operation that waits to be applied (R368, R372). -/
structure Inbound where
  psn : W32
  op : Nat
  addr : W64
  data : List Byte
  len : Nat
  scope : Nat
  sub : Nat
  tag : Nat
  pois : Bool
  deriving DecidableEq, Repr

/-- The running part of a session (Table 13.10 STATE, REASON, PDIG; R367). -/
structure Sess where
  st : Nat
  reason : Nat
  pdig : W64
  synIn : Bool
  synackIn : Bool
  tx : W32                  -- next PSN to send
  rpsn : W32
  apsn : W32
  rxRpsn : W32              -- RPSN and APSN last heard from the peer
  rxApsn : W32
  kept : List Frame
  asked : List (Nat × Nat × Nat)     -- READ and ATOMIC operations without a response: TAG, request, lane
  posted : List (W32 × Nat × Nat)    -- WRITE and ACW operations APSN does not cover: PSN, request, lane
  cache : List (Nat × Nat × List Byte × Bool)   -- PSN, TAG, response bytes, poison
  inbound : List Inbound
  unacked : Nat
  retries : Nat
  held : Bool
  lastSent : Nat
  lastHeard : Nat
  lastProgress : Nat
  deriving DecidableEq, Repr

/-- Fault log entry (Table 17.4). -/
structure FlogEnt where
  time : W64
  seq : Nat
  event : Nat
  unit : Nat
  addr : W64
  detail : W32
  deriving DecidableEq, Repr

structure Flog where
  entries : List FlogEnt    -- newest first, at most 4,096
  count : Nat
  ack : W64
  deriving DecidableEq, Repr

/-- The global stop (R459 to R464) and the last cut record (Table 17.14). -/
structure Fell where
  st : Nat                  -- OD 0x9100:03
  reason : W16
  source : Nat
  trig : W64
  cutTime : W64
  cutTrig : W64
  cutReason : W16
  cutSource : Nat
  noBay : BitVec 4
  sess : FMap (W32 × W32 × W32 × Nat)
  cmds : List Nat           -- queues whose FELL command waits for the resume
  deriving DecidableEq, Repr

/-- One counter bank pair of an engine instance (R469, R471). -/
structure Bank where
  epoch : Nat
  run : FMap Nat
  last : FMap Nat
  deriving DecidableEq, Repr

/-- The observation registers, the ring log and the sampler (Table 18.4, R475 to R480). -/
structure Obs where
  banks : FMap Bank         -- key: block address / 0x200, less 0x0134_0000_0000 / 0x200
  epen : Bool
  epq : Nat
  epochSh : Nat
  rlBase : W64
  grain : Bool
  stopFull : Bool
  rlog : Nat
  rlWptr : Nat
  rlRptr : W64
  smpBase : W64
  smpN : Nat
  sel : BitVec 9
  period : Nat
  smpWptr : Nat
  smpSkip : Nat
  nextSample : Nat
  lostRecs : Nat            -- records dropped since the last DROP record
  window : Nat              -- the 10 µs interval being charged
  used : FMap Nat           -- bytes charged in it: 0–7 joint directions, 16 + slice
  deriving DecidableEq, Repr

/-- The debug access (R481 to R484). -/
structure Debug where
  opened : Bool
  nonce : Option (List Byte × Nat)
  fails : Nat
  lockedUntil : Nat
  req : List W32
  resp : List W32
  chain : Byte
  ir : Byte
  lane : Nat
  drive : Option (BitVec 13)
  deriving DecidableEq, Repr

/-- The power manager beyond its settings (chapter 14). -/
structure Power where
  throttled : Bool
  capNow : Nat              -- the cap in force along the ramp, mW
  falling : Bool
  short : Bool              -- the fall exceeds the filler capacity, and has been counted (R391)
  fastAt : Nat              -- 1 + the µs, ms and 100 µs interval last acted on (R389, R393); 0 none yet
  slowAt : Nat
  heatAt : Nat
  fillerW : Nat
  mv : Nat
  ma : Nat
  hist : List (Nat × Nat)   -- mV and mA of the last 100 measurements, newest first
  hot : FMap Nat            -- key bay: bit 0 above the junction target, bit 1 above 105 °C
  active : FMap Nat         -- key bay, 4 for the device: reason bits active now
  sensors : FMap Int        -- key bay × 16 + sensor
  dies : FMap Int           -- key bay × 8 + stack
  spots : FMap Int          -- girt die, N0, N1
  rows : FMap Nat           -- key bay × 8 + stack: row of Table 07.6
  carry : FMap Nat          -- rounding carried between intervals (R320), nJ
  steps : FMap Nat          -- core-steps charged since the last division, key domain × 2^32 + kernel (R320)
  deriving DecidableEq, Repr

/-- An entry of the residency map (R310). -/
structure Resid where
  ctx : Nat
  block : Nat
  mask : Byte
  deriving DecidableEq, Repr

/-- A tenon test under way or last run (R358). -/
structure TenonTest where
  running : Bool
  joint : Nat
  errors : List W16
  deriving DecidableEq, Repr

/-- What the module sends out: the environment reads these, no command removes them. DESIGN CHOICE, log 14. -/
inductive Out where
  | scribe (p : Port) (env : Option Envelope) (bytes : List Byte)
  | abort (p : Port) (code : W32) (data : List Byte)
  | msix (f vector port : Nat)
  | memData (port tag : Nat) (data : List Byte) (poison : Bool)
  | cmp (port : Nat) (addr : Nat)
  | biSnp (port line sector : Nat) (inval : Bool)
  | biConflictAck (port line : Nat)
  | snpRsp (port : Nat) (haddr : Nat) (data : List Byte)
  | d2h (port : Nat) (haddr : Nat) (data : List Byte)
  | rdOwn (port : Nat) (haddr : Nat)
  | barData (port f : Nat) (data : List Byte) (status : Nat)
  | atsRequest (port pasid page : Nat)
  | atsInvDone (port : Nat)
  | joint (n op tag : Nat) (sub : Nat) (addr : Nat) (data : List Byte) (poison : Bool)
  | rafter (sess kind op : Nat) (psn rpsn apsn : W32) (addr : W64) (len scope sub tag : Nat) (data : List Byte)
      (poison : Bool)
  | spdm (t : Transport) (seq : W16) (data : List Byte)
  | dbg (port : DebugPort) (seq : W16) (status : Nat) (data : List Byte)
  | pin (name : String) (level : Bool)
  | tap (dr : Nat)
  deriving DecidableEq, Repr

/-- The whole state. `pending` is the queue of commands that wait, first in, first out. -/
structure State where
  pending : List Instr
  mod : ModuleSt
  dict : Dict
  flash : Flash
  trust : Trust
  groves : FMap GroveEnt
  deadGroves : List Nat     -- physical groves retired, failed or lost since shipment
  bays : FMap Bay
  doms : FMap Dom
  cores : FMap Core
  ctxs : FMap Ctx
  queues : FMap Queue
  kerns : FMap Kern
  nextKern : Nat
  graphs : FMap Graph
  rets : List (Nat × Nat × Nat)   -- context, RET and number of retired versions whose number is still to be written (R293)
  launches : FMap Launch
  chutes : FMap Chute
  fns : FMap Fn
  classC : FMap Nat         -- partition × 64 + class: core-steps charged (R308), raised on return
  rr : FMap Nat             -- partition × 64 + class: last queue served (R308)
  resid : List Resid        -- least recently refreshed first
  ports : FMap CxlPort
  mbox : Mailbox
  mem : MemSys
  tenons : FMap Tenon
  cuts : List Nat           -- joints that are cut (R351)
  dies : FMap Die
  sess : FMap Sess
  test : TenonTest
  power : Power
  flog : Flog
  fell : Fell
  obs : Obs
  dbg : Debug
  free : Nat                -- the model's own counter of free values drawn
  out : List Out            -- newest first
  deriving DecidableEq, Repr

/-- Reasons a step can stop with a fault. -/
inductive Fault where
  /-- Raised by no command of this block: the spec answers every access, mapped or not (R13, R241, R456). Safe. -/
  | none_
  deriving DecidableEq, Repr

/-- Reasons a command has no meaning. -/
inductive Refusal where
  /-- A command of the table that has no meaning yet; raised by Dispatch only. Safe: nothing can be proved of it. -/
  | notModelled (mnemonic : String)
  deriving DecidableEq, Repr

/-- A core nothing has been placed on (R42, R49); every core that `State.cores` does not list is one. DESIGN CHOICE, log 5. -/
def Core.blank : Core :=
  { slots := [], l1 := [], icache := [], granules := [], zeroing := [], failed := false,
    simtRr := 7, tileRr := 7, yield := false }

/-- A domain that is off (Table 14.1); every domain that `State.doms` does not list. -/
def Dom.offDom : Dom :=
  { st := .off, pt := 0, lim := 63, idleSince := 0, wanted := false, why := 0, ptWhy := 0, onSteps := 0, issued := false }

/-- A bay that is off (Table 17.10); every bay that `State.bays` does not list. DESIGN CHOICE, log 5. -/
def Bay.offBay : Bay :=
  { st := .off, abrupt := false, since := 0, draining := false, confirmed := false, toSleep := false, forced := false, waking := false,
    trigger := 0, hotSince := 0, bands := [], marked := [] }

/-- A chute with nothing in it (Table 10.20); every chute that `State.chutes` does not list. -/
def Chute.empty : Chute :=
  { words := [], inPkt := false, cur := [], pkt := 0xFFFF, stored := false, dropping := false, stopped := false,
    flush := [], waitSrc := none, waitWord := [], waitLast := false }

/-- A function's control page after reset (Table 12.3). -/
def Fn.blank : Fn :=
  { hvec := 0, bvec := 0, fvec := 0, err := 0#5, adminDone := true, adminCode := 0#32, adminNum := 0, tlbDone := true,
    tlbCode := 0#32, tlbCtx := 0, tlbUpTo := 0, biasQ := [], flips := [], closing := [], groves := [], units := [], busMaster := [false, false] }

/-- A CXL port with no link (R342). -/
def CxlPort.blank : CxlPort :=
  { up := false, lostAt := none, resetDue := false, insecure := false, secure := false, vfEnable := false, numVfs := 0,
    msgs := [] }

/-- A tenon at its reset values (Table 13.3). -/
def Tenon.blank : Tenon := { width := 0, rep := 0, train := false, retr := 0, lane := 0xFF, bad := [], recent := [] }

/-- A rafter die that is off (R354). -/
def Die.blank : Die :=
  { result := 0, reason := 0, ident := [], trained := 0, rate := 0, cfg := 0xFF, ports := [], clock := false,
    powered := false }

/-- A CLOSED session (Table 13.10). -/
def Sess.blank : Sess :=
  { st := 0, reason := 0, pdig := 0#64, synIn := false, synackIn := false, tx := 0#32, rpsn := 0#32, apsn := 0#32,
    rxRpsn := 0#32, rxApsn := 0#32, kept := [], asked := [], posted := [], cache := [], inbound := [], unacked := 0, retries := 0, held := false,
    lastSent := 0, lastHeard := 0, lastProgress := 0 }

/-- The memory system with nothing in it: every byte reads 0. DESIGN CHOICE, log 4, 5. -/
def MemSys.blank : MemSys :=
  { dram := [], llc := [], scratch := [], store := [], host := [], mirror := [], mirrorPois := [], lines := [], near := [], miss := [],
    held := [], reqs := [], nextReq := 1, stamp := 0, dramPois := [], wordPois := [], mapouts := [], mappedOut := [],
    setOut := [], rebuildBad := 0, zeroMarks := [], bias := [], biasCache := [],
    hostLines := [], ats := [], tlb := [], poisBands := [], covered := [], stripes := [], relMem := [], subst := [], unsure := [], sure := [], orphans := [], watches := [],
    icFill := [], passAt := [], correctedAt := [], failedAt := [] }

/-- Module flash as the model ships it (the log names each value; the spec gives none for one module). DESIGN CHOICE, log 6. -/
def Flash.shipped : Flash :=
  { slotA := [], slotB := [], factory := true, boot := { counter := 0, pref := 0, trial := false, tries := 0 },
    serial := [], macBase := 0#48, hashKey := List.replicate 20 0#10, points := [], fillerFj := [], badGroves := [],
    certModulus := [], certChain := [],
    spare := { groves := [], dead := [], out := [], retired := [], setOut := [], moves := [], seq := 0 }, dictP := [] }

/-- The module at the release point of a power-on (R493): START, device time 0, only domain 76 on, no command waiting.
DESIGN CHOICE, log 5, 7, 56. -/
def State.reset : State :=
  { pending := [],
    mod := { op := .start, phase := .released, cause := 1, inputMv := 56000, switchClosed := true, pwrGood := false,
             modResetN := true, perstN := [true, true], haltN := true, haltSeen := false, throttleN := true,
             slotId := 31#5, jtagSel := true, refclk := [true, true], time := 0#64, groveWait := [], groveLast := [], fullAt := 0, maxSkew := 0,
             draining := false, startResult := 0, memActive := false, memInfoValid := false, dvsecSize := 0,
             wasShort := false },
    dict := { od := [], staged := [], peg := none, leaseEnd := 0, resets := [], generation := 0 },
    flash := Flash.shipped,
    trust := { keyAvailable := false, keyDerived := false, runSlot := 0, runVersions := [], runSvn := 0, startCounter := 0, op := none,
               opResult := 0, done := true, pend := false, onTrial := false, dropped := false, svn := 0, result := 0,
               writable := false, restored := false, debugSeen := false, fwdig := [[], []], bootKeep := none, logMark := 0, spdm := [] },
    groves := [], deadGroves := [], bays := [],
    doms := [(76, { Dom.offDom with st := .on })],
    cores := [], ctxs := [], queues := [], kerns := [], nextKern := 1, graphs := [], rets := [], launches := [], chutes := [],
    fns := [], classC := [], rr := [], resid := [],
    ports := [], mbox := { busy := false, req := [], resp := false, rlen := 0, rsp := [] },
    mem := MemSys.blank, tenons := [], cuts := [], dies := [], sess := [],
    test := { running := false, joint := 0, errors := [] },
    power := { throttled := false, capNow := 1800000, falling := false, short := false, fastAt := 0, slowAt := 0, heatAt := 0, fillerW := 0, mv := 56000, ma := 0,
               hist := [], hot := [], active := [], sensors := [], dies := [], spots := [], rows := [], carry := [], steps := [] },
    flog := { entries := [], count := 0, ack := 0#64 },
    fell := { st := 0, reason := 0#16, source := 0, trig := 0#64, cutTime := 0#64, cutTrig := 0#64, cutReason := 0#16,
              cutSource := 0, noBay := 0#4, sess := [], cmds := [] },
    obs := { banks := [], epen := false, epq := 0, epochSh := 0, rlBase := 0#64, grain := false, stopFull := false,
             rlog := 0, rlWptr := 0, rlRptr := 0#64, smpBase := 0#64, smpN := 0, sel := 0#9, period := 0, smpWptr := 0,
             smpSkip := 0, nextSample := 0, lostRecs := 0, window := 0, used := [] },
    dbg := { opened := false, nonce := none, fails := 0, lockedUntil := 0, req := [], resp := [], chain := 0#8,
               ir := 1#8, lane := 0, drive := none },
    free := 0, out := [] }

end Sys2Proof.Machine
end

