-- ==== Sys2Proof/Machine/Ops.lean ====
section
/-! DEFINITION. The named operations over the plain data of State: sparse maps, byte memories, little-endian bytes,
free values, output messages, and one accessor and one update for each table of the state. -/

namespace Sys2Proof.Machine

/-! ## Sparse maps, keys ascending -/

/-- The value at a key. -/
def fget {V : Type} : FMap V → Nat → Option V
  | [], _ => none
  | (k, v) :: r, n => if n = k then some v else if n < k then none else fget r n

/-- The value at a key, or what an unlisted key holds. -/
def fgetD {V : Type} (m : FMap V) (n : Nat) (d : V) : V := (fget m n).getD d

/-- Sets a key, keeping the order. -/
def fset {V : Type} : FMap V → Nat → V → FMap V
  | [], n, v => [(n, v)]
  | (k, w) :: r, n, v => if n = k then (n, v) :: r else if n < k then (n, v) :: (k, w) :: r else (k, w) :: fset r n v

/-- Removes a key. -/
def fdel {V : Type} (m : FMap V) (n : Nat) : FMap V := m.filter fun e => e.1 != n

/-- Adds to a counter kept in a map, saturating at a bound. -/
def fadd (m : FMap Nat) (n k bound : Nat) : FMap Nat := fset m n (min bound (fgetD m n 0 + k))

/-- The least number below a bound that a map does not list (numbers are assigned lowest free first, R268). -/
def lowestFree {V : Type} (m : FMap V) (bound : Nat) : Option Nat :=
  (List.range bound).find? fun n => (fget m n).isNone

/-! ## Byte memories in canonical form -/

/-- The byte at an address; an unlisted address reads 0. -/
def mget : Mem → Nat → Byte
  | [], _ => 0#8
  | (k, b) :: r, a => if a = k then b else if a < k then 0#8 else mget r a

/-- Writes one byte, keeping addresses rising and listing no 0. -/
def mset : Mem → Nat → Byte → Mem
  | [], a, b => if b = 0#8 then [] else [(a, b)]
  | (k, c) :: r, a, b =>
    if a = k then (if b = 0#8 then r else (a, b) :: r)
    else if a < k then (if b = 0#8 then (k, c) :: r else (a, b) :: (k, c) :: r)
    else (k, c) :: mset r a b

/-- Every listed address is above a bound, rises, and holds a byte that is not 0. -/
def Memory.wfFrom : Nat → Mem → Bool
  | _, [] => true
  | lo, (k, b) :: r => decide (lo ≤ k) && decide (b ≠ 0#8) && Memory.wfFrom (k + 1) r

/-- The canonical form of a memory. DESIGN CHOICE, log 4. -/
def Memory.wf (m : Mem) : Bool := Memory.wfFrom 0 m

/-- n bytes from an address, ascending. -/
def mread (m : Mem) (a n : Nat) : List Byte := (List.range n).map fun i => mget m (a + i)

/-- Bytes stored from an address, ascending. -/
def mwrite : Mem → Nat → List Byte → Mem
  | m, _, [] => m
  | m, a, b :: bs => mwrite (mset m a b) (a + 1) bs

/-- Zeroes n bytes from an address. -/
def mzero (m : Mem) (a n : Nat) : Mem := m.filter fun e => decide (e.1 < a) || decide (a + n ≤ e.1)

/-- Merges the bytes of a list of cells. -/
def mmerge (m : Mem) (cells : List Host.Cell) : Mem := cells.foldl (fun acc c => mset acc c.1 c.2) m

/-! ## Little-endian bytes (R16) -/

/-- n bytes of a number, least significant first. -/
def leBytes : Nat → Nat → List Byte
  | 0, _ => []
  | n + 1, v => BitVec.ofNat 8 v :: leBytes n (v / 256)

/-- The number that bytes spell, least significant first. -/
def leNat : List Byte → Nat
  | [] => 0
  | b :: bs => b.toNat + 256 * leNat bs

/-- Bits hi down to lo of a number. -/
def bits (v hi lo : Nat) : Nat := v / 2 ^ lo % 2 ^ (hi + 1 - lo)

/-- The part of a list from i, n long, padded with a default. -/
def sliceD {α : Type} (l : List α) (i n : Nat) (d : α) : List α := (List.range n).map fun k => (l.drop (i + k)).headD d

/-- Adds to a list what it does not hold yet. -/
def addNew (l : List Nat) (n : Nat) : List Nat := if l.contains n then l else l ++ [n]

/-- Inserts into an ascending list of numbers. -/
def insAsc : List Nat → Nat → List Nat
  | [], n => [n]
  | k :: r, n => if n = k then k :: r else if n < k then n :: k :: r else k :: insAsc r n

/-- Does an interval [a, a+n) meet [b, b+m)? -/
def overlap (a n b m : Nat) : Bool := decide (0 < n) && decide (0 < m) && decide (a < b + m) && decide (b < a + n)

/-! ## Tables of the state -/

def State.core (s : State) (c : Nat) : Core := fgetD s.cores c Core.blank
def State.setCore (s : State) (c : Nat) (k : Core) : State := { s with cores := fset s.cores c k }
def State.dom (s : State) (g : Nat) : Dom := fgetD s.doms g Dom.offDom
def State.setDom (s : State) (g : Nat) (d : Dom) : State := { s with doms := fset s.doms g d }
def State.bay (s : State) (n : Nat) : Bay := fgetD s.bays n Bay.offBay
def State.setBay (s : State) (n : Nat) (b : Bay) : State := { s with bays := fset s.bays n b }
def State.fn (s : State) (f : Nat) : Fn := fgetD s.fns f Fn.blank
def State.setFn (s : State) (f : Nat) (x : Fn) : State := { s with fns := fset s.fns f x }
def State.port (s : State) (p : Nat) : CxlPort := fgetD s.ports p CxlPort.blank
def State.setPort (s : State) (p : Nat) (x : CxlPort) : State := { s with ports := fset s.ports p x }
def State.chute (s : State) (c : Nat) : Chute := fgetD s.chutes c Chute.empty
def State.setChute (s : State) (c : Nat) (x : Chute) : State := { s with chutes := fset s.chutes c x }
def State.tenon (s : State) (k : Nat) : Tenon := fgetD s.tenons k Tenon.blank
def State.setTenon (s : State) (k : Nat) (x : Tenon) : State := { s with tenons := fset s.tenons k x }
def State.die (s : State) (n : Nat) : Die := fgetD s.dies n Die.blank
def State.setDie (s : State) (n : Nat) (x : Die) : State := { s with dies := fset s.dies n x }
def State.session (s : State) (n : Nat) : Sess := fgetD s.sess n Sess.blank
def State.setSess (s : State) (n : Nat) (x : Sess) : State := { s with sess := fset s.sess n x }
def State.setQueue (s : State) (q : Nat) (x : Queue) : State := { s with queues := fset s.queues q x }
def State.setCtx (s : State) (c : Nat) (x : Ctx) : State := { s with ctxs := fset s.ctxs c x }
def State.setKern (s : State) (k : Nat) (x : Kern) : State := { s with kerns := fset s.kerns k x }
def State.setLaunch (s : State) (k : Nat) (x : Launch) : State := { s with launches := fset s.launches k x }
def State.setMem (s : State) (m : MemSys) : State := { s with mem := m }

/-- Device time as a number of ns (R3). DESIGN CHOICE, log 3. -/
def State.now (s : State) : Nat := s.mod.time.toNat

/-- Sends a message out of the module. DESIGN CHOICE, log 14. -/
def State.emit (s : State) (o : Out) : State := { s with out := o :: s.out }

/-- Draws a fresh free value. -/
def State.draw (s : State) : W64 × State := (Config.freeWord s.free, { s with free := s.free + 1 })

/-- Do contexts run in the operating state: in SERVICE and RECOVERY (Table 00.3)? DEDUCED, log 59. -/
def contextsRun (s : State) : Bool := s.mod.op == .service || s.mod.op == .recovery

/-- Is the device felled, or on its way (OD 0x9100:03 is 1, 2 or 3)? Then cores, Framer and girt DMA stand still (R461). -/
def State.felled (s : State) : Bool := s.fell.st != 0

end Sys2Proof.Machine
end

