-- ==== Sys2Proof/Machine/Number.lean ====
section
/-! DEFINITION. Number formats (chapter 05): decoding a code to an exact value, exact sums and products, rounding into a
format (R146 to R151), and the special functions with the error bounds of R89. -/

namespace Sys2Proof.Machine

/-- An exact value, an infinity or a NaN; `fin neg m e` is ± m × 2^e, and keeps the sign of zero. -/
inductive FV where
  | nan
  | inf (neg : Bool)
  | fin (neg : Bool) (m : Nat) (e : Int)
  deriving DecidableEq, Repr

/-- A floating format (Table 05.1). `kind` 0: infinities and NaNs; 1: E4M3, a NaN code only; 2: neither (Table 05.2). -/
structure FFmt where
  e : Nat
  m : Nat
  bias : Nat
  kind : Nat
  deriving DecidableEq, Repr

def fmtF32 : FFmt := ⟨8, 23, 127, 0⟩
def fmtBF16 : FFmt := ⟨8, 7, 127, 0⟩
def fmtF16 : FFmt := ⟨5, 10, 15, 0⟩
def fmtE4M3 : FFmt := ⟨4, 3, 7, 1⟩
def fmtE5M2 : FFmt := ⟨5, 2, 15, 0⟩
def fmtE2M3 : FFmt := ⟨2, 3, 1, 2⟩
def fmtE3M2 : FFmt := ⟨3, 2, 3, 2⟩
def fmtE2M1 : FFmt := ⟨2, 1, 1, 2⟩

/-- The value of a code (R135, R136). -/
def fvDecode (f : FFmt) (code : Nat) : FV :=
  let mm := code % 2 ^ f.m
  let ee := code / 2 ^ f.m % 2 ^ f.e
  let neg := code / 2 ^ (f.m + f.e) % 2 = 1
  if f.kind = 0 ∧ ee = 2 ^ f.e - 1 then (if mm = 0 then .inf neg else .nan)
  else if f.kind = 1 ∧ ee = 2 ^ f.e - 1 ∧ mm = 2 ^ f.m - 1 then .nan
  else if ee = 0 then .fin neg mm (1 - (f.bias : Int) - f.m)
  else .fin neg (mm + 2 ^ f.m) ((ee : Int) - f.bias - f.m)

/-- The NaN a device write gives (Table 05.2). -/
def fvNan (f : FFmt) : Nat :=
  if f.kind = 1 then 2 ^ (f.e + f.m) - 1
  else (2 ^ f.e - 1) * 2 ^ f.m + 2 ^ (f.m - 1)

/-- The code of the largest finite magnitude (Table 05.1). -/
def fvMaxCode (f : FFmt) : Nat :=
  if f.kind = 0 then (2 ^ f.e - 1) * 2 ^ f.m - 1
  else if f.kind = 1 then 2 ^ (f.e + f.m) - 2
  else 2 ^ (f.e + f.m) - 1

def fvSign (f : FFmt) (neg : Bool) : Nat := if neg then 2 ^ (f.e + f.m) else 0

/-- Rounds a quotient m / 2^k to a whole number: rnd 0 to nearest even, 1 toward zero, 2 stochastic with a 16-bit draw
(R146, R147). -/
def roundShift (m k rnd draw : Nat) : Nat :=
  let lo := m / 2 ^ k
  let rem := m % 2 ^ k
  if rnd = 1 then lo
  else if rnd = 2 then (if rem * 65536 / 2 ^ k + draw ≥ 65536 then lo + 1 else lo)
  else if 2 * rem > 2 ^ k then lo + 1
  else if 2 * rem = 2 ^ k then lo + lo % 2
  else lo

/-- The result of an overflow (Table 05.16). -/
def fvOverflow (f : FFmt) (rnd : Nat) (sat neg : Bool) : Nat :=
  if sat ∨ rnd = 1 ∨ f.kind = 2 then fvSign f neg + fvMaxCode f
  else if f.kind = 1 then fvNan f
  else fvSign f neg + (2 ^ f.e - 1) * 2 ^ f.m

/-- The code of a value rounded into a format (R146, R149, R150). -/
def fvEncode (f : FFmt) (rnd : Nat) (sat : Bool) (draw : Nat) : FV → Nat
  | .nan => fvNan f
  | .inf neg =>
    if sat ∨ f.kind = 2 then fvSign f neg + fvMaxCode f
    else if f.kind = 1 then fvNan f
    else fvSign f neg + (2 ^ f.e - 1) * 2 ^ f.m
  | .fin neg m e =>
    if m = 0 then fvSign f neg
    else
      let top : Int := e + Nat.log2 m
      let q : Int := max (1 - (f.bias : Int)) top - f.m
      let n0 := if q ≤ e then m * 2 ^ (e - q).toNat else roundShift m (q - e).toNat rnd draw
      let carry := n0 ≥ 2 ^ (f.m + 1)
      let n := if carry then n0 / 2 else n0
      let q' := if carry then q + 1 else q
      let mag := if n < 2 ^ f.m then n else (q' + f.m + f.bias).toNat * 2 ^ f.m + (n - 2 ^ f.m)
      if mag > fvMaxCode f then fvOverflow f rnd sat neg else fvSign f neg + mag

/-! ## Exact arithmetic -/

def fvNeg : FV → FV
  | .nan => .nan
  | .inf n => .inf (!n)
  | .fin n m e => .fin (!n) m e

def fvIsNan : FV → Bool
  | .nan => true
  | _ => false

/-- The signed numerator of a finite value over 2^e0, for e0 not above its exponent. -/
def fvScaled (neg : Bool) (m : Nat) (e e0 : Int) : Int :=
  let v : Int := (m * 2 ^ (e - e0).toNat : Nat)
  if neg then -v else v

/-- The exact sum; an exact cancellation is +0, and -0 only when both are -0. -/
def fvAdd : FV → FV → FV
  | .nan, _ => .nan
  | _, .nan => .nan
  | .inf a, .inf b => if a = b then .inf a else .nan
  | .inf a, .fin _ _ _ => .inf a
  | .fin _ _ _, .inf b => .inf b
  | .fin na ma ea, .fin nb mb eb =>
    let e0 := min ea eb
    let s := fvScaled na ma ea e0 + fvScaled nb mb eb e0
    if s = 0 then .fin (na && nb) 0 0 else .fin (decide (s < 0)) s.natAbs e0

/-- The exact product. -/
def fvMul : FV → FV → FV
  | .nan, _ => .nan
  | _, .nan => .nan
  | .inf a, .inf b => .inf (a != b)
  | .inf a, .fin b m _ => if m = 0 then .nan else .inf (a != b)
  | .fin a m _, .inf b => if m = 0 then .nan else .inf (a != b)
  | .fin a ma ea, .fin b mb eb => .fin (a != b) (ma * mb) (ea + eb)

/-- Is a below b, both numbers? Zeros of either sign are equal. -/
def fvLt : FV → FV → Bool
  | .nan, _ => false
  | _, .nan => false
  | .inf a, .inf b => a && !b
  | .inf a, .fin _ _ _ => a
  | .fin _ _ _, .inf b => !b
  | .fin na ma ea, .fin nb mb eb =>
    let e0 := min ea eb
    decide (fvScaled na ma ea e0 < fvScaled nb mb eb e0)

def fvEq (a b : FV) : Bool := !fvIsNan a && !fvIsNan b && !fvLt a b && !fvLt b a

def fvNegative : FV → Bool
  | .nan => false
  | .inf n => n
  | .fin n _ _ => n

/-- FMIN of R88: one NaN gives the other operand, and -0 is below +0. -/
def fvMin (a b : FV) : FV :=
  if fvIsNan a then b else if fvIsNan b then a
  else if fvLt a b then a else if fvLt b a then b else if fvNegative a then a else b

/-- FMAX of R88: +0 is above -0. -/
def fvMax (a b : FV) : FV :=
  if fvIsNan a then b else if fvIsNan b then a
  else if fvLt a b then b else if fvLt b a then a else if fvNegative a then b else a

/-- The value of a whole number. -/
def fvInt (n : Int) : FV := .fin (decide (n < 0)) n.natAbs 0

/-- A value rounded to a whole number and clamped to [lo, hi]; NaN gives 0 (R90, R150). -/
def fvToInt (rnd : Nat) (lo hi : Int) : FV → Int
  | .nan => 0
  | .inf neg => if neg then lo else hi
  | .fin neg m e =>
    let n : Nat := if 0 ≤ e then m * 2 ^ e.toNat else roundShift m (-e).toNat rnd 0
    let v : Int := if neg then -(n : Int) else n
    max lo (min hi v)

/-! ## Element types of registers (Table 03.8) -/

/-- The format of a floating register type. -/
def tyFmt : Nat → Option FFmt
  | 4 => some fmtF32
  | 5 => some fmtF16
  | 6 => some fmtBF16
  | 7 => some fmtF16
  | 8 => some fmtBF16
  | 9 => some fmtE4M3
  | 10 => some fmtE5M2
  | _ => none

/-- Bits an element of a type takes. -/
def tyBits : Nat → Nat
  | 0 => 32
  | 1 => 32
  | 2 => 64
  | 3 => 64
  | 4 => 32
  | 5 => 16
  | 6 => 16
  | 7 => 16
  | 8 => 16
  | 9 => 8
  | 10 => 8
  | 11 => 8
  | 12 => 4
  | _ => 32

/-- Is an integer type signed? -/
def tySigned (t : Nat) : Bool := t == 0 || t == 2 || t == 11 || t == 12

def tyPacked (t : Nat) : Bool := t == 7 || t == 8

/-- Does a value of the type take a v pair (R82)? -/
def tyWide (t : Nat) : Bool := t == 2 || t == 3

/-- The signed reading of the low n bits. -/
def signedOf (n v : Nat) : Int :=
  let w := v % 2 ^ n
  if w < 2 ^ (n - 1) then w else (w : Int) - 2 ^ n

/-- The n-bit pattern of an integer. -/
def patternOf (n : Nat) (v : Int) : Nat := (v % (2 ^ n : Nat)).toNat

/-- The value of one element of a type. -/
def elemValue (t v : Nat) : FV :=
  match tyFmt t with
  | some f => fvDecode f (v % 2 ^ tyBits t)
  | none => if tySigned t then fvInt (signedOf (tyBits t) v) else fvInt ((v % 2 ^ tyBits t : Nat) : Int)

/-- One element converted to a type (R90, R146 to R151). -/
def elemConvert (dst rnd : Nat) (sat : Bool) (draw : Nat) (x : FV) : Nat :=
  match tyFmt dst with
  | some f => fvEncode f rnd sat draw x
  | none =>
    let n := tyBits dst
    if tySigned dst then patternOf n (fvToInt rnd (-(2 ^ (n - 1) : Nat)) ((2 ^ (n - 1) : Nat) - 1) x)
    else patternOf n (fvToInt rnd 0 ((2 ^ n : Nat) - 1) x)

/-! ## F32 operations (R88, R183) -/

def f32Add (rnd a b : Nat) : Nat := fvEncode fmtF32 rnd false 0 (fvAdd (fvDecode fmtF32 a) (fvDecode fmtF32 b))
def f32Max (a b : Nat) : Nat := fvEncode fmtF32 0 false 0 (fvMax (fvDecode fmtF32 a) (fvDecode fmtF32 b))
def bf16Add (a b : Nat) : Nat := fvEncode fmtBF16 0 false 0 (fvAdd (fvDecode fmtBF16 a) (fvDecode fmtBF16 b))

/-! ## Special functions (R89) -/

/-- One bit of an integer square root, from the top. -/
def isqrtGo : Nat → Nat → Nat → Nat
  | 0, _, r => r
  | k + 1, n, r => if (r + 2 ^ k) * (r + 2 ^ k) ≤ n then isqrtGo k n (r + 2 ^ k) else isqrtGo k n r

/-- The integer square root of a number below 2^512. -/
def isqrt (n : Nat) : Nat := isqrtGo 256 n 0

/-- A value with a sticky bit below it, so that one more rounding is correct. -/
def withSticky (neg : Bool) (m : Nat) (e : Int) (inexact : Bool) : FV :=
  .fin neg (2 * m + (if inexact then 1 else 0)) (e - 1)

/-- 1 / (m × 2^e), to 128 bits and a sticky bit. -/
def fvRecip (neg : Bool) (m : Nat) (e : Int) : FV :=
  withSticky neg (2 ^ 192 / m) (-192 - e) (2 ^ 192 % m != 0)

/-- √(m × 2^e). -/
def fvRoot (m : Nat) (e : Int) : FV :=
  let odd : Nat := (e % 2).toNat
  let n := m * 2 ^ (odd + 200)
  let r := isqrt n
  withSticky false r ((e - odd - 200) / 2) (r * r != n)

/-- 1 / √(m × 2^e). -/
def fvRecipRoot (m : Nat) (e : Int) : FV :=
  let odd : Nat := (e % 2).toNat
  let d := m * 2 ^ odd
  let n := 2 ^ 400 / d
  let r := isqrt n
  withSticky false r (-200 - (e - odd) / 2) (r * r * d != 2 ^ 400)

/-- ln 2 × 2^192. -/
def ln2Fix : Nat := 4350955369971217654477563090224794165364344896676135745069
/-- 2π × 2^320. -/
def twoPiFix : Nat := 13420802360424337830311681948440006481608388178854297901454212848703426437343610760199000777828079

/-- Σ y^k / k! in fixed point of 192 bits, n terms after the present one. -/
def expSeries : Nat → Nat → Nat → Nat → Nat
  | 0, _, _, _ => 0
  | n + 1, k, y, term => term + expSeries n (k + 1) y (term * y / 2 ^ 192 / (k + 1))

/-- 2^x for |x| below 2^10. -/
def fvExp2 (neg : Bool) (m : Nat) (e : Int) : FV :=
  let x : Int := fvScaled neg (if e < -192 then m / 2 ^ (-192 - e).toNat else m) (max e (-192)) (-192)
  let n := x / (2 ^ 192 : Nat)
  let f := (x % (2 ^ 192 : Nat)).toNat
  .fin false (2 * expSeries 60 0 (f * ln2Fix / 2 ^ 192) (2 ^ 192) + 1) (n - 193)

/-- Bits of log2 of a fixed-point number in [1, 2) with 256 fraction bits, by squaring. -/
def log2Bits : Nat → Nat → Nat → Nat
  | 0, _, acc => acc
  | k + 1, y, acc =>
    let z := y * y / 2 ^ 256
    if z ≥ 2 ^ 257 then log2Bits k (z / 2) (2 * acc + 1) else log2Bits k z (2 * acc)

/-- log2 (m × 2^e), m not 0. -/
def fvLog2 (m : Nat) (e : Int) : FV :=
  let t := Nat.log2 m
  let k : Int := e + t
  let frac := log2Bits 100 (m * 2 ^ (256 - t)) 0
  let v : Int := k * (2 ^ 100 : Nat) + frac
  let exact := m == 2 ^ t
  if exact then fvInt k else .fin (decide (v < 0)) (2 * v + 1).natAbs (-101)

/-- Σ of the alternating series of sine or cosine in fixed point of 192 bits. -/
def trigSeries : Nat → Nat → Int → Int → Int
  | 0, _, _, _ => 0
  | n + 1, k, r2, term =>
    term + trigSeries n (k + 2) r2 (-(term * r2 / (2 ^ 192 : Nat)) / ((k + 1) * (k + 2) : Nat))

/-- sin or cos of ± m × 2^e. -/
def fvTrig (cosine neg : Bool) (m : Nat) (e : Int) : FV :=
  let x := if e < -320 then 0 else m * 2 ^ (e + 320).toNat
  let r : Int := ((x % twoPiFix / 2 ^ 128 : Nat) : Int)
  let r2 := r * r / (2 ^ 192 : Nat)
  let v := if cosine then trigSeries 60 0 r2 (2 ^ 192 : Nat) else trigSeries 60 1 r2 r
  let v' := if neg ∧ !cosine then -v else v
  .fin (decide (v' < 0)) (2 * v'.natAbs + 1) (-193)

/-- |a - b| not above a bound. -/
def fvWithin (a b bound : FV) : Bool :=
  match fvAdd a (fvNeg b) with
  | .fin _ m e => !fvLt bound (.fin false m e)
  | _ => false

/-- n units in the last place of an F32 value. -/
def ulps (n : Nat) (v : FV) : FV :=
  match v with
  | .fin _ m e => .fin false n (max (-149) (e + (Nat.log2 m : Nat) - 23))
  | _ => .fin false 0 0

/-- A special function's F32 result: the part's own value where it keeps the bound, otherwise the nearest one. DESIGN CHOICE, log 9. -/
def boundedResult (candidate : Nat) (v bound : FV) : Nat :=
  if fvWithin (fvDecode fmtF32 candidate) v bound then candidate else fvEncode fmtF32 0 false 0 v

/-- FSFU function fn (0 FRCP, 1 FRSQ, 2 FSQRT, 3 FEX2, 4 FLG2, 5 FSIN, 6 FCOS) on an F32 operand; `free` is the value where
the spec states none (1/0, a root or logarithm of a negative number, log2 0, sine and cosine of an infinity), a NaN in its canonical code (R136). DESIGN CHOICE, log 9. -/
def fsfuResult (fn a : Nat) (free : Nat) : Nat :=
  let own := (Config.fsfu fn (BitVec.ofNat 32 a)).toNat
  let free := match fvDecode fmtF32 free with
    | .nan => fvNan fmtF32
    | _ => free
  match fvDecode fmtF32 a with
  | .nan => fvNan fmtF32
  | .inf neg =>
    if fn = 0 then fvSign fmtF32 neg
    else if neg then (if fn = 3 then 0 else free)
    else if fn = 1 then 0
    else if fn = 5 ∨ fn = 6 then free
    else 0x7F800000
  | .fin neg m e =>
    if fn = 0 then (if m = 0 then free else let v := fvRecip neg m e; boundedResult own v (ulps 1 v))
    else if fn = 1 then
      (if m = 0 ∨ neg then free else let v := fvRecipRoot m e; boundedResult own v (ulps 1 v))
    else if fn = 2 then
      (if m = 0 then fvSign fmtF32 neg else if neg then free else fvEncode fmtF32 0 false 0 (fvRoot m e))
    else if fn = 3 then
      (if fvLt (.fin neg m e) (fvInt (-1000)) then 0
       else if fvLt (fvInt 1000) (.fin neg m e) then 0x7F800000
       else if m = 0 then 0x3F800000
       else let v := fvExp2 neg m e; boundedResult own v (ulps 2 v))
    else if fn = 4 then
      (if m = 0 ∨ neg then free else let v := fvLog2 m e; boundedResult own v (ulps 2 v))
    else if m = 0 then (if fn = 5 then fvSign fmtF32 neg else 0x3F800000)
    else
      let v := fvTrig (fn = 6) neg m e
      let near := !fvLt (.fin false 31415926535 0) (fvMul (.fin false m e) (.fin false 100000000 0))
      boundedResult own v (if near then ulps 2 v else .fin false 1 (-20))

end Sys2Proof.Machine
end

