-- ==== Sys2Proof/Machine/Flags.lean ====
section
/-! DEFINITION. Predicates, the only flags the threads have: reading and writing p0 to p7 (R44), the guard of an instruction
(R80), and the comparisons that set predicates (R86, R88). -/

namespace Sys2Proof.Machine

/-- Predicate r of a lane; p7 always reads as 1 (R44). -/
def Whorl.pget (wh : Whorl) (lane r : Nat) : Bool := r == 7 || wh.p.contains (lane * 8 + r)

/-- Writes predicate r of a lane; a write to p7 is discarded (R44). -/
def Whorl.pset (wh : Whorl) (lane r : Nat) (b : Bool) : Whorl :=
  if r = 7 then wh
  else { wh with p := if b then insAsc wh.p (lane * 8 + r) else wh.p.filter (· != lane * 8 + r) }

/-- Writes one predicate of every lane of a list. -/
def Whorl.psetAll (wh : Whorl) (r : Nat) (f : Nat → Bool) : List Nat → Whorl
  | [] => wh
  | l :: ls => (wh.pset l r (f l)).psetAll r f ls

/-- Does a thread execute: p[GP] XOR GN (R80)? -/
def Whorl.guard (wh : Whorl) (gn : BitVec 1) (gp : BitVec 3) (lane : Nat) : Bool :=
  wh.pget lane gp.toNat != (gn == 1#1)

/-- A legal guard: GN = 1 with p7 is illegal (R80). -/
def guardOk (gn : BitVec 1) (gp : BitVec 3) : Bool := !(gn == 1#1 && gp == 7#3)

/-- A guard of p7 with GN = 0, as WAIT, FENCE, CHUTE, KERF, PIN and the collectives require (R80, R61). -/
def guardAll (gn : BitVec 1) (gp : BitVec 3) : Bool := gn == 0#1 && gp == 7#3

/-- Comparison codes of SETP, SETPI and FSETP (Table 03.11). -/
inductive CmpOp where
  | eq
  | ne
  | lt
  | le
  | gt
  | ge
  deriving DecidableEq, Repr

/-- A comparison from what "below" and "equal" say. -/
def CmpOp.of (op : CmpOp) (lt eq : Bool) : Bool :=
  match op with
  | .eq => eq
  | .ne => !eq
  | .lt => lt
  | .le => lt || eq
  | .gt => !(lt || eq)
  | .ge => !lt

/-- An integer comparison of width n (R86). -/
def icmp (op : CmpOp) (signed : Bool) (n a b : Nat) : Bool :=
  if signed then op.of (decide (signedOf n a < signedOf n b)) (decide (signedOf n a = signedOf n b))
  else op.of (decide (a % 2 ^ n < b % 2 ^ n)) (decide (a % 2 ^ n = b % 2 ^ n))

/-- A floating comparison: with a NaN, NE gives 1 and the others 0 (R88). -/
def fcmp (op : CmpOp) (a b : FV) : Bool :=
  if fvIsNan a || fvIsNan b then op == .ne else op.of (fvLt a b) (fvEq a b)

end Sys2Proof.Machine
end

