-- ==== Sys2Proof/Machine/Operands.lean ====
section
/-! DEFINITION. The operand forms of Morax: v registers and pairs, u registers, immediates, and which fields an instruction
may use (R43, R81, R82, R84, R92, R105). -/

namespace Sys2Proof.Machine

/-! ## Register fields (R81) -/

/-- Is the field of class u? -/
def isU (r : BitVec 7) : Bool := r.getLsbD 6
/-- The register's number in its class. -/
def regNo (r : BitVec 7) : Nat := r.toNat % 64
/-- A field that names a register: a u operand has bit 5 clear. -/
def regOk (r : BitVec 7) : Bool := !(isU r && r.getLsbD 5)
def uOk (r : BitVec 7) : Bool := isU r && !r.getLsbD 5
def vOk (r : BitVec 7) : Bool := !isU r
/-- A field that names a predicate or a 3-bit number. -/
def predOk (r : BitVec 7) : Bool := decide (r.toNat < 8)
/-- A register field that may name a pair: in v it is even (R43). -/
def pairOk (wide : Bool) (r : BitVec 7) : Bool := regOk r && (!wide || isU r || regNo r % 2 == 0)

/-- Key of a register for the scoreboard: v0 to v63, then u0 to u31. -/
def regKey (r : BitVec 7) : Nat := if isU r then 64 + regNo r % 32 else regNo r
/-- Keys of the registers that an operand of n 32-bit words takes. -/
def regKeys (n : Nat) (r : BitVec 7) : List Nat :=
  if isU r then [regKey r] else (List.range n).map fun i => regNo r + i

/-! ## Reading and writing registers -/

/-- A v register of a lane; unlisted registers hold 0. -/
def Whorl.vget (wh : Whorl) (lane r : Nat) : Nat := (fgetD wh.v (lane * 64 + r) 0#32).toNat
/-- A u register. -/
def Whorl.uget (wh : Whorl) (r : Nat) : Nat := (fgetD wh.u r 0#64).toNat

/-- Writes a v register of a lane; the register is live from then on (R312). -/
def Whorl.vset (wh : Whorl) (lane r n : Nat) : Whorl :=
  { wh with v := fset wh.v (lane * 64 + r) (BitVec.ofNat 32 n), liveV := insAsc wh.liveV r }

def Whorl.uset (wh : Whorl) (r n : Nat) : Whorl := { wh with u := fset wh.u r (BitVec.ofNat 64 n) }

/-- A source operand as a number: a u register whole, a v register, or a v pair low half first (R43, R82). -/
def Whorl.src (wh : Whorl) (wide : Bool) (lane : Nat) (r : BitVec 7) : Nat :=
  if isU r then (if wide then wh.uget (regNo r) else wh.uget (regNo r) % 2 ^ 32)
  else if wide then wh.vget lane (regNo r) + 2 ^ 32 * wh.vget lane (regNo r + 1)
  else wh.vget lane (regNo r)

/-- Writes a v destination of one lane, one register or a pair. -/
def Whorl.vput (wh : Whorl) (wide : Bool) (lane r n : Nat) : Whorl :=
  if wide then (wh.vset lane r (n % 2 ^ 32)).vset lane (r + 1) (n / 2 ^ 32 % 2 ^ 32) else wh.vset lane r (n % 2 ^ 32)

/-- The value that a result takes in a u register: 32-bit results are zero-extended, S32 ones sign-extended (R82). DEDUCED, log 49. -/
def widenU (wide s32 : Bool) (n : Nat) : Nat :=
  if wide then n % 2 ^ 64 else if s32 then patternOf 64 (signedOf 32 n) else n % 2 ^ 32

/-- Writes a v destination of several lanes. -/
def Whorl.vputAll (wh : Whorl) (wide : Bool) (r : Nat) (f : Nat → Nat) : List Nat → Whorl
  | [] => wh
  | l :: ls => (wh.vput wide l r (f l)).vputAll wide r f ls

/-- The lanes of a path whose guard is 1, ascending. -/
def execLanes (wh : Whorl) (p : Path) (gn : BitVec 1) (gp : BitVec 3) : List Nat :=
  (lanesOf p.lanes).filter (wh.guard gn gp)

/-- The lowest thread of a path. -/
def lowLane (p : Path) : Nat := (lanesOf p.lanes).headD 0

/-- The lanes for which an instruction runs: with a u destination, once, by the lowest thread and its guard (R82). -/
def runLanes (wh : Whorl) (p : Path) (gn : BitVec 1) (gp : BitVec 3) (once : Bool) : List Nat :=
  if once then (if wh.guard gn gp (lowLane p) then [lowLane p] else []) else execLanes wh p gn gp

/-- Writes a result to its destination register (R82): `f` gives the result of a lane. DEDUCED, log 49. -/
def Whorl.dest (wh : Whorl) (p : Path) (gn : BitVec 1) (gp : BitVec 3) (wide s32 : Bool) (d : BitVec 7) (f : Nat → Nat) :
    Whorl :=
  match runLanes wh p gn gp (isU d) with
  | [] => wh
  | l :: ls => if isU d then wh.uset (regNo d) (widenU wide s32 (f l)) else wh.vputAll wide (regNo d) f (l :: ls)

/-! ## Unused fields are 0 (R81) -/

/-- Which fields of format Reg an instruction uses; every other one must be 0. -/
structure UseReg where
  d : Bool
  a : Bool
  b : Bool
  c : Bool
  ty : Bool
  ps : Bool
  rnd : Bool
  sat : Bool

def UseReg.none : UseReg := ⟨false, false, false, false, false, false, false, false⟩

def usedOnly (f : FReg) (u : UseReg) : Bool :=
  guardOk f.gn f.gp && f.z == 0#9 && (u.d || f.d == 0#7) && (u.a || f.a == 0#7) && (u.b || f.b == 0#7) &&
  (u.c || f.c == 0#7) && (u.ty || f.ty == 0#4) && (u.ps || f.ps == 0#3) && (u.rnd || f.rnd == 0#2) &&
  (u.sat || f.sat == 0#1)

/-- Is the element type of 64 bits (S64 or U64)? -/
def regWide (f : FReg) : Bool := tyWide f.ty.toNat

/-- Integer types of R86. -/
def intTy (t : BitVec 4) : Bool := decide (t.toNat < 4)

/-- Format Reg with D, A, B, an integer type and register operands of its width. -/
def legalInt3 (f : FReg) : Bool :=
  usedOnly f { UseReg.none with d := true, a := true, b := true, ty := true } && intTy f.ty &&
  pairOk (regWide f) f.d && pairOk (regWide f) f.a && pairOk (regWide f) f.b

/-- The same with A alone. -/
def legalInt2 (f : FReg) : Bool :=
  usedOnly f { UseReg.none with d := true, a := true, ty := true } && intTy f.ty && pairOk (regWide f) f.d && pairOk (regWide f) f.a

/-- The same with A, B and C. -/
def legalInt4 (f : FReg) : Bool :=
  usedOnly f { UseReg.none with d := true, a := true, b := true, c := true, ty := true } && intTy f.ty &&
  pairOk (regWide f) f.d && pairOk (regWide f) f.a && pairOk (regWide f) f.b && pairOk (regWide f) f.c

/-- FLDX: D, A and C. -/
def legalFldx (f : FReg) : Bool :=
  usedOnly f { UseReg.none with d := true, a := true, c := true, ty := true } && intTy f.ty &&
  pairOk (regWide f) f.d && pairOk (regWide f) f.a && pairOk (regWide f) f.c

/-- Format Imm with D, A and an immediate. -/
def legalImm (f : FImm) : Bool :=
  guardOk f.gn f.gp && pairOk (f.w == 1#1) f.d && pairOk (f.w == 1#1) f.a

/-- The immediate, sign-extended to the operation width (Table 03.3). -/
def immValue (f : FImm) : Nat :=
  if f.w = 1#1 then (f.imm.signExtend 64).toNat else f.imm.toNat

/-- Width in bits of a format Reg operation on integers. -/
def regWidth (f : FReg) : Nat := if regWide f then 64 else 32
def immWide (f : FImm) : Bool := f.w == 1#1
def immWidth (f : FImm) : Nat := if immWide f then 64 else 32

/-! ## Format Mem (R91, R92, R105) -/

/-- Bytes that SZ names. -/
def memSize (f : FMem) : Nat := 2 ^ f.sz.toNat

/-- ORD and SC: with .RLX, SC is 000; no reserved scope (R91). -/
def ordOk (f : FMem) (ords : List Nat) : Bool :=
  ords.contains f.ord.toNat && decide (f.sc.toNat < 5) && (f.ord != 0#2 || f.sc == 0#3)

/-- The address base: a u register or a v pair (R91). -/
def baseOk (f : FMem) : Bool := pairOk true f.a

/-- D of a load, store or atomic (R92). -/
def memDOk (f : FMem) : Bool :=
  regOk f.d &&
  (if isU f.d then isU f.a && decide (memSize f ≤ 8)
   else if memSize f = 16 then regNo f.d % 4 == 0 else memSize f != 8 || regNo f.d % 2 == 0)

/-- The effective address of a lane (R91), modulo 2^64. -/
def effAddr (wh : Whorl) (lane : Nat) (f : FMem) : Nat :=
  (wh.src true lane f.a + (f.off.signExtend 64).toNat) % 2 ^ 64

/-- 32-bit words that a transfer of SZ bytes takes in v registers. -/
def memWords (size : Nat) : Nat := if size ≤ 4 then 1 else size / 4

/-- The bytes a store or atomic takes from a register. -/
def regBytes (wh : Whorl) (lane size : Nat) (r : BitVec 7) : List Byte :=
  if isU r then leBytes size (wh.uget (regNo r))
  else ((List.range (memWords size)).flatMap fun i => leBytes 4 (wh.vget lane (regNo r + i))).take size

/-- Writes loaded bytes to v registers of a lane; `signed` extends 1 B and 2 B loads (LD.S). -/
def Whorl.loadV (wh : Whorl) (signed : Bool) (lane r : Nat) (b : List Byte) : Whorl :=
  if b.length < 4 then
    wh.vset lane r (if signed then patternOf 32 (signedOf (8 * b.length) (leNat b)) else leNat b)
  else (List.range (b.length / 4)).foldl (fun w i => w.vset lane (r + i) (leNat (sliceD b (4 * i) 4 0#8))) wh

/-- Writes loaded bytes to a u register. LD.S extends the sign to all 64 bits (R92), where R82 would zero-extend a 32-bit result.
DESIGN CHOICE, log 94. -/
def Whorl.loadU (wh : Whorl) (signed : Bool) (r : Nat) (b : List Byte) : Whorl :=
  wh.uset r (if signed then patternOf 64 (signedOf (8 * b.length) (leNat b)) else leNat b)

end Sys2Proof.Machine
end

