-- ==== Sys2Proof/Machine/DictTable.lean ====
section
/-! DEFINITION. The object dictionary's map (Tables 15.9 and 15.10 and the tables they name) as a list of descriptor rows,
and the reading and setting of the values the MC stores. -/

namespace Sys2Proof.Machine

/-- Entry types with their codes (Table 15.1). -/
inductive OdTy where
  | bool
  | u8
  | u16
  | u32
  | u64
  | i32
  | f32
  | str
  | blob
  deriving DecidableEq, Repr

/-- Access kinds (R399). -/
inductive OdAcc where
  | ro
  | wo
  | rw
  | rws
  deriving DecidableEq, Repr

/-- Persistence classes (R400). -/
inductive OdPer where
  | p
  | s
  | v
  | t
  deriving DecidableEq, Repr

/-- A descriptor: every index iLo..iHi with every sub-index sLo..sHi is one entry of this kind; a scalar outside lo..hi is
refused with `err`. -/
structure OdRow where
  iLo : Nat
  iHi : Nat
  sLo : Nat
  sHi : Nat
  ty : OdTy
  acc : OdAcc
  per : OdPer
  size : Nat
  dflt : Nat
  lo : Nat
  hi : Nat
  err : Nat
  deriving DecidableEq, Repr

/-- Rows of indices 0x1000 to 0x1FFF. DESIGN CHOICE, log 52. -/
def odRows1 : List OdRow := [
  ⟨0x1000, 0x1000, 1, 2, .str, .ro, .p, 16, 0, 0, 0, 0x02000001⟩,
  ⟨0x1000, 0x1000, 3, 3, .u32, .ro, .p, 4, 0, 0, 4294967295, 0x02000001⟩,
  ⟨0x1000, 0x1000, 4, 4, .u8, .ro, .v, 1, 0, 0, 255, 0x02000001⟩,
  ⟨0x1000, 0x1000, 5, 5, .u64, .ro, .p, 8, 0, 0, 18446744073709551615, 0x02000001⟩,
  ⟨0x1100, 0x1100, 1, 1, .u16, .rw, .p, 2, 34997, 1536, 65535, 0x02000101⟩,
  ⟨0x1100, 0x1100, 2, 2, .u8, .rw, .p, 1, 0, 0, 254, 0x02000102⟩,
  ⟨0x1100, 0x1100, 3, 3, .u8, .rw, .p, 1, 33, 1, 255, 0x02000102⟩,
  ⟨0x1100, 0x1100, 4, 4, .bool, .rw, .p, 1, 1, 0, 1, 0x02000001⟩,
  ⟨0x1100, 0x1100, 5, 5, .u64, .ro, .p, 8, 0, 0, 18446744073709551615, 0x02000001⟩,
  ⟨0x1100, 0x1100, 6, 6, .bool, .rw, .p, 1, 1, 0, 1, 0x02000001⟩,
  ⟨0x1100, 0x1100, 7, 8, .u64, .ro, .v, 8, 0, 0, 18446744073709551615, 0x02000001⟩,
  ⟨0x1200, 0x1200, 1, 1, .u8, .ro, .v, 1, 0, 0, 255, 0x02000001⟩,
  ⟨0x1200, 0x1200, 2, 2, .u32, .rw, .s, 4, 5000, 100, 60000, 0x02000100⟩,
  ⟨0x1200, 0x1200, 3, 3, .u32, .ro, .v, 4, 0, 0, 4294967295, 0x02000001⟩,
  ⟨0x1200, 0x1200, 4, 4, .u16, .ro, .v, 2, 0, 0, 65535, 0x02000001⟩,
  ⟨0x1200, 0x1200, 5, 7, .u64, .ro, .v, 8, 0, 0, 18446744073709551615, 0x02000001⟩,
  ⟨0x1300, 0x1300, 1, 1, .blob, .ro, .v, 32, 0, 0, 0, 0x02000001⟩,
  ⟨0x1300, 0x1300, 2, 2, .u64, .ro, .p, 8, 0, 0, 18446744073709551615, 0x02000001⟩,
  ⟨0x1300, 0x1300, 3, 3, .blob, .ro, .v, 40, 0, 0, 0, 0x02000001⟩,
  ⟨0x1400, 0x1401, 1, 2, .u8, .ro, .v, 1, 0, 0, 255, 0x02000001⟩,
  ⟨0x1400, 0x1401, 3, 3, .blob, .ro, .v, 64, 0, 0, 0, 0x02000001⟩,
  ⟨0x1400, 0x1401, 4, 5, .u8, .ro, .v, 1, 0, 0, 255, 0x02000001⟩,
  ⟨0x1400, 0x1401, 6, 6, .bool, .rw, .p, 1, 1, 0, 1, 0x02000001⟩,
  ⟨0x1400, 0x1401, 7, 7, .bool, .wo, .v, 1, 0, 0, 1, 0x02000001⟩,
  ⟨0x1400, 0x1401, 8, 8, .u64, .ro, .v, 8, 0, 0, 18446744073709551615, 0x02000001⟩,
  ⟨0x1410, 0x1411, 1, 1, .u8, .rws, .p, 1, 1, 0, 2, 0x020000D0⟩,
  ⟨0x1410, 0x1411, 2, 2, .u16, .rw, .p, 2, 34998, 0, 65535, 0x02000001⟩,
  ⟨0x1410, 0x1411, 3, 3, .u8, .ro, .v, 1, 0, 0, 255, 0x02000001⟩,
  ⟨0x1410, 0x1411, 4, 4, .u8, .rw, .p, 1, 0, 0, 255, 0x02000001⟩,
  ⟨0x1410, 0x1411, 5, 5, .u64, .ro, .v, 8, 0, 0, 18446744073709551615, 0x02000001⟩,
  ⟨0x1410, 0x1411, 16, 23, .u8, .ro, .v, 1, 0, 0, 255, 0x02000001⟩,
  ⟨0x1410, 0x1411, 32, 39, .u64, .ro, .p, 8, 0, 0, 18446744073709551615, 0x02000001⟩,
  ⟨0x1500, 0x1500, 1, 1, .u32, .rw, .s, 4, 100, 10, 100000, 0x020000D0⟩,
  ⟨0x1500, 0x1500, 2, 2, .u8, .rw, .s, 1, 16, 1, 255, 0x020000D0⟩,
  ⟨0x1500, 0x1500, 3, 3, .u16, .rw, .s, 2, 10, 1, 10000, 0x020000D0⟩,
  ⟨0x1500, 0x1500, 4, 6, .u64, .ro, .v, 8, 0, 0, 18446744073709551615, 0x02000001⟩,
  ⟨0x1500, 0x1500, 7, 7, .u8, .rw, .s, 1, 2, 0, 2, 0x020000D0⟩,
  ⟨0x1600, 0x19FF, 0, 0, .blob, .rws, .v, 32, 0, 0, 0, 0x02000001⟩,
  ⟨0x1F10, 0x1F10, 0, 0, .u8, .ro, .p, 1, 0, 0, 255, 0x02000001⟩,
  ⟨0x1F10, 0x1F10, 1, 16, .blob, .ro, .p, 16, 0, 0, 0, 0x02000001⟩]

/-- Rows of indices 0x2000 to 0x2FFF. -/
def odRows2 : List OdRow := [
  ⟨0x2000, 0x2000, 1, 1, .u8, .ro, .v, 1, 0, 0, 255, 0x02000001⟩,
  ⟨0x2000, 0x2000, 2, 2, .u8, .wo, .v, 1, 0, 0, 4, 0x02000001⟩,
  ⟨0x2000, 0x2000, 3, 3, .bool, .rw, .p, 1, 0, 0, 1, 0x02000001⟩,
  ⟨0x2000, 0x2000, 4, 4, .bool, .wo, .v, 1, 0, 0, 1, 0x02000001⟩,
  ⟨0x2010, 0x2010, 1, 1, .u64, .ro, .v, 8, 0, 0, 18446744073709551615, 0x02000001⟩,
  ⟨0x2010, 0x2010, 2, 2, .u8, .ro, .v, 1, 0, 0, 255, 0x02000001⟩,
  ⟨0x2010, 0x2010, 3, 3, .u32, .ro, .v, 4, 0, 0, 4294967295, 0x02000001⟩]

/-- Rows of indices 0x3000 to 0x3FFF. -/
def odRows3 : List OdRow := [
  ⟨0x3000, 0x3000, 1, 1, .u16, .rw, .s, 2, 1800, 600, 2000, 0x020000E0⟩,
  ⟨0x3000, 0x3000, 2, 2, .u16, .rw, .s, 2, 20, 1, 100, 0x020000E0⟩,
  ⟨0x3000, 0x3000, 3, 3, .u16, .rw, .s, 2, 900, 600, 2000, 0x020000E0⟩,
  ⟨0x3000, 0x3000, 4, 4, .bool, .rw, .s, 1, 0, 0, 1, 0x02000001⟩,
  ⟨0x3000, 0x3000, 5, 5, .u8, .rw, .s, 1, 100, 80, 105, 0x020000E0⟩,
  ⟨0x3000, 0x3000, 6, 8, .u32, .ro, .v, 4, 0, 0, 4294967295, 0x02000001⟩,
  ⟨0x3000, 0x3000, 9, 9, .u16, .ro, .v, 2, 0, 0, 65535, 0x02000001⟩,
  ⟨0x3000, 0x3000, 10, 10, .u64, .ro, .s, 8, 0, 0, 18446744073709551615, 0x02000001⟩,
  ⟨0x3000, 0x3000, 11, 11, .u64, .ro, .v, 8, 0, 0, 18446744073709551615, 0x02000001⟩,
  ⟨0x3000, 0x3000, 12, 12, .u32, .rw, .s, 4, 200, 10, 100000, 0x020000E0⟩,
  ⟨0x3000, 0x3000, 13, 13, .bool, .rw, .s, 1, 1, 0, 1, 0x02000001⟩,
  ⟨0x3020, 0x3020, 1, 4, .bool, .rw, .v, 1, 0, 0, 1, 0x02000001⟩,
  ⟨0x3100, 0x3100, 1, 80, .u32, .ro, .v, 4, 0, 0, 4294967295, 0x02000001⟩,
  ⟨0x3200, 0x324B, 1, 9, .u32, .ro, .p, 4, 0, 0, 4294967295, 0x02000001⟩,
  ⟨0x3300, 0x3300, 1, 76, .u8, .rw, .s, 1, 7, 0, 7, 0x020000E0⟩,
  ⟨0x3400, 0x3400, 1, 80, .u64, .ro, .s, 8, 0, 0, 18446744073709551615, 0x02000001⟩,
  ⟨0x3500, 0x3504, 1, 8, .u64, .ro, .s, 8, 0, 0, 18446744073709551615, 0x02000001⟩,
  ⟨0x3500, 0x3504, 9, 9, .u8, .ro, .v, 1, 0, 0, 255, 0x02000001⟩,
  ⟨0x3600, 0x3603, 1, 13, .i32, .ro, .v, 4, 0, 0, 4294967295, 0x02000001⟩,
  ⟨0x3610, 0x3613, 1, 8, .i32, .ro, .v, 4, 0, 0, 4294967295, 0x02000001⟩,
  ⟨0x3620, 0x3620, 1, 3, .i32, .ro, .v, 4, 0, 0, 4294967295, 0x02000001⟩]

/-- Rows of indices 0x4000 to 0x4FFF. -/
def odRows4 : List OdRow := [
  ⟨0x4020, 0x4020, 1, 1, .u32, .rw, .s, 4, 1000, 10, 1000000, 0x02000021⟩,
  ⟨0x4020, 0x4020, 2, 2, .u32, .rw, .s, 4, 10000, 0, 3600000, 0x02000022⟩,
  ⟨0x4200, 0x4200, 1, 1, .blob, .ro, .p, 3072, 0, 0, 0, 0x02000001⟩,
  ⟨0x4201, 0x4201, 1, 1, .blob, .ro, .p, 32, 0, 0, 0, 0x02000001⟩,
  ⟨0x4210, 0x4210, 1, 4, .u32, .ro, .v, 4, 0, 0, 4294967295, 0x02000001⟩,
  ⟨0x4211, 0x4211, 0, 0, .u16, .wo, .v, 2, 0, 0, 65535, 0x02000001⟩,
  ⟨0x4400, 0x4409, 1, 16, .u32, .ro, .v, 4, 0, 0, 4294967295, 0x02000001⟩,
  ⟨0x4410, 0x4410, 1, 1, .u16, .rw, .p, 2, 8, 1, 1000, 0x020000D0⟩,
  ⟨0x4410, 0x4410, 2, 2, .bool, .rw, .p, 1, 0, 0, 1, 0x02000001⟩,
  ⟨0x4410, 0x4410, 3, 3, .u64, .ro, .v, 8, 0, 0, 18446744073709551615, 0x02000001⟩]

/-- Rows of indices 0x5000 to 0x5FFF. -/
def odRows5 : List OdRow := [
  ⟨0x5001, 0x5001, 0, 1, .u64, .ro, .v, 8, 0, 0, 18446744073709551615, 0x02000001⟩,
  ⟨0x5002, 0x5002, 1, 1, .u16, .ro, .p, 2, 0, 0, 65535, 0x02000001⟩,
  ⟨0x5002, 0x5002, 2, 2, .u16, .wo, .v, 2, 0, 0, 65535, 0x02000001⟩,
  ⟨0x5002, 0x5002, 3, 3, .blob, .ro, .p, 128, 0, 0, 0, 0x02000001⟩,
  ⟨0x5002, 0x5002, 4, 4, .u32, .rw, .p, 4, 0, 0, 4294967295, 0x02000001⟩,
  ⟨0x5010, 0x5010, 1, 8, .u32, .ro, .v, 4, 0, 0, 4294967295, 0x02000001⟩,
  ⟨0x5011, 0x5011, 1, 1, .u64, .ro, .v, 8, 0, 0, 18446744073709551615, 0x02000001⟩,
  ⟨0x5020, 0x5020, 1, 1, .u16, .rw, .p, 2, 24, 1, 168, 0x02000068⟩,
  ⟨0x5020, 0x5020, 2, 2, .u32, .rw, .p, 4, 10000, 0, 4294967295, 0x02000001⟩,
  ⟨0x5020, 0x5020, 3, 3, .u64, .ro, .v, 8, 0, 0, 18446744073709551615, 0x02000001⟩,
  ⟨0x5020, 0x5020, 4, 4, .bool, .rw, .p, 1, 1, 0, 1, 0x02000001⟩,
  ⟨0x5020, 0x5020, 5, 5, .bool, .rw, .p, 1, 0, 0, 1, 0x02000001⟩,
  ⟨0x5020, 0x5020, 6, 6, .u64, .ro, .v, 8, 0, 0, 18446744073709551615, 0x02000001⟩,
  ⟨0x5030, 0x5030, 1, 1, .u32, .ro, .v, 4, 0, 0, 4294967295, 0x02000001⟩,
  ⟨0x5030, 0x5030, 2, 2, .u16, .ro, .v, 2, 0, 0, 65535, 0x02000001⟩,
  ⟨0x5040, 0x5040, 1, 1, .u8, .rws, .p, 1, 0, 0, 2, 0x02000061⟩,
  ⟨0x5040, 0x5040, 3, 3, .u8, .ro, .v, 1, 0, 0, 255, 0x02000001⟩,
  ⟨0x5040, 0x5040, 4, 4, .u64, .ro, .v, 8, 0, 0, 18446744073709551615, 0x02000001⟩,
  ⟨0x5040, 0x5040, 5, 5, .u8, .rw, .s, 1, 10, 1, 50, 0x02000069⟩,
  ⟨0x5050, 0x5053, 1, 8, .u8, .ro, .v, 1, 0, 0, 255, 0x02000001⟩,
  ⟨0x5060, 0x5060, 1, 1, .u64, .rw, .s, 8, 0, 0, 18446744073709551615, 0x02000070⟩,
  ⟨0x5060, 0x5060, 2, 2, .u32, .ro, .v, 4, 0, 0, 4294967295, 0x02000001⟩,
  ⟨0x5060, 0x5060, 3, 3, .u64, .ro, .v, 8, 0, 0, 18446744073709551615, 0x02000001⟩,
  ⟨0x5060, 0x5060, 5, 5, .u32, .rw, .s, 4, 1000, 10, 1000000, 0x02000072⟩,
  ⟨0x5060, 0x5060, 6, 8, .u64, .ro, .v, 8, 0, 0, 18446744073709551615, 0x02000001⟩,
  ⟨0x5070, 0x5070, 1, 1, .u32, .rw, .s, 4, 0, 0, 60000, 0x02000073⟩,
  ⟨0x5070, 0x5070, 2, 2, .u32, .ro, .v, 4, 0, 0, 4294967295, 0x02000001⟩,
  ⟨0x5100, 0x5100, 1, 1, .blob, .ro, .p, 40, 0, 0, 0, 0x02000001⟩,
  ⟨0x5101, 0x5101, 1, 1, .u32, .rws, .p, 4, 50331649, 0, 4294967295, 0x02000001⟩,
  ⟨0x5101, 0x5101, 2, 16, .u32, .rws, .p, 4, 0, 0, 4294967295, 0x02000001⟩,
  ⟨0x5200, 0x521F, 0, 0, .blob, .rws, .s, 32, 0, 0, 0, 0x02000001⟩,
  ⟨0x5800, 0x581F, 1, 32, .u32, .ro, .v, 4, 0, 0, 4294967295, 0x02000001⟩,
  ⟨0x5840, 0x585F, 1, 32, .u32, .ro, .v, 4, 0, 0, 4294967295, 0x02000001⟩]

/-- Rows of indices 0x6000 to 0x6FFF. -/
def odRows6 : List OdRow := [
  ⟨0x6000, 0x6000, 1, 1, .u16, .ro, .v, 2, 0, 0, 65535, 0x02000001⟩,
  ⟨0x6000, 0x6000, 2, 2, .u32, .ro, .v, 4, 0, 0, 4294967295, 0x02000001⟩,
  ⟨0x6000, 0x6000, 3, 5, .u16, .ro, .v, 2, 0, 0, 65535, 0x02000001⟩,
  ⟨0x6001, 0x6001, 1, 2, .u32, .rw, .p, 4, 50, 1, 1000, 0x020000C4⟩,
  ⟨0x6001, 0x6001, 5, 6, .u32, .ro, .p, 4, 0, 0, 4294967295, 0x02000001⟩,
  ⟨0x6001, 0x6001, 7, 8, .u64, .ro, .v, 8, 0, 0, 18446744073709551615, 0x02000001⟩,
  ⟨0x6001, 0x6001, 9, 10, .bool, .rw, .p, 1, 0, 0, 1, 0x02000001⟩,
  ⟨0x6002, 0x6002, 1, 1, .u64, .ro, .v, 8, 0, 0, 18446744073709551615, 0x02000001⟩,
  ⟨0x6010, 0x604F, 1, 1, .u16, .rws, .s, 2, 0, 0, 768, 0x020000C0⟩,
  ⟨0x6010, 0x604F, 2, 2, .u64, .rws, .s, 8, 0, 0, 18446744073709551615, 0x020000C0⟩,
  ⟨0x6010, 0x604F, 3, 3, .u32, .rws, .s, 4, 0, 0, 4294967295, 0x020000C0⟩,
  ⟨0x6010, 0x604F, 4, 4, .u16, .rws, .s, 2, 0, 0, 4096, 0x020000C0⟩,
  ⟨0x6010, 0x604F, 5, 5, .bool, .rw, .s, 1, 1, 0, 1, 0x02000001⟩,
  ⟨0x6010, 0x604F, 6, 6, .bool, .rw, .s, 1, 0, 0, 1, 0x02000001⟩,
  ⟨0x6010, 0x604F, 7, 7, .u8, .rw, .s, 1, 1, 0, 2, 0x02000053⟩,
  ⟨0x6010, 0x604F, 8, 8, .u16, .rw, .s, 2, 0, 0, 256, 0x02000052⟩,
  ⟨0x6010, 0x604F, 9, 9, .blob, .ro, .v, 512, 0, 0, 0, 0x02000001⟩,
  ⟨0x6010, 0x604F, 10, 10, .u8, .rw, .s, 1, 0, 0, 1, 0x020000B4⟩,
  ⟨0x6010, 0x604F, 11, 11, .u8, .rw, .s, 1, 0, 0, 1, 0x020000B5⟩,
  ⟨0x6010, 0x604F, 12, 12, .u64, .rw, .s, 8, 0, 0, 18446744073709551615, 0x020000B5⟩,
  ⟨0x6010, 0x604F, 13, 13, .u32, .rw, .s, 4, 0, 0, 4294967295, 0x020000B5⟩,
  ⟨0x6010, 0x604F, 14, 14, .u16, .rws, .s, 2, 0, 0, 4096, 0x020000C0⟩,
  ⟨0x6010, 0x604F, 15, 15, .u16, .rws, .s, 2, 0, 0, 2048, 0x020000C0⟩,
  ⟨0x6010, 0x604F, 16, 16, .u32, .rws, .s, 4, 0, 0, 4294967295, 0x02000001⟩,
  ⟨0x6010, 0x604F, 17, 17, .u8, .rws, .s, 1, 0, 0, 1, 0x020000C0⟩,
  ⟨0x6010, 0x604F, 18, 18, .blob, .ro, .v, 1536, 0, 0, 0, 0x02000001⟩,
  ⟨0x6010, 0x604F, 19, 20, .u64, .ro, .t, 8, 0, 0, 18446744073709551615, 0x02000001⟩]

/-- Rows of indices 0x7000 to 0x7FFF. -/
def odRows7 : List OdRow := [
  ⟨0x7000, 0x7000, 4, 6, .u64, .ro, .v, 8, 0, 0, 18446744073709551615, 0x02000001⟩,
  ⟨0x7010, 0x7010, 1, 1, .u16, .wo, .v, 2, 0, 0, 65535, 0x02000001⟩,
  ⟨0x7020, 0x7020, 1, 1, .u32, .rw, .s, 4, 2000, 100, 1000000, 0x020000B0⟩,
  ⟨0x7020, 0x7020, 2, 2, .u8, .rw, .s, 1, 3, 0, 15, 0x020000B1⟩,
  ⟨0x7020, 0x7020, 3, 5, .u64, .ro, .v, 8, 0, 0, 18446744073709551615, 0x02000001⟩,
  ⟨0x7100, 0x713F, 1, 1, .u16, .rw, .s, 2, 100, 1, 65535, 0x020000B2⟩,
  ⟨0x7100, 0x713F, 2, 5, .u64, .ro, .v, 8, 0, 0, 18446744073709551615, 0x02000001⟩,
  ⟨0x7400, 0x74FF, 1, 1, .u8, .rw, .s, 1, 255, 0, 255, 0x02000080⟩,
  ⟨0x7400, 0x74FF, 2, 2, .u8, .rw, .s, 1, 0, 0, 5, 0x02000080⟩,
  ⟨0x7400, 0x74FF, 3, 5, .u32, .ro, .v, 4, 0, 0, 4294967295, 0x02000001⟩,
  ⟨0x7400, 0x74FF, 6, 6, .u16, .ro, .v, 2, 0, 0, 65535, 0x02000001⟩,
  ⟨0x7400, 0x74FF, 7, 7, .u32, .ro, .v, 4, 0, 0, 4294967295, 0x02000001⟩,
  ⟨0x7400, 0x74FF, 8, 8, .bool, .wo, .v, 1, 0, 0, 1, 0x02000001⟩]

/-- Rows of indices 0x8000 to 0x8FFF. -/
def odRows8 : List OdRow := [
  ⟨0x8010, 0x8010, 1, 1, .u8, .rw, .s, 1, 2, 1, 5, 0x02000110⟩,
  ⟨0x8010, 0x8010, 2, 2, .u64, .ro, .v, 8, 0, 0, 18446744073709551615, 0x02000001⟩,
  ⟨0x8010, 0x8010, 3, 3, .bool, .rw, .s, 1, 0, 0, 1, 0x02000001⟩,
  ⟨0x8020, 0x8020, 1, 1, .bool, .rw, .v, 1, 0, 0, 1, 0x02000001⟩,
  ⟨0x8020, 0x8020, 2, 3, .u64, .ro, .v, 8, 0, 0, 18446744073709551615, 0x02000001⟩,
  ⟨0x8300, 0x8307, 1, 36, .u64, .ro, .v, 8, 0, 0, 18446744073709551615, 0x02000001⟩]

/-- Rows of indices 0x9000 to 0x9FFF. -/
def odRows9 : List OdRow := [
  ⟨0x9100, 0x9100, 1, 1, .u16, .wo, .v, 2, 0, 0, 65535, 0x02000001⟩,
  ⟨0x9100, 0x9100, 2, 2, .bool, .wo, .v, 1, 0, 0, 1, 0x02000001⟩,
  ⟨0x9100, 0x9100, 3, 3, .u8, .ro, .v, 1, 0, 0, 255, 0x02000001⟩]

/-- Rows of indices 0xA000 to 0xAFFF. -/
def odRowsA : List OdRow := [
  ⟨0xA000, 0xA000, 1, 1, .u32, .ro, .p, 4, 0, 0, 4294967295, 0x02000001⟩,
  ⟨0xA000, 0xA000, 2, 2, .u8, .ro, .p, 1, 0, 0, 255, 0x02000001⟩]

/-- Rows of indices 0xB000 to 0xBFFF. DESIGN CHOICE, log 52. -/
def odRowsB : List OdRow := [
  ⟨0xB010, 0xB010, 1, 1, .u8, .rw, .v, 1, 0, 0, 9, 0x020000D0⟩,
  ⟨0xB010, 0xB010, 2, 2, .u8, .rw, .v, 1, 0, 0, 2, 0x020000D0⟩,
  ⟨0xB010, 0xB010, 3, 3, .u32, .rw, .v, 4, 1, 1, 60000, 0x020000D0⟩,
  ⟨0xB010, 0xB010, 4, 4, .bool, .wo, .v, 1, 0, 0, 1, 0x02000001⟩,
  ⟨0xB010, 0xB010, 5, 5, .blob, .ro, .v, 2176, 0, 0, 0, 0x02000001⟩]

/-- The rows of a block of 4,096 indices. -/
def odBlock : Nat → List OdRow
  | 1 => odRows1
  | 2 => odRows2
  | 3 => odRows3
  | 4 => odRows4
  | 5 => odRows5
  | 6 => odRows6
  | 7 => odRows7
  | 8 => odRows8
  | 9 => odRows9
  | 10 => odRowsA
  | 11 => odRowsB
  | _ => []

/-- The descriptor of an entry, if the dictionary has it (R419). -/
def odRow (idx sub : Nat) : Option OdRow :=
  (odBlock (idx / 4096)).find? fun r =>
    decide (r.iLo ≤ idx) && decide (idx ≤ r.iHi) && decide (r.sLo ≤ sub) && decide (sub ≤ r.sHi)

/-- The key of an entry. -/
def odKey (idx sub : Nat) : Nat := idx * 256 + sub

/-- The default of a scalar entry; some defaults differ by index (Table 12.5, Table 15.10). -/
def odDefault (s : State) (idx sub : Nat) : Nat :=
  if idx = 0x1100 ∧ sub = 2 then s.mod.slotId.toNat + 1
  else if idx = 0x6010 ∧ sub = 1 then 768
  else if idx = 0x6010 ∧ (sub = 4 ∨ sub = 14) then 4096
  else if idx = 0x6010 ∧ sub = 15 then 64
  else match odRow idx sub with
    | some r => r.dflt
    | none => 0

/-- The bytes an entry holds in the MC's store: what was last set, else its default. -/
def odBytes (s : State) (idx sub : Nat) : List Byte :=
  match fget s.dict.od (odKey idx sub) with
  | some b => b
  | none =>
    match odRow idx sub with
    | some r => if r.ty = .str ∨ r.ty = .blob then [] else leBytes r.size (odDefault s idx sub)
    | none => []

/-- The number a scalar entry holds in the MC's store. -/
def odNat (s : State) (idx sub : Nat) : Nat :=
  match fget s.dict.od (odKey idx sub) with
  | some b => leNat b
  | none => odDefault s idx sub

/-- Sets the bytes of an entry. -/
def odPut (s : State) (idx sub : Nat) (b : List Byte) : State :=
  { s with dict := { s.dict with od := fset s.dict.od (odKey idx sub) b } }

/-- Sets a scalar entry, at the size of its type. -/
def odPutNat (s : State) (idx sub n : Nat) : State :=
  odPut s idx sub (leBytes ((odRow idx sub).map (·.size) |>.getD 8) n)

/-- Adds to a counter entry, saturating at its type's largest value. -/
def odAdd (s : State) (idx sub n : Nat) : State :=
  let sz := (odRow idx sub).map (·.size) |>.getD 8
  odPut s idx sub (leBytes sz (min (2 ^ (8 * sz) - 1) (odNat s idx sub + n)))

end Sys2Proof.Machine
end

