-- ==== Sys2Proof/Machine/Sha.lean ====
section
/-! DEFINITION. SHA-256 (FIPS 180-4), which R414 names for the configuration digest and R426 for image bodies. -/

namespace Sys2Proof.Machine

/-- The round constants. -/
def shaK : List W32 :=
  [0x428A2F98#32, 0x71374491#32, 0xB5C0FBCF#32, 0xE9B5DBA5#32, 0x3956C25B#32, 0x59F111F1#32, 0x923F82A4#32, 0xAB1C5ED5#32, 0xD807AA98#32, 0x12835B01#32, 0x243185BE#32, 0x550C7DC3#32, 0x72BE5D74#32, 0x80DEB1FE#32, 0x9BDC06A7#32, 0xC19BF174#32] ++
  [0xE49B69C1#32, 0xEFBE4786#32, 0x0FC19DC6#32, 0x240CA1CC#32, 0x2DE92C6F#32, 0x4A7484AA#32, 0x5CB0A9DC#32, 0x76F988DA#32, 0x983E5152#32, 0xA831C66D#32, 0xB00327C8#32, 0xBF597FC7#32, 0xC6E00BF3#32, 0xD5A79147#32, 0x06CA6351#32, 0x14292967#32] ++
  [0x27B70A85#32, 0x2E1B2138#32, 0x4D2C6DFC#32, 0x53380D13#32, 0x650A7354#32, 0x766A0ABB#32, 0x81C2C92E#32, 0x92722C85#32, 0xA2BFE8A1#32, 0xA81A664B#32, 0xC24B8B70#32, 0xC76C51A3#32, 0xD192E819#32, 0xD6990624#32, 0xF40E3585#32, 0x106AA070#32] ++
  [0x19A4C116#32, 0x1E376C08#32, 0x2748774C#32, 0x34B0BCB5#32, 0x391C0CB3#32, 0x4ED8AA4A#32, 0x5B9CCA4F#32, 0x682E6FF3#32, 0x748F82EE#32, 0x78A5636F#32, 0x84C87814#32, 0x8CC70208#32, 0x90BEFFFA#32, 0xA4506CEB#32, 0xBEF9A3F7#32, 0xC67178F2#32]

/-- The initial hash value. -/
def shaInit : List W32 := [0x6A09E667#32, 0xBB67AE85#32, 0x3C6EF372#32, 0xA54FF53A#32, 0x510E527F#32, 0x9B05688C#32, 0x1F83D9AB#32, 0x5BE0CD19#32]

/-- One word of the message schedule from the sixteen before it, oldest first. -/
def shaNextWord (w : List W32) : W32 :=
  let a := w.getD 0 0#32
  let b := w.getD 1 0#32
  let c := w.getD 9 0#32
  let d := w.getD 14 0#32
  a + (b.rotateRight 7 ^^^ b.rotateRight 18 ^^^ (b >>> 3)) + c + (d.rotateRight 17 ^^^ d.rotateRight 19 ^^^ (d >>> 10))

/-- One round on the eight working variables. -/
def shaRound (v : List W32) (k w : W32) : List W32 :=
  let a := v.getD 0 0#32
  let b := v.getD 1 0#32
  let c := v.getD 2 0#32
  let d := v.getD 3 0#32
  let e := v.getD 4 0#32
  let f := v.getD 5 0#32
  let g := v.getD 6 0#32
  let h := v.getD 7 0#32
  let t1 := h + (e.rotateRight 6 ^^^ e.rotateRight 11 ^^^ e.rotateRight 25) + ((e &&& f) ^^^ (~~~e &&& g)) + k + w
  let t2 := (a.rotateRight 2 ^^^ a.rotateRight 13 ^^^ a.rotateRight 22) + ((a &&& b) ^^^ (a &&& c) ^^^ (b &&& c))
  [t1 + t2, a, b, c, d + t1, e, f, g]

/-- The rounds over the constants, with a sliding window of sixteen schedule words. -/
def shaRounds : List W32 → List W32 → List W32 → List W32
  | [], _, v => v
  | k :: ks, w, v => shaRounds ks (w.drop 1 ++ [shaNextWord w]) (shaRound v k (w.headD 0#32))

/-- Four bytes as a big-endian word. -/
def shaWord (b : List Byte) : W32 := BitVec.ofNat 32 (b.foldl (fun acc x => acc * 256 + x.toNat) 0)

/-- Sixteen words of a 64 B block. -/
def shaBlock (b : List Byte) : List W32 := (List.range 16).map fun i => shaWord ((b.drop (4 * i)).take 4)

/-- The compression of n blocks. -/
def shaBlocks : Nat → List Byte → List W32 → List W32
  | 0, _, h => h
  | n + 1, m, h => shaBlocks n (m.drop 64) (List.zipWith (· + ·) h (shaRounds shaK (shaBlock (m.take 64)) h))

/-- The SHA-256 digest of a message, in output order. -/
def sha256 (m : List Byte) : List Byte :=
  let pad := (119 - m.length % 64) % 64
  let p := m ++ [0x80#8] ++ List.replicate pad 0#8 ++ (leBytes 8 (8 * m.length)).reverse
  (shaBlocks (p.length / 64) p shaInit).flatMap fun w => (leBytes 4 w.toNat).reverse

end Sys2Proof.Machine
end

