-- ==== Sys2Proof/Machine/Digest.lean ====
section
/-! DEFINITION. The configuration class and its digest (R401, R414). -/

namespace Sys2Proof.Machine

/-- Every descriptor row, in ascending order of index block. -/
def odAllRows : List OdRow :=
  odRows1 ++ odRows2 ++ odRows3 ++ odRows4 ++ odRows5 ++ odRows6 ++ odRows7 ++ odRows8 ++ odRows9 ++ odRowsA ++ odRowsB

/-- Type codes of Table 15.1. -/
def OdTy.code : OdTy → Nat
  | .bool => 1
  | .u8 => 2
  | .u16 => 3
  | .u32 => 4
  | .u64 => 5
  | .i32 => 6
  | .f32 => 7
  | .str => 8
  | .blob => 9

/-- The value of an entry as it is stored or reported: a record blob that nothing has set holds its reset fields. -/
def odValue (s : State) (idx sub : Nat) : List Byte :=
  match fget s.dict.od (odKey idx sub) with
  | some b => b
  | none =>
    match odRow idx sub with
    | some r =>
      if r.ty = .blob ∧ r.acc = .rws then
        leBytes r.size (if 0x1600 ≤ idx ∧ idx < 0x1A00 then 0x7F * 2 ^ 166 else 0)
      else odBytes s idx sub
    | none => []

/-- Is an entry of the configuration class (R401)? -/
def odConfig (r : OdRow) (idx sub : Nat) : Bool :=
  (r.acc == .rw || r.acc == .rws) && (r.per == .p || r.per == .s) &&
    !(idx == 0x1100 && (sub == 2 || sub == 3)) && !(decide (0x1600 ≤ idx) && decide (idx < 0x1A00))

/-- The keys of the configuration class, ascending. -/
def configKeys : List Nat :=
  let ks := odAllRows.flatMap fun r =>
    (List.range' r.iLo (r.iHi + 1 - r.iLo)).flatMap fun i =>
      (List.range' r.sLo (r.sHi + 1 - r.sLo)).filterMap fun j => if odConfig r i j then some (odKey i j) else none
  ks.mergeSort (fun a b => decide (a ≤ b))

/-- What one entry contributes: index, sub-index, type code, length, value (R414). -/
def digestPart (s : State) (k : Nat) : List Byte :=
  match odRow (k / 256) (k % 256) with
  | none => []
  | some r =>
    let v := odValue s (k / 256) (k % 256)
    leBytes 2 (k / 256) ++ leBytes 1 (k % 256) ++ leBytes 1 r.ty.code ++ leBytes 2 v.length ++ v

/-- The configuration digest (R414). -/
def configDigest (s : State) : List Byte := sha256 (configKeys.flatMap (digestPart s))

end Sys2Proof.Machine
end

