-- ==== Sys2Proof/Machine/Address.lean ====
section
/-! DEFINITION. Where things are: the physical address map (Table 00.4), groves and cores (R8, R9, R23), power domains
(R26 to R28), DRAM regions, the keyed hash and relocation (R190 to R201), homes, slices and sets (R160, R161, R174), and the
mesh routes (R31 to R34). -/

namespace Sys2Proof.Machine

/-! ## Physical address map -/

def storeBase : Nat := 0x011000000000
def scratchBase : Nat := 0x010000000000
def chuteBase : Nat := 0x012000000000
def ctlBase : Nat := 0x013000000000
def hostBase : Nat := 0x020000000000
def peerBase : Nat := 0x400000000000

/-- The region of a 48-bit physical address (Table 00.4). -/
def regionOf (pa : Nat) : Region :=
  if pa < 0x00C000000000 then .dram
  else if pa < scratchBase then .unmapped
  else if pa < 0x010040000000 then .scratch
  else if pa < storeBase then .unmapped
  else if pa < 0x0110C0000000 then .store
  else if pa < chuteBase then .unmapped
  else if pa < 0x012000100000 then .chute
  else if pa < ctlBase then .unmapped
  else if pa < 0x014000000000 then .ctl
  else if pa < hostBase then .unmapped
  else if pa < peerBase then .host
  else if pa < 0x1000000000000 then .peer
  else .unmapped

/-- The logical core whose store window holds an address (R12). -/
def storeCore (pa : Nat) : Nat := (pa - storeBase) / 0x40000

/-- The granule of its core's store that holds an address (R152). -/
def storeGranule (pa : Nat) : Nat := (pa - storeBase) % 0x40000 / 0x1000

/-- The address of byte o of core c's store. -/
def storeAddr (c o : Nat) : Nat := storeBase + c * 0x40000 + o

/-- The chute whose window holds an address. -/
def chuteOf (pa : Nat) : Nat := (pa - chuteBase) / 0x1000

/-! ## Groves and cores -/

def coreGrove (c : Nat) : Nat := c / 16
def groveBay (g : Nat) : Nat := g / 192
def coreBay (c : Nat) : Nat := c / 3072

/-- The number that the model gives a physical grove: 208 × bay + 13 × column + row. -/
def physGrove (bay col row : Nat) : Nat := 208 * bay + 13 * col + row

/-- The working groves of a bay at shipment, in the order of R23: column, then row. -/
def shippedGroves (s : State) (bay : Nat) : List Nat :=
  (List.range 208).filter fun i => !s.flash.badGroves.contains (208 * bay + i)

/-- Where a logical grove lies: its present entry, or the place the first calibration gave it (R23). -/
def groveEnt (s : State) (g : Nat) : GroveEnt :=
  match fget s.groves g with
  | some e => e
  | none =>
    let i := if s.flash.badGroves.isEmpty then g % 192 else ((shippedGroves s (groveBay g))[g % 192]?).getD 0
    { bay := groveBay g, col := i / 13, row := i % 13, removed := 0#16, lost := false }

/-- A compute domain by grove place (R28), as a global number (R26). -/
def placeDomain (bay col row : Nat) : Nat := 19 * bay + (col + 5 * row) % 16

def groveDomain (s : State) (g : Nat) : Nat :=
  let e := groveEnt s g
  placeDomain e.bay e.col e.row

def coreDomain (s : State) (c : Nat) : Nat := groveDomain s (coreGrove c)

/-- A core's half: its grove's side of its bay (R162). -/
def coreHalf (s : State) (c : Nat) : Nat :=
  let e := groveEnt s (coreGrove c)
  2 * e.bay + (if e.col < 8 then 0 else 1)

/-- Is this logical core number in use: its grove not lost, its bay not retired, itself not removed (R9, R451, R452)? -/
def coreUsed (s : State) (c : Nat) : Bool :=
  decide (c < 12288) && (let e := groveEnt s (coreGrove c); !e.lost && !e.removed.getLsbD (c % 16) && (s.bay e.bay).st != .retired)

/-- Physical groves of a bay in use as logical groves. -/
def enabledPhys (s : State) (bay : Nat) : List Nat :=
  (List.range 192).filterMap fun i =>
    let e := groveEnt s (192 * bay + i)
    if e.lost then none else some (physGrove e.bay e.col e.row)

/-- The unused working spares of a bay: shipped working, not enabled, not retired or failed since, and not in a domain
that is off for a failure (R23, R24, R450). -/
def spares (s : State) (bay : Nat) : List Nat :=
  let used := enabledPhys s bay
  (shippedGroves s bay).map (· + 208 * bay) |>.filter fun p => !used.contains p && !s.deadGroves.contains p

/-- Working groves of a bay: enabled ones and spares (R25). -/
def workingGroves (s : State) (bay : Nat) : Nat := (enabledPhys s bay).length + (spares s bay).length

/-- Is the bay in service: its cores, halves and joints answer? -/
def bayUp (s : State) (n : Nat) : Bool := (s.bay n).st == .running

/-! ## Data channels, regions and the keyed hash -/

def chanBay (ch : Nat) : Nat := ch / 256
def chanStack (ch : Nat) : Nat := ch % 256 / 32
def chanQ (ch : Nat) : Nat := ch % 32

def parityMode (s : State) : Nat := odNat s 0x5040 1

/-- The members of a channel's stripe (Table 07.3), ascending. -/
def stripeMembers (mode ch : Nat) : List Nat :=
  if mode = 1 then (List.range 8).map fun k => 256 * chanBay ch + 32 * k + chanQ ch
  else if mode = 2 then (List.range 4).map fun n => 256 * n + ch % 256
  else [ch]

/-- The channel of its stripe that holds parity by Table 07.3. -/
def nominalParity (mode ch : Nat) : Nat :=
  let q := chanQ ch
  if mode = 1 then 256 * chanBay ch + 32 * ((q + 4 * (q / 16)) % 8) + q
  else 256 * ((q + chanStack ch) % 4) + ch % 256

/-- The channel of its stripe that holds parity when the channels `out` are mapped out (R205); none in mode 0 or when no
member is left. -/
def parityChan (mode : Nat) (out : List Nat) (ch : Nat) : Option Nat :=
  if mode = 0 then none
  else if !out.contains (nominalParity mode ch) then some (nominalParity mode ch)
  else (stripeMembers mode ch).find? fun m => !out.contains m

/-- Is a channel a data channel (R190)? -/
def isData (mode : Nat) (out : List Nat) (ch : Nat) : Bool :=
  !out.contains ch && parityChan mode out ch != some ch

/-- The device data set as it was last fixed (R190), in channel order. -/
def dataSet (s : State) : List Nat := (List.range 1024).filter (isData (parityMode s) s.mem.setOut)

/-- The size N of the device data set. -/
def dataSetSize (s : State) : Nat := (dataSet s).length

/-- Usable DRAM in lines of 1 KiB (R14, R201). -/
def usableLines (s : State) : Nat :=
  match s.mem.mapouts with
  | m :: _ => m.newLines
  | [] => dataSetSize s * 786432

def usableSize (s : State) : Nat := usableLines s * 1024

/-- The region table up to the first entry of KIND 0: (BANDS, KIND) (R191). -/
def regionTable (s : State) : List (Nat × Nat) :=
  ((List.range 16).map fun i =>
    let e := odNat s 0x5101 (i + 1)
    (bits e 25 16, bits e 1 0)).takeWhile fun e => e.2 != 0

/-- H(row) of R195. -/
def hashRow (s : State) (row : Nat) : Nat :=
  (List.range 20).foldl (fun h j => if row.testBit j then h ^^^ ((s.flash.hashKey[j]?).getD 0#10).toNat else h) 0

/-- The place of line x in one set of channels that starts at a row (R195). -/
def slotIn (s : State) (set : List Nat) (firstBand off : Nat) : Nat × Nat :=
  let n := set.length
  let row := 1024 * firstBand + off / n
  ((set[(off % n + hashRow s row) % n]?).getD 0, row)

/-- The four sub-ranges of a bay-interleaved region (R192), taken in turn. -/
def baySlot (s : State) (set : List Nat) (bands firstBand : Nat) : List Nat → Nat → Nat × Nat
  | [], _ => (0, 0)
  | n :: rest, off =>
    let bs := set.filter fun ch => chanBay ch == n
    if off < bands * 1024 * bs.length then slotIn s bs firstBand off
    else baySlot s set bands firstBand rest (off - bands * 1024 * bs.length)

/-- The nominal slot of a line by walking the regions (R195). -/
def walkRegions (s : State) (set : List Nat) : List (Nat × Nat) → Nat → Nat → Nat × Nat
  | [], _, _ => (0, 0)
  | (bands, kind) :: rest, firstBand, off =>
    let lines := bands * 1024 * set.length
    if off < lines then
      (if kind = 1 then slotIn s set firstBand off else baySlot s set bands firstBand [0, 1, 2, 3] off)
    else walkRegions s set rest (firstBand + bands) (off - lines)

def nominalSlot (s : State) (x : Nat) : Nat × Nat := walkRegions s (dataSet s) (regionTable s) 0 x

/-- The k-th number of [lo, hi) that satisfies a test. -/
def nthWhere (p : Nat → Bool) (lo hi k : Nat) : Nat := (((List.range' lo (hi - lo)).filter p)[k]?).getD 0

/-- The current slot of a line after the relocations of a list of map-outs, newest first (R201). -/
def slotAfter (nom : Nat → Nat × Nat) : List MapOut → Nat → Nat × Nat
  | [], x => nom x
  | m :: older, x =>
    let cur := slotAfter nom older
    let inD := fun y => m.lost.contains (cur y).1
    if x < m.newLines ∧ inD x then cur (nthWhere (fun y => !inD y) m.newLines m.oldLines (countTo x inD))
    else cur x

/-- The current slot of a line. -/
def curSlot (s : State) (x : Nat) : Nat × Nat := slotAfter (nominalSlot s) s.mem.mapouts x

/-- The slot a line still stands in: the one it had before the oldest map-out that has not moved it yet (R202). -/
def heldSlot (nom : Nat → Nat × Nat) : List MapOut → Nat → Option (Nat × Nat)
  | [], _ => none
  | m :: older, x =>
    match heldSlot nom older x with
    | some p => some p
    | none =>
      let p := slotAfter nom older x
      if x < m.newLines ∧ m.lost.contains p.1 ∧ !m.done ∧ !m.moved.contains x then some p else none

/-- Is the line one of F of a map-out, and not yet moved (R202)? -/
def unmoved (s : State) (x : Nat) : Bool := (heldSlot (nominalSlot s) s.mem.mapouts x).isSome

/-- The slot that serves a line now: the old one until it has moved (R202). -/
def servingSlot (s : State) (x : Nat) : Nat × Nat := (heldSlot (nominalSlot s) s.mem.mapouts x).getD (curSlot s x)

/-- The channels that a region's block of lines is spread over, by the line's offset in it (R192, R195). -/
def baySet (set : List Nat) (bands : Nat) : List Nat → Nat → List Nat
  | [], _ => []
  | n :: rest, off =>
    let bs := set.filter fun ch => chanBay ch == n
    if off < bands * 1024 * bs.length then bs else baySet set bands rest (off - bands * 1024 * bs.length)

/-- The set of R195 that a line's channel is chosen from: the device's, or a bay's in a bay-interleaved region. -/
def regionSet (set : List Nat) : List (Nat × Nat) → Nat → List Nat
  | [], _ => set
  | (bands, kind) :: rest, off =>
    let lines := bands * 1024 * set.length
    if off < lines then (if kind = 1 then set else baySet set bands [0, 1, 2, 3] off) else regionSet set rest (off - lines)

def lineChans (s : State) (x : Nat) : List Nat := regionSet (dataSet s) (regionTable s) x

/-- The line whose nominal slot is (channel, row), in one set of channels that starts at a band. -/
def lineIn (s : State) (set : List Nat) (firstBand bands start ch row : Nat) : Option Nat :=
  let n := set.length
  if 1024 * firstBand ≤ row ∧ row < 1024 * (firstBand + bands) ∧ set.contains ch then
    some (start + (row - 1024 * firstBand) * n + (set.idxOf ch + n - hashRow s row % n) % n)
  else none

/-- The same over the four sub-ranges of a bay-interleaved region. -/
def lineInBays (s : State) (set : List Nat) (firstBand bands ch row : Nat) : List Nat → Nat → Option Nat
  | [], _ => none
  | b :: rest, start =>
    let bs := set.filter fun x => chanBay x == b
    match lineIn s bs firstBand bands start ch row with
    | some x => some x
    | none => lineInBays s set firstBand bands ch row rest (start + bands * 1024 * bs.length)

/-- The same over the regions (R191 to R195). -/
def lineInRegions (s : State) (set : List Nat) (ch row : Nat) : List (Nat × Nat) → Nat → Nat → Option Nat
  | [], _, _ => none
  | (bands, kind) :: rest, firstBand, start =>
    let found := if kind = 1 then lineIn s set firstBand bands start ch row
      else lineInBays s set firstBand bands ch row [0, 1, 2, 3] start
    match found with
    | some x => some x
    | none => lineInRegions s set ch row rest (firstBand + bands) (start + bands * 1024 * set.length)

/-- The line of a nominal slot. -/
def slotLine (s : State) (p : Nat × Nat) : Option Nat := lineInRegions s (dataSet s) p.1 p.2 (regionTable s) 0 0

/-! ## Range records and mirrors (Table 07.7, R215) -/

/-- Range record e as a number (Table 07.7). -/
def rangeRec (s : State) (e : Nat) : Nat := odNat s (0x5200 + e) 0
def rangeBase (r : Nat) : Nat := bits r 127 64
def rangeSize (r : Nat) : Nat := bits r 191 128
def rangeMbase (r : Nat) : Nat := bits r 255 192

/-- The nominal slot of the mirror of a line of range record e (R215). -/
def mirrorSlot (s : State) (e line : Nat) : Nat × Nat :=
  let set := lineChans s line
  let n := set.length
  let (ch, row) := nominalSlot s line
  ((set[(set.idxOf ch + n / 2) % n]?).getD 0,
   row + (rangeMbase (rangeRec s e) - rangeBase (rangeRec s e)) / (1024 * n) -
     (rangeBase (rangeRec s e) - rangeMbase (rangeRec s e)) / (1024 * n))

/-- The line of the mirror range where the mirror copy of a line stands, while it is usable. -/
def mirrorLine (s : State) (e line : Nat) : Option Nat := (slotLine s (mirrorSlot s e line)).filter fun y => decide (y < usableLines s)

/-- Does record e keep a mirror that holds the whole range: IMMUTABLE, MIRROR and MSYNC? -/
def mirrored (s : State) (e : Nat) : Bool :=
  let r := rangeRec s e
  decide (0 < rangeSize r) && r.testBit 1 && r.testBit 2 && r.testBit 32

/-- The line whose mirror copy stands at a line, if one does: its nominal slot is half a set away, in the primary's row (R215). -/
def mirrorOf (s : State) (line : Nat) : Option Nat :=
  match (List.range 32).find? fun e => mirrored s e && decide (rangeMbase (rangeRec s e) ≤ 1024 * line) &&
      decide (1024 * line < rangeMbase (rangeRec s e) + rangeSize (rangeRec s e)) with
  | none => none
  | some e =>
    let r := rangeRec s e
    let set := lineChans s line
    let n := set.length
    let (ch, row) := nominalSlot s line
    slotLine s ((set[(set.idxOf ch + n - n / 2) % n]?).getD 0,
      row + (rangeBase r - rangeMbase r) / (1024 * n) - (rangeMbase r - rangeBase r) / (1024 * n))

/-! ## Homes -/

/-- The half a channel's stack serves (R21): stacks 0 to 3 west, 4 to 7 east. -/
def chanHalf (ch : Nat) : Nat := 2 * chanBay ch + (if chanStack ch < 4 then 0 else 1)

/-- The home slice, numbered 16 × half + slice, that a channel leads to (R160). -/
def chanSlice (ch : Nat) : Nat := 16 * chanHalf ch + chanQ ch % 16

def sliceBay (n : Nat) : Nat := n / 32
def sliceHalf (n : Nat) : Nat := n / 16

/-- The home slice of a line; under bay parity a bay in reset hands its homes to a substitute (R210). -/
def homeSlice (s : State) (x : Nat) : Nat :=
  let n := chanSlice (servingSlot s x).1
  match fget s.mem.subst (sliceBay n) with
  | some b => 32 * b + n % 32
  | none => n

/-- The set of a line (R161). -/
def lineSet (l : Nat) : Nat := (bits l 15 7 ^^^ bits l 24 16 ^^^ bits l 33 25 ^^^ bits l 37 34) % 512

/-- The slice and way that carve unit u's line i (R174): (16 × half + slice, set, way). -/
def scratchPlace (u i : Nat) : Nat × Nat × Nat := (16 * (u % 8) + 2 * (u / 8 % 8) + i % 2, i / 2, 15 - u / 64)

/-- The slice that holds a scratch address. -/
def scratchSlice (pa : Nat) : Nat :=
  let o := pa - scratchBase
  (scratchPlace (o / 0x100000) (o % 0x100000 / 1024)).1

/-! ## Mesh routes -/

/-- Working tenons of a joint, ascending (R33); bay joints have 16, the others 8 (R19). -/
def workingTenons (s : State) (j : Nat) : List Nat :=
  (List.range (if j < 4 then 16 else 8)).filter fun t => (s.tenon (16 * j + t)).width != 3

/-- The tenon a packet takes on a joint (R33). -/
def pickTenon (s : State) (j src dst : Nat) : Option Nat :=
  let w := workingTenons s j
  w[(src + 7 * dst) % 256 % w.length]?

def absDiff (a b : Nat) : Nat := (a - b) + (b - a)

/-- Where a packet starts or ends: its die (0 to 3 the bays, 4 the girt die, 5 and 6 N0 and N1), the grove router it attaches to,
and its endpoint number (R22). -/
structure Place where
  die : Nat
  col : Nat
  row : Nat
  num : Nat
  deriving DecidableEq, Repr

/-- Core position p inside its grove: in-grove row and column (R20). -/
def inGrove (p : Nat) : Nat × Nat := (p / 4, p % 4)

def routerEndpoint (e : GroveEnt) : Nat := 1024 * e.bay + 16 * e.row + e.col

/-- The router of a core's grove (R20, R22). -/
def corePlace (s : State) (c : Nat) : Place :=
  let e := groveEnt s (coreGrove c)
  { die := e.bay, col := e.col, row := e.row, num := routerEndpoint e }

/-- A slice, numbered 16 × half + slice, at the router it attaches to (R21, R22). -/
def slicePlace (n : Nat) : Place :=
  let x := n % 16
  { die := sliceBay n, col := (if sliceHalf n % 2 = 0 then 1 else 8) + 2 * (x % 4), row := ([1, 4, 8, 11][x / 4]?).getD 1,
    num := 1024 * sliceBay n + 256 + 16 * (sliceHalf n % 2) + x }

/-- The endpoint number of memory controller k of a bay (R22); it lies beneath columns 2k and 2k + 1 (R21) and its traffic never
enters the mesh. -/
def memEndpoint (bay k : Nat) : Nat := 1024 * bay + 288 + k
def stackCols (k : Nat) : List Nat := [2 * k, 2 * k + 1]

/-- The place e of girt engines 1 to 7 (Table 15.10), each at one of its own: the spec gives the codes and not their places.
DEDUCED, log 86. -/
def girtPlaces : List Nat :=
  (List.range 7).foldl (fun l k =>
    let open_ := (List.range 16).filter fun e => !l.contains e
    l ++ [(open_[Config.girtSlot k % open_.length]?).getD 0]) []

/-- The code that OD 0x4201:01 lists at place e: 0 none, 1 Framer, 2 girt DMA, 3 chute block, 4 and 5 the CXL ports, 6 and 7 the
gateways. -/
def girtCode (e : Nat) : Nat :=
  match girtPlaces.findIdx? (· == e) with
  | some k => k + 1
  | none => 0

/-- The endpoint number of a girt engine (R22). DEDUCED, log 86. -/
def girtEndpoint (code : Nat) : Nat := 0x0E00 + (girtPlaces[code - 1]?).getD 0

def girtPlace (code : Nat) : Place := { die := 4, col := 0, row := 0, num := girtEndpoint code }

/-- An admitted rafter die is an endpoint of its gateway's number (R356). -/
def diePlace (n : Nat) : Place := { die := 5 + n, col := 0, row := 0, num := girtEndpoint (6 + n) }

/-- The bay after this one around the ring, and the joint between them. -/
def nextBay (n : Nat) : Nat := (n + 1) % 4

/-- The joint from bay a towards neighbour b, with the columns its tenons attach to on a's side and on b's (Table 01.2). -/
def ringJoint (a b : Nat) : Nat × Nat × Nat := if b = nextBay a then (a, 15, 0) else (b, 0, 15)

/-- Is every joint along a list of bays whole (R351)? -/
def routeWhole (s : State) : Nat → List Nat → Bool
  | _, [] => true
  | a, b :: r => !s.cuts.contains (ringJoint a b).1 && routeWhole s b r

/-- The bays a packet passes through after its source bay (R32, R34); a cut joint is avoided (R351). -/
def bayRoute (s : State) (src dst sb db : Nat) : List Nat :=
  if sb = db then []
  else if db = nextBay sb then
    (if routeWhole s sb [db] then [db] else [(sb + 3) % 4, (sb + 2) % 4, db])
  else if sb = nextBay db then
    (if routeWhole s sb [db] then [db] else [nextBay sb, nextBay (nextBay sb), db])
  else
    let x := src ^^^ dst
    let fwd := (x ^^^ (x >>> 4)) % 2 = 0
    let mid := if fwd then nextBay sb else (sb + 3) % 4
    let other := if fwd then (sb + 3) % 4 else nextBay sb
    [if bayUp s mid ∧ routeWhole s sb [mid, db] then mid else other, db]

/-- The bays between a bay and the girt die (R351): none while its girt joint is whole; else its next bay, or its previous one, or
the two beyond them, the first way that is whole. DEDUCED, log 89. -/
def girtBays (s : State) (b : Nat) : List Nat :=
  let nxt := nextBay b
  let prv := (b + 3) % 4
  let opp := (b + 2) % 4
  let ways := [[], [nxt], [prv], [nxt, opp], [prv, opp], [nxt, opp, prv], [prv, opp, nxt]]
  let whole := fun (l : List Nat) =>
    routeWhole s b l && l.all (bayUp s) && !s.cuts.contains (4 + (l.getLast?).getD b)
  (ways.find? whole).getD []

/-- The joints between dies in a list, from a die on. -/
def jointsAlong : Nat → List Nat → List Nat
  | _, [] => []
  | a, b :: r => (if a < 4 ∧ b < 4 then (ringJoint a b).1 else if a < 4 then 4 + a else if b < 4 then 4 + b else 3 + max a b) :: jointsAlong b r

/-- The dies a packet passes through after its source die (R32, R34, R351, R356). -/
def dieRoute (s : State) (a b : Place) : List Nat :=
  let up := if a.die < 4 then girtBays s a.die ++ [4] else if a.die = 4 then [] else [4]
  let down := if b.die < 4 then (girtBays s b.die).reverse ++ [b.die] else if b.die = 4 then [] else [b.die]
  if a.die = b.die then []
  else if a.die < 4 ∧ b.die < 4 then bayRoute s a.num b.num a.die b.die
  else up ++ down

/-- The tenons (16 × joint + tenon) that a packet crosses, each chosen by R33. -/
def crossings (s : State) (a b : Place) : List Nat :=
  (jointsAlong a.die (dieRoute s a b)).map fun j => 16 * j + (pickTenon s j a.num b.num).getD 0

/-- Along its row first, then along the column (R32): the groves a packet enters. -/
def rowThenCol (c r dc dr : Nat) : List (Nat × Nat) :=
  ((List.range (absDiff c dc)).map fun i => (if c ≤ dc then c + i + 1 else c - i - 1, r)) ++
  (List.range (absDiff r dr)).map fun i => (dc, if r ≤ dr then r + i + 1 else r - i - 1)

/-- The grove of a bay that a tenon attaches at (Table 01.2). -/
def tenonGrove (bay j t : Nat) : Nat × Nat := if j < 4 then (if j = bay then 15 else 0, 13 * t / 16) else (2 * t + 1, 12)

/-- The die on the other side of a joint. -/
def across (die j : Nat) : Nat :=
  if j < 4 then (if j = die then nextBay die else j) else if j < 8 then (if die < 4 then 4 else j - 4) else if die = 4 then j - 3 else 4

/-- The groves that a packet enters on its way over some tenons, in every bay (R32, R37): (bay, column, row). -/
def meshPath (dc dr : Nat) : Nat → Nat → Nat → List Nat → List (Nat × Nat × Nat)
  | die, c, r, [] => if die < 4 then (rowThenCol c r dc dr).map fun x => (die, x.1, x.2) else []
  | die, c, r, k :: ks =>
    let j := k / 16
    let t := k % 16
    let here := if die < 4 then
        let g := tenonGrove die j t
        (rowThenCol c r g.1 g.2).map fun x => (die, x.1, x.2)
      else []
    let far := across die j
    let g := if far < 4 then tenonGrove far j t else (0, 0)
    here ++ meshPath dc dr far g.1 g.2 ks

/-- The R32 route between two places. -/
def meshRoute (s : State) (a b : Place) : List (Nat × Nat × Nat) := meshPath b.col b.row a.die a.col a.row (crossings s a b)

/-- Grove-to-grove hops between two logical groves. -/
def groveHops (s : State) (a b : Nat) : Nat := (meshRoute s (corePlace s (16 * a)) (corePlace s (16 * b))).length

/-! ## Fields of a session record (Table 13.10), and a function's home port -/

/-- The session record of OD 0x1600 + n as a number. -/
def sessRec (s : State) (n : Nat) : Nat := odNat s (0x1600 + n) 0
def sessPmac (s : State) (n : Nat) : Nat := bits (sessRec s n) 255 208
def sessPeer (s : State) (n : Nat) : Nat := bits (sessRec s n) 207 192
def sessWin (s : State) (n : Nat) : Nat := bits (sessRec s n) 172 166
def sessFunc (s : State) (n : Nat) : Nat := bits (sessRec s n) 165 160
def sessDie (s : State) (n : Nat) : Nat := bits (sessRec s n) 159 159
def sessPort (s : State) (n : Nat) : Nat := bits (sessRec s n) 158 156
def sessEn (s : State) (n : Nat) : Bool := bits (sessRec s n) 128 128 == 1

/-- The port that function f's host traffic takes (Table 12.5). -/
def homePort (s : State) (f : Nat) : Nat := odNat s (0x6010 + f) 17

/-! ## The route of a request (R33 to R35) -/

/-- Where a request's packets start. A debug access starts at the Framer's place. DEDUCED, log 89. -/
def agentPlace (s : State) : Agent → Place
  | .core c _ => corePlace s c
  | .bar p _ => girtPlace (4 + p)
  | .cxl p => girtPlace (4 + p)
  | .rafter n => diePlace n
  | .session x => girtPlace (6 + sessDie s x)
  | .dma _ => girtPlace 2
  | .framer => girtPlace 1
  | .dbg => girtPlace 1

/-- The die whose gateway serves a peer window (R363). -/
def windowDie (s : State) (pa : Nat) : Nat :=
  match (List.range 1024).find? fun n => decide ((s.session n).st = 2) && decide (sessWin s n = pa / 0x20000000000 - 32) with
  | some n => sessDie s n
  | none => 0

/-- Where an address is served for a context: its home slice, its core, or the girt engine that has it. DEDUCED, log 89. -/
def addrPlace (s : State) (ctx pa : Nat) : Place :=
  match regionOf pa with
  | .dram => slicePlace (homeSlice s (pa / 1024))
  | .scratch => slicePlace (scratchSlice pa)
  | .store => corePlace s (storeCore pa)
  | .chute => girtPlace 3
  | .host => girtPlace (4 + homePort s (match fget s.ctxs ctx with
    | some c => c.f
    | none => 0))
  | .peer => girtPlace (6 + windowDie s pa)
  | _ => girtPlace 1

/-- The tenons that a lane's packet crosses now (R33, R34). DEDUCED, log 89. -/
def laneRoute (s : State) (a : Agent) (ctx pa : Nat) : List Nat := crossings s (agentPlace s a) (addrPlace s ctx pa)

/-- The lanes of a request with the routes in force. -/
def routeLanes (s : State) (r : Req) : Req :=
  { r with lanes := r.lanes.map fun l => if l.sent || l.done then l else { l with route := laneRoute s r.agent r.ctx l.pa } }

/-- ROUTE_CHANGE (R35, R351): the packets that the edge routers keep, those of lanes that have not arrived, are sent again on the
routes in force, in the order of the requests, ahead of any newer packet. DEDUCED, log 89. -/
def routeChange (s : State) : State :=
  s.setMem { s.mem with reqs := s.mem.reqs.map (routeLanes s) }

end Sys2Proof.Machine
end

