-- ==== Sys2Proof/Machine/Counters.lean ====
section
/-! DEFINITION. Engine counters and their epochs (R466 to R474), class counters (R186, R187), and the fault log
(R442 to R444). -/

namespace Sys2Proof.Machine

/-! ## Counter banks; a bank's key is (block address - 0x0134_0000_0000) / 0x200 (Table 18.2) -/

def coreBank (c k : Nat) : Nat := 4 * c + k
def sliceBank (n : Nat) : Nat := 0x10000 + n
def ctrlBank (bay stack : Nat) : Nat := 0x10800 + 8 * bay + stack
def tenonBank (j t : Nat) : Nat := 0x11000 + 16 * j + t
def framerBank : Nat := 0x11800
def chuteBank (c : Nat) : Nat := 0x12000 + c

def Bank.zero : Bank := { epoch := 0, run := [], last := [] }

/-- A bank; a shared engine that has counted nothing yet is at the shared epoch. -/
def State.bank (s : State) (k : Nat) : Bank :=
  fgetD s.obs.banks k (if k ≥ 0x10000 then { Bank.zero with epoch := s.obs.epochSh } else Bank.zero)

/-- Adds to a word of an engine's RUN bank, saturating (Table 18.3). Words: 0 BUSY, 3 to 6 EV0 to EV3 (R469). -/
def count (s : State) (k word n : Nat) : State :=
  let b := s.bank k
  { s with obs := { s.obs with banks := fset s.obs.banks k { b with run := fadd b.run word n (2 ^ 48 - 1) } } }

/-- A swap of one instance (R471). -/
def swapBank (b : Bank) : Bank := { epoch := b.epoch + 1, run := [], last := b.run }

/-- The four core engines of a core swap together (R471). -/
def swapCore (s : State) (c : Nat) : State :=
  [0, 1, 2, 3].foldl (fun t k =>
    { t with obs := { t.obs with banks := fset t.obs.banks (coreBank c k) (swapBank (t.bank (coreBank c k))) } }) s

/-- The keys of the shared engines that have counted, and those that have not count nothing to swap but an epoch, which
is EPOCH_SH; so only listed banks are stored. -/
def swapShared (s : State) : State :=
  let banks := s.obs.banks.map fun e => if e.1 ≥ 0x10000 then (e.1, swapBank e.2) else e
  { s with obs := { s.obs with banks := banks, epochSh := (s.obs.epochSh + 1) % 2 ^ 32 } }

/-- The class counters of every half restart with the shared epoch (R186, R474). DEDUCED, log 51. -/
def clearClasses (s : State) : State :=
  { s with dict := { s.dict with od := s.dict.od.filter fun e =>
      !(decide (0x830000 ≤ e.1) && decide (e.1 < 0x830800)) } }

/-- The counters of a bay's domains restart at 0 with epoch 0, and the class counters of its halves at 0: the domains have been reset or
turned on (R473). -/
def resetBanks (s : State) (n : Nat) : State :=
  let mine := fun (k : Nat) => decide (k < 0x10000) && decide (k / 4 / 3072 = n)
  let shared := (List.range 32).map (fun i => sliceBank (32 * n + i)) ++ (List.range 8).map (ctrlBank n)
  let half := fun (k : Nat) => decide (0x830000 ≤ k) && decide (k < 0x830800) && decide ((k / 256 - 0x8300) / 2 = n)
  { s with obs := { s.obs with banks := shared.foldl (fun m k => fset m k Bank.zero) (s.obs.banks.filter fun e => !mine e.1) },
           dict := { s.dict with od := s.dict.od.filter fun e => !half e.1 } }

/-- A shared epoch tick (R471). DEDUCED, log 51. -/
def epochTick (s : State) : State := clearClasses (swapShared s)

/-- Counts one lookup in a half (R187): a class of 0 to 3 and the software tag; a hit, and whether it joined a register. -/
def classCount (s : State) (half cls tag : Nat) (hit joined : Bool) : State :=
  let one := fun (t : State) (c : Nat) =>
    let t1 := odAdd t (0x8300 + half) (1 + 3 * c) 1
    let t2 := if hit then odAdd t1 (0x8300 + half) (2 + 3 * c) 1 else t1
    if joined then odAdd t2 (0x8300 + half) (3 + 3 * c) 1 else t2
  one (one s cls) (4 + tag)

/-! ## The fault log -/

/-- Adds one entry (R443); the oldest beyond 4,096 is overwritten (R444). -/
def logEvent (s : State) (event unit addr detail : Nat) : State :=
  let e : FlogEnt :=
    { time := s.mod.time, seq := s.flog.count % 2 ^ 32, event := event, unit := unit,
      addr := BitVec.ofNat 64 addr, detail := BitVec.ofNat 32 detail }
  { s with flog := { s.flog with entries := (e :: s.flog.entries).take 4096, count := s.flog.count + 1 } }

/-- Writes a reset record, newest first (R417); causes 1 to 3 and 8 carry time 0. Classes: bit 0 P, 1 S, 2 V, 3 T. DESIGN CHOICE, log 71. -/
def recordReset (s : State) (cause who classes : Nat) : State :=
  let timed := 4 ≤ cause ∧ cause ≠ 8
  let r : ResetRec := { time := if timed then s.mod.time else 0#64, cause := cause, who := who, classes := BitVec.ofNat 4 classes }
  { s with dict := { s.dict with resets := (r :: s.dict.resets).take 16 } }

/-- Bit 31 of DETAIL: the event changed a signed record that cannot be written (R431, R443). While the key is being derived the
write waits; if the key turns out unavailable, IDENTITY_DERIVED sets the bit. DEDUCED, log 63. -/
def flashBit (s : State) : Nat := if s.trust.keyAvailable || !s.trust.keyDerived then 0 else 2 ^ 31

/-- Bays that are retired. -/
def retiredBays (s : State) : List Nat := (List.range 4).filter fun n => (s.bay n).st == .retired

/-- Writes the spare-map record where it can be signed (R431, R453). -/
def writeSpareMap (s : State) : State :=
  if s.trust.keyAvailable then
    { s with flash := { s.flash with spare :=
        { groves := s.groves, dead := s.deadGroves, out := s.mem.mappedOut, retired := retiredBays s, setOut := s.mem.setOut,
          moves := s.mem.mapouts.map fun m => { m with moved := [], done := true }, seq := s.flash.spare.seq + 1 } } }
  else s

/-- ALERT_N is driven low while entries are not acknowledged and throughout a held start (R444). DESIGN CHOICE, log 14. -/
def alertAsserted (s : State) : Bool := decide (s.flog.ack.toNat < s.flog.count) || s.mod.phase == .held

/-- The dictionary generation advances (R415). -/
def bumpGeneration (s : State) : State := { s with dict := { s.dict with generation := s.dict.generation + 1 } }

/-- May a function originate traffic: Bus Master Enable in its home view, and VF Enable covering it (R325)? -/
def mayOriginate (s : State) (f : Nat) : Bool :=
  let p := homePort s f
  ((s.fn f).busMaster[p]?).getD false &&
    (decide (f = 0) || ((s.port p).vfEnable && decide (f ≤ (s.port p).numVfs)))

/-- Is the home port's link up and, where IDE is required, secure (R341, R342)? -/
def portOpen (s : State) (p : Nat) : Bool :=
  (s.port p).up && (odNat s 0x6001 (9 + p) == 0 || (s.port p).secure)

/-- Sends a message on a function's MSI-X vector, or leaves it waiting at the port (R325, R342). DESIGN CHOICE, log 45. -/
def sendMsi (s : State) (f vec : Nat) : State :=
  let p := homePort s f
  if mayOriginate s f && portOpen s p then s.emit (.msix f vec p)
  else
    let x := s.port p
    s.setPort p { x with msgs := x.msgs ++ [(f, vec)] }

def raiseErr (s : State) (f bit : Nat) : State :=
  let x := s.fn f
  if x.err.getLsbD bit then s
  else sendMsi (s.setFn f { x with err := x.err ||| BitVec.ofNat 5 (2 ^ bit) }) f x.fvec

end Sys2Proof.Machine
end

