-- ==== Sys2Proof/Machine/Home.lean ====
section
/-! DEFINITION. The home slice: DRAM sectors and poison, the LLC's lines, near copies, miss registers and held requests
(chapters 06 and 07), and the directory's transitions, recalls and evictions (chapter 08). -/

namespace Sys2Proof.Machine

/-! ## DRAM -/

/-- The band (channel × 768 + band) of a line (R188). -/
def lineBand (s : State) (line : Nat) : Nat :=
  let p := servingSlot s line
  p.1 * 768 + p.2 / 1024

/-- The bytes that DRAM holds, the mirror copies among them (R215). -/
def dramByte (s : State) (pa : Nat) : Byte :=
  match mirrorOf s (pa / 1024) with
  | some x => mget s.mem.mirror (1024 * x + pa % 1024)
  | none => mget s.mem.dram pa

/-- Does DRAM deliver a sector poisoned: it holds the marker, or lies in a poisoned band uncovered (R197, R241)? -/
def dramPoisoned (s : State) (line i : Nat) : Bool :=
  match mirrorOf s line with
  | some x => s.mem.mirrorPois.contains (4 * x + i)
  | none => s.mem.dramPois.contains (4 * line + i) ||
    (!s.mem.poisBands.isEmpty && s.mem.poisBands.contains (lineBand s line) && !s.mem.covered.contains (4 * line + i))

/-- A whole sector has been written to DRAM, with the marker or without. -/
def markDram (s : State) (line i : Nat) (pois : Bool) : State :=
  let k := 4 * line + i
  let m := s.mem
  let dp := if pois then insAsc m.dramPois k else m.dramPois.filter (· != k)
  let cv := if !m.poisBands.isEmpty && m.poisBands.contains (lineBand s line) then insAsc m.covered k else m.covered
  { s with mem := { m with dramPois := dp, covered := cv } }

/-- A channel transfers n sectors: word 3 of its controller's counters counts reads, word 4 writes (Table 18.1). -/
def chanUse (s : State) (ch word n : Nat) : State :=
  if bayUp s (chanBay ch) then
    let k := ctrlBank (chanBay ch) (chanStack ch)
    count (count s k word n) k 0 n
  else s

/-- The parity work of n dirty sectors written to one channel: by delta, or, in a stripe that has lost a member, from its surviving
data sectors (R206, R208, Table 07.4). -/
def parityWork (s : State) (ch n : Nat) : State :=
  let mode := parityMode s
  let out := s.mem.mappedOut
  match parityChan mode out ch with
  | none => s
  | some pc =>
    if pc = ch then s
    else
      let whole := (stripeMembers mode ch).all fun m => !out.contains m && bayUp s (chanBay m)
      let read := if whole then [ch, pc]
        else (stripeMembers mode ch).filter fun m => !out.contains m && m != ch && m != pc
      chanUse (read.foldl (fun t m => chanUse t m 3 n) s) pc 4 n

/-- Sectors of a line have been written to DRAM: the transfers, the parity work unless a stripe buffer does it, and the band that a
substitute home records (R206, R210). -/
def dramWritten (s : State) (line n : Nat) (buffered : Bool) : State :=
  let p := servingSlot s line
  let s1 := chanUse s p.1 4 n
  let s2 := if buffered then s1 else parityWork s1 p.1 n
  let b := chanBay p.1
  if (fget s2.mem.subst b).isSome then s2.setBay b { s2.bay b with bands := insAsc (s2.bay b).bands (p.1 * 768 + p.2 / 1024) } else s2

/-! ## Lines and near copies -/

def Line.secAt (e : Line) (i : Nat) : SecSt := (e.sec[i]?).getD .invalid
def Line.setSec (e : Line) (i : Nat) (x : SecSt) : Line := { e with sec := e.sec.set i x }
def Line.hasDirty (e : Line) : Bool := e.sec.any (· == .dirty)
/-- Is the line in M with an owner outside the home side (R222)? -/
def Line.extOwned (e : Line) : Bool := e.st == .m && decide (8 ≤ e.own) && decide (e.own ≤ 10)
/-- Does the host, N0 or N1 hold a copy? -/
def Line.hasExt (e : Line) : Bool := e.extOwned || e.hsec != 0#4 || e.pres.getLsbD 9 || e.pres.getLsbD 10
/-- The state of Table 08.3 that the copies and the sectors of a line give it, where no external agent owns it. -/
def Line.settled (e : Line) : Line :=
  if e.extOwned then e
  else
    let st := if e.pres &&& 0x700#12 ≠ 0#12 then .f
      else if e.pres = 0#12 then (if e.hasDirty then .m else .e)
      else if e.hasDirty then .o else .s
    { e with st := st, own := e.slice / 16 }
/-- Has the host, N0 or N1 no copy left of it (R219)? -/
def Line.bare (e : Line) : Bool := !e.extOwned && e.pres &&& 0x700#12 == 0#12

def State.line? (s : State) (l : Nat) : Option Line := fget s.mem.lines l
def State.setLine (s : State) (l : Nat) (e : Line) : State := { s with mem := { s.mem with lines := fset s.mem.lines l e } }
def State.dropLine (s : State) (l : Nat) : State := { s with mem := { s.mem with lines := fdel s.mem.lines l } }

/-- A fresh entry in state I (Table 08.2). -/
def Line.fresh (slice way stamp : Nat) (ovf : Bool) : Line :=
  { slice := slice, way := way, st := .i, own := slice / 16, pres := 0#12, hsec := 0#4,
    sec := [.invalid, .invalid, .invalid, .invalid], pois := 0#4, pin := none, stamp := stamp, ovf := ovf }

/-- One bit of a small mask. -/
def bitN (w i : Nat) : BitVec w := BitVec.ofNat w (2 ^ i)

/-- The byte the home serves: the DIRTY copy's, or DRAM's (Table 08.3). DEDUCED, log 87. -/
def homeByte (s : State) (pa : Nat) : Byte :=
  match s.line? (pa / 1024) with
  | some e => if e.secAt (pa / 256 % 4) = .dirty then mget s.mem.llc pa else dramByte s pa
  | none => dramByte s pa

/-- Is a sector poisoned as the home serves it (R159)? -/
def homePoisoned (s : State) (line i : Nat) : Bool :=
  match s.line? line with
  | some e => if e.secAt i = .invalid then dramPoisoned s line i else e.pois.getLsbD i
  | none => dramPoisoned s line i

/-- Sectors that [pa, pa+len) touches in a line. -/
def sectorsOf (line pa len : Nat) : BitVec 4 :=
  (List.range 4).foldl (fun m i => if overlap (1024 * line + 256 * i) 256 pa len then m ||| bitN 4 i else m) 0#4

/-- The bytes of a range as the home serves them, and whether a touched sector is poisoned. -/
def homeRead (s : State) (pa len : Nat) : List Byte × Bool :=
  ((List.range len).map fun k => homeByte s (pa + k),
   (List.range ((pa + len + 255) / 256 - pa / 256)).any fun k =>
     homePoisoned s ((pa / 256 + k) / 4) ((pa / 256 + k) % 4) && decide (0 < len))

/-- Writes a DIRTY sector back (Table 06.2); it becomes CLEAN. -/
def writeBackSector (s : State) (line i : Nat) (buffered : Bool) : State :=
  match s.line? line with
  | none => s
  | some e =>
    if e.secAt i = .dirty then
      let a := 1024 * line + 256 * i
      let m := s.mem
      let s1 := { s with mem := { m with dram := mwrite m.dram a (mread m.llc a 256), llc := mzero m.llc a 256 } }
      dramWritten (markDram (s1.setLine line (e.setSec i .clean)) line i (e.pois.getLsbD i)) line 1 buffered
    else s

/-- A full-line write of a row opens a stripe buffer at the parity channel, which keeps 16 of them, or joins the one open (R206); when
all data members are in, the parity is written from the new data alone. The second value says that a buffer took the line. -/
def noteStripe (s : State) (line : Nat) : State × Bool :=
  let mode := parityMode s
  let (ch, row) := servingSlot s line
  match parityChan mode s.mem.mappedOut ch with
  | none => (s, false)
  | some pc =>
    let members := ((stripeMembers mode ch).filter fun m => !s.mem.mappedOut.contains m && m != pc).length
    match s.mem.stripes.find? (fun b => b.channel == pc && b.row == row) with
    | some b =>
      let lines := insAsc b.lines ch
      let rest := s.mem.stripes.filter fun x => !(x.channel == pc && x.row == row)
      let m := s.mem
      if members ≤ lines.length then (chanUse { s with mem := { m with stripes := rest } } pc 4 4, true)
      else ({ s with mem := { m with stripes := { b with lines := lines } :: rest } }, true)
    | none =>
      if (s.mem.stripes.filter fun b => b.channel == pc).length < 16 then
        ({ s with mem := { s.mem with stripes := { channel := pc, row := row, opened := s.now, lines := [ch] } :: s.mem.stripes } }, true)
      else (s, false)

/-- Is every sector of a line DIRTY? -/
def wholeDirty (s : State) (line : Nat) : Bool :=
  match s.line? line with
  | some e => e.sec.all (· == .dirty)
  | none => false

def writeBack (s : State) (line : Nat) : State :=
  let (s1, buffered) := if wholeDirty s line then noteStripe s line else (s, false)
  [0, 1, 2, 3].foldl (fun t i => writeBackSector t line i buffered) s1

/-- Merges bytes of one sector into the home copy of an allocated line. -/
def mergeSector (s : State) (line i pa : Nat) (bs : List Byte) (pois : Bool) : State :=
  match s.line? line with
  | none => s
  | some e =>
    let a := 1024 * line + 256 * i
    let whole := decide (pa = a) && decide (bs.length = 256)
    let m := s.mem
    let llc := if whole ∨ e.secAt i = .dirty then m.llc else mwrite m.llc a (mread m.dram a 256)
    let old := !whole && homePoisoned s line i
    let e1 := e.setSec i .dirty
    let p := if old || pois then e.pois ||| bitN 4 i else e.pois &&& ~~~(bitN 4 i)
    (s.setMem { m with llc := mwrite llc pa bs }).setLine line { e1 with pois := p }

/-- Writes bytes of one sector straight to DRAM, for a line with no way (R173, R219). -/
def dramSector (s : State) (line i pa : Nat) (bs : List Byte) (pois : Bool) : State :=
  let whole := decide (pa = 1024 * line + 256 * i) && decide (bs.length = 256)
  let old := !whole && dramPoisoned s line i
  let s1 := { s with mem := { s.mem with dram := mwrite s.mem.dram pa bs } }
  dramWritten (if whole || pois || old then markDram s1 line i (pois || old) else s1) line 1 false

/-- Sectors that the lanes of one write cover between them take its data: what was poisoned is so no longer (Table 06.2). -/
def coverSectors (s : State) (line : Nat) (m : BitVec 4) : State :=
  [0, 1, 2, 3].foldl (fun t i =>
    if m.getLsbD i then
      match t.line? line with
      | some e =>
        if e.ovf then markDram t line i false
        else
          let e1 := e.setSec i .dirty
          t.setLine line { e1 with pois := e.pois &&& ~~~(bitN 4 i) }
      | none => markDram t line i false
    else t) s

/-- Is the line's home copy a way of its slice? -/
def allocated (s : State) (line : Nat) : Bool :=
  match s.line? line with
  | some e => !e.ovf
  | none => false

/-- Takes the next recency stamp. -/
def nextStamp (s : State) : State := { s with mem := { s.mem with stamp := s.mem.stamp + 1 } }

/-- Stores bytes that lie in one line at its home. -/
def homeStore (s : State) (pa : Nat) (bs : List Byte) (pois : Bool) : State :=
  let line := pa / 1024
  let f := if allocated s line then mergeSector else dramSector
  [0, 1, 2, 3].foldl (fun t i =>
    let a := 1024 * line + 256 * i
    if overlap a 256 pa bs.length then
      let lo := max a pa
      let hi := min (a + 256) (pa + bs.length)
      f t line i lo ((bs.drop (lo - pa)).take (hi - lo)) pois
    else t) s

/-- Writes a line's DIRTY sectors back; it keeps its copies. -/
def cleanLine (s : State) (line : Nat) : State :=
  let s1 := writeBack s line
  match s1.line? line with
  | some e => s1.setLine line e.settled
  | none => s1

/-! ## Ways and victims -/

/-- The partition that holds a scratch unit (R175). -/
def unitOwner (s : State) (u : Nat) : Option Nat := (s.fns.find? fun e => e.2.units.contains u).map (·.1)

/-- The way of a slice that carves its scratch unit of layer 15 - w (R174). -/
def wayCarved (s : State) (n w : Nat) : Bool :=
  decide (12 ≤ w) && (unitOwner s (64 * (15 - w) + 8 * (n % 16 / 2) + n / 16)).isSome

def wayTaken (s : State) (n set w : Nat) : Bool :=
  (s.mem.lines.any fun e => e.2.slice == n && !e.2.ovf && e.2.way == w && lineSet e.1 == set) ||
  (s.mem.near.any fun x => 16 * x.half + x.slice == n && x.set == set && x.way == w)

def freeWay (s : State) (n set : Nat) : Option Nat :=
  (List.range 16).find? fun w => !wayCarved s n w && !wayTaken s n set w

/-- Is a way of a set pinned? -/
def wayPinned (s : State) (n set w : Nat) : Bool :=
  s.mem.lines.any fun e => e.2.slice == n && !e.2.ovf && e.2.pin.isSome && e.2.way == w && lineSet e.1 == set

def pinnedIn (s : State) (n set : Nat) : Nat :=
  (s.mem.lines.filter fun e => e.2.slice == n && !e.2.ovf && e.2.pin.isSome && lineSet e.1 == set).length

/-- Has a set no sapwood way: every way pinned or carved (R173)? -/
def noSapwood (s : State) (n set : Nat) : Bool :=
  (List.range 16).all fun w => wayCarved s n w || wayPinned s n set w

def missOf (s : State) (line : Nat) : Option MissReg := s.mem.miss.find? fun m => m.line == line

def freeMiss (s : State) (n : Nat) : Bool := decide ((s.mem.miss.filter fun m => m.slice == n).length < 64)

/-- Does a waiting request stand for a near copy of a line? -/
def nearWaits (line : Nat) (r : HomeReq) : Bool :=
  match r.kind with
  | .nc _ _ => r.pa / 1024 == line
  | _ => false

/-- Removes every near copy of a line, those that wait for a way too (R166). -/
def dropNear (s : State) (line : Nat) : State :=
  let m := s.mem
  { s with mem := { m with near := m.near.filter fun x => x.line != line,
                           held := m.held.filter fun r => !nearWaits line r,
                           miss := m.miss.map fun x => { x with waiters := x.waiters.filter fun r => !nearWaits line r } } }

/-- Evicts one near copy and tells its home (R166, R221). -/
def evictNear (s : State) (x : Near) : State :=
  let s1 := { s with mem := { s.mem with near := s.mem.near.filter fun y => !(y.line == x.line && y.half == x.half) } }
  match s1.line? x.line with
  | none => s1
  | some e =>
    s1.setLine x.line { e with pres := e.pres &&& ~~~(bitN 12 x.half) }.settled

/-- Evicts a home line that no external agent holds (R238). -/
def evictLine (s : State) (line : Nat) : State := ((writeBack (dropNear s line) line)).dropLine line

/-- A victim of a set: a home line or a near copy, with its recency. -/
inductive Victim where
  | line (l : Nat)
  | near (x : Near)

/-- The candidates of R170: unpinned lines without an open register, and near copies. -/
def victims (s : State) (n set : Nat) : List (Nat × Bool × Victim) :=
  (s.mem.lines.filterMap fun e =>
    if e.2.slice == n && !e.2.ovf && e.2.pin.isNone && lineSet e.1 == set && (missOf s e.1).isNone
    then some (e.2.stamp, e.2.sec.all (· == .invalid), Victim.line e.1) else none) ++
  (s.mem.near.filterMap fun x =>
    if 16 * x.half + x.slice == n && x.set == set then some (x.stamp, false, Victim.near x) else none)

/-- The least recent of a list of candidates. -/
def oldest : List (Nat × Bool × Victim) → Option (Nat × Bool × Victim)
  | [] => none
  | a :: r =>
    match oldest r with
    | none => some a
    | some b => if a.1 ≤ b.1 then some a else some b

/-- R170's choice: a way whose sectors are all INVALID first, then the least recently used. -/
def chooseVictim (s : State) (n set : Nat) : Option Victim :=
  let vs := victims s n set
  match oldest (vs.filter fun v => v.2.1) with
  | some v => some v.2.2
  | none => (oldest vs).map (·.2.2)

/-- What an allocation finds. -/
inductive Room where
  | way (w : Nat) (s : State)
  | recall (line : Nat)
  | hold

def makeRoom (s : State) (n set : Nat) : Room :=
  match freeWay s n set with
  | some w => .way w s
  | none =>
    match chooseVictim s n set with
    | none => .hold
    | some (.near x) => .way x.way (evictNear s x)
    | some (.line l) =>
      match s.line? l with
      | none => .hold
      | some e => if e.hasExt then .recall l else .way e.way (evictLine s l)

/-! ## Word operations at the place a word lives -/

/-- The new value of a word under ATOM function fn (Table 03.13). -/
def atomNew (fn size old opnd cmp : Nat) : Nat :=
  let n := 8 * size
  let so := signedOf n old
  let sb := signedOf n opnd
  match fn with
  | 0 => (old + opnd) % 2 ^ n
  | 1 => if so ≤ sb then old else opnd
  | 2 => if sb ≤ so then old else opnd
  | 3 => min old opnd
  | 4 => max old opnd
  | 5 => old &&& opnd
  | 6 => old ||| opnd
  | 7 => old ^^^ opnd
  | 8 => opnd
  | 9 => if old = cmp then opnd else old
  | _ => f32Add 0 old opnd

/-- The new value of a 4 B word under ACW function fn (R183). -/
def acwNew (fn old opnd : Nat) : Nat :=
  match fn with
  | 0 => f32Add 0 old opnd
  | 1 => bf16Add (old % 65536) (opnd % 65536) + 65536 * bf16Add (old / 65536) (opnd / 65536)
  | 2 => (old + opnd) % 2 ^ 32
  | 3 => f32Max old opnd
  | _ => if signedOf 32 opnd ≤ signedOf 32 old then old else opnd

/-- Operation codes of a request: 0 store, 1 + fn an atomic, 32 + fn an accumulating write. The bytes to store, from the
bytes that stand there. An accumulating write acts on each 4 B word (R281). -/
def opBytes (op : Nat) (old data cmp : List Byte) : List Byte :=
  if op = 0 then data
  else if op < 32 then leBytes data.length (atomNew (op - 1) data.length (leNat old) (leNat data) (leNat cmp))
  else (List.range (data.length / 4)).flatMap fun k =>
    leBytes 4 (acwNew (op - 32) (leNat (sliceD old (4 * k) 4 0#8)) (leNat (sliceD data (4 * k) 4 0#8)))

/-! ## Sleeping and unavailable homes -/

/-- The state of the bay that a request needs: it answers, the request waits for it (asleep, draining or handing back, R239,
R243, R383), or its homes are unavailable. -/
inductive HomeSt where
  | up
  | asleep
  | gone
  deriving DecidableEq, Repr

def bayAnswers (s : State) (b : Nat) : HomeSt :=
  if (s.bay b).draining then .asleep
  else match (s.bay b).st with
  | .running => .up
  | .asleep => .asleep
  | _ => .gone

/-- The same for a line: while its bay hands its lines back, a request waits at the joint (R243). -/
def lineAnswers (s : State) (line : Nat) : HomeSt :=
  if (s.bay (chanBay (servingSlot s line).1)).st = .returning then .asleep else bayAnswers s (sliceBay (homeSlice s line))

/-- The same for the core stores and the scratch units of a bay: they are lost from the start of its reset (R178, R456). -/
def storeAnswers (s : State) (b : Nat) : HomeSt :=
  match (s.bay b).st with
  | .running => if (s.bay b).draining then .asleep else .up
  | .asleep => .asleep
  | _ => .gone

/-- Do the slices of a bay work: it runs, or drains before it fences (R239)? -/
def slicesWork (s : State) (b : Nat) : Bool :=
  (s.bay b).st == .running || ((s.bay b).st == .resetting && (s.bay b).draining)

/-! ## Core stores and scratch -/

/-- 4 B words that a byte range touches. -/
def wordsOf (pa len : Nat) : List Nat := if len = 0 then [] else List.range' (pa / 4) ((pa + len + 3) / 4 - pa / 4)

/-- DESIGN CHOICE, log 46. -/
def wordsPoisoned (s : State) (pa len : Nat) : Bool := (wordsOf pa len).any s.mem.wordPois.contains

/-- A write over a range of 4 B words: a poisoned one poisons what it touches, a whole word written clears its poison
(R446). -/
def markWords (s : State) (pa len : Nat) (pois : Bool) : State :=
  let ws := wordsOf pa len
  let l := if pois then ws.foldl insAsc s.mem.wordPois
    else s.mem.wordPois.filter fun w => !(ws.contains w && decide (pa ≤ 4 * w) && decide (4 * w + 4 ≤ pa + len))
  { s with mem := { s.mem with wordPois := l } }

/-- Bytes of the core stores and whether a touched word is poisoned. -/
def storeRead (s : State) (pa len : Nat) : List Byte × Bool := (mread s.mem.store pa len, wordsPoisoned s pa len)

def storeWrite (s : State) (pa : Nat) (b : List Byte) (pois : Bool) : State :=
  markWords { s with mem := { s.mem with store := mwrite s.mem.store pa b } } pa b.length pois

/-- The same for LLC scratch (R178). -/
def scratchRead (s : State) (pa len : Nat) : List Byte × Bool := (mread s.mem.scratch pa len, wordsPoisoned s pa len)

def scratchWrite (s : State) (pa : Nat) (b : List Byte) (pois : Bool) : State :=
  markWords { s with mem := { s.mem with scratch := mwrite s.mem.scratch pa b } } pa b.length pois

/-- The same for host memory as the device last saw it; it carries no poison of the device's own. -/
def hostRead (s : State) (pa len : Nat) : List Byte × Bool := (mread s.mem.host pa len, false)

def hostWrite (s : State) (pa : Nat) (b : List Byte) (_pois : Bool) : State :=
  { s with mem := { s.mem with host := mwrite s.mem.host pa b } }

/-- The bay that answers for a device address: of its home slice, its scratch slice, or its core. -/
def placeBay (s : State) (pa : Nat) : Option Nat :=
  match regionOf pa with
  | .dram => some (sliceBay (homeSlice s (pa / 1024)))
  | .scratch => some (sliceBay (scratchSlice pa))
  | .store => some (groveEnt s (coreGrove (storeCore pa))).bay
  | _ => none

/-- Does the place of an address answer (R241, R243, R383, R456)? -/
def placeAnswers (s : State) (pa : Nat) : HomeSt :=
  match regionOf pa with
  | .dram => lineAnswers s (pa / 1024)
  | .scratch => storeAnswers s (sliceBay (scratchSlice pa))
  | .store => if coreUsed s (storeCore pa) then storeAnswers s (groveEnt s (coreGrove (storeCore pa))).bay else .gone
  | _ => .up

/-- Is the place of an address lost, so that what is read of it is poison (R241, R456)? -/
def placeGone (s : State) (pa : Nat) : Bool := placeAnswers s pa == .gone

/-- Bytes as the place they live serves them, and whether a touched one is poisoned. -/
def placeRead (s : State) (pa len : Nat) : List Byte × Bool :=
  if placeGone s pa then (List.replicate len 0#8, true)
  else match regionOf pa with
    | .dram => homeRead s pa len
    | .scratch => scratchRead s pa len
    | .store => storeRead s pa len
    | _ => hostRead s pa len

/-! ## Requests in flight -/

def findReq (s : State) (id : Nat) : Option Req := s.mem.reqs.find? fun r => r.id == id

def setReq (s : State) (r : Req) : State :=
  { s with mem := { s.mem with reqs := s.mem.reqs.map fun x => if x.id == r.id then r else x } }

def dropReq (s : State) (id : Nat) : State :=
  { s with mem := { s.mem with reqs := s.mem.reqs.filter fun x => x.id != id } }

/-- Adds a request, whose packets leave on the routes in force (R33), and answers its id. -/
def addReq (s : State) (r : Req) : Nat × State :=
  let id := s.mem.nextReq
  (id, { s with mem := { s.mem with reqs := s.mem.reqs ++ [routeLanes s { r with id := id }], nextReq := id + 1 } })

/-- Does a kind of request only read? -/
def ReqKind.reads : ReqKind → Bool
  | .load _ => true
  | .pref _ => true
  | .read => true
  | .dread => true
  | _ => false

/-- The operation code of a kind. -/
def ReqKind.opCode : ReqKind → Nat
  | .atom fn => fn + 1
  | .acw fn => fn + 32
  | _ => 0

/-- A request moves to `served` when every lane is done. -/
def settleReq (r : Req) : Req := if r.lanes.all (·.done) then { r with phase := .served } else r

def isAtom : ReqKind → Bool
  | .atom _ => true
  | _ => false

/-- Will an atomic fault on poison in some lane, so that no lane has an effect (R76, R77, R446)? -/
def atomStopped (s : State) (k : ReqKind) (ls : List LaneAcc) : Bool :=
  isAtom k && ls.any fun l => if l.done then l.pois else (placeRead s l.pa l.data.length).2

/-- Answers or applies one lane at the place its bytes live, by that place's read and store. -/
def laneAct (rd : State → Nat → Nat → List Byte × Bool) (wr : State → Nat → List Byte → Bool → State)
    (k : ReqKind) (sl : State × LaneAcc) : State × LaneAcc :=
  let (s, l) := sl
  if k.reads then
    let (b, p) := rd s l.pa l.data.length
    (s, { l with got := some b, pois := p, done := true })
  else
    let (old, p) := rd s l.pa l.data.length
    let op := k.opCode
    let isAtom := decide (0 < op) && decide (op < 32)
    let s1 := wr s l.pa (opBytes op old l.data l.cmp) (l.pois || (op != 0 && p))
    (s1, { l with got := if isAtom then some old else none, pois := if isAtom then p else l.pois, done := true })

/-- Acts on the lanes of a request that satisfy a test, in ascending lane order (R70, R93). -/
def actLanes (rd : State → Nat → Nat → List Byte × Bool) (wr : State → Nat → List Byte → Bool → State) (k : ReqKind)
    (p : LaneAcc → Bool) : State → List LaneAcc → State × List LaneAcc
  | s, [] => (s, [])
  | s, l :: ls =>
    if p l && !l.done then
      let (s1, l1) := laneAct rd wr k (s, l)
      let (s2, ls2) := actLanes rd wr k p s1 ls
      (s2, l1 :: ls2)
    else
      let (s2, ls2) := actLanes rd wr k p s ls
      (s2, l :: ls2)

/-- Does a request's reply fill the L1: a .RLX load that nothing has kept out since (R71, R249)? -/
def fillsL1 (r : Req) : Bool :=
  !r.acq && !r.noFill && (match r.kind with
    | .load _ => true
    | _ => false)

/-- May the L1 hold an address: DRAM and LLC scratch (R71)? -/
def cacheable (pa : Nat) : Bool := regionOf pa == .dram || regionOf pa == .scratch

/-- The 64 B blocks that the reply for some lanes carries, each 4 B word with its poison. -/
def fillBlocks (rd : State → Nat → Nat → List Byte × Bool) (s : State) (ls : List LaneAcc) : List L1Line :=
  ((ls.filter fun l => cacheable l.pa).foldl (fun acc l => addNew acc (l.pa / 64)) []).map fun b =>
    { block := b, bytes := (rd s (64 * b) 64).1,
      pois := (List.range 16).foldl (fun m k => if (rd s (64 * b + 4 * k) 4).2 then m ||| bitN 16 k else m) 0#16 }

/-- Serves the lanes of request `id` that satisfy a test. DEDUCED, log 19. -/
def serveLanes (rd : State → Nat → Nat → List Byte × Bool) (wr : State → Nat → List Byte → Bool → State) (s : State)
    (id : Nat) (p : LaneAcc → Bool) : State :=
  match findReq s id with
  | none => s
  | some r =>
    let (s1, ls) := actLanes rd (if atomStopped s r.kind r.lanes then fun t _ _ _ => t else wr) r.kind p s r.lanes
    let fills := if fillsL1 r then fillBlocks rd s (r.lanes.filter fun l => p l && !l.done) else []
    setReq s1 (settleReq { r with lanes := ls, fills := r.fills ++ fills })

/-- Ends the lanes that satisfy a test with an error: reads are poisoned, writes discarded (R241). -/
def failLanes (s : State) (id : Nat) (p : LaneAcc → Bool) : State :=
  match findReq s id with
  | none => s
  | some r =>
    let f := fun (l : LaneAcc) =>
      if p l && !l.done then
        { l with got := some (List.replicate l.data.length 0#8), pois := true, sent := true, done := true, err := true }
      else l
    setReq s (settleReq { r with lanes := r.lanes.map f })

/-! ## Order from one source to one destination (R257) -/

/-- The source endpoint of an agent. -/
def reqSource : Agent → Nat
  | .core c _ => c
  | .bar p _ => 100000 + p
  | .cxl p => 100000 + p
  | .rafter n => 100010 + n
  | .session n => 200000 + n
  | .dma _ => 100020
  | .framer => 100021
  | .dbg => 100022

/-- The destination endpoint of an address. -/
def laneDest (s : State) (pa : Nat) : Nat :=
  match regionOf pa with
  | .dram => homeSlice s (pa / 1024)
  | .scratch => scratchSlice pa
  | .store => 1000 + storeCore pa
  | .chute => 20000 + chuteOf pa
  | .ctl => 30000
  | .host => 30001
  | .peer => 30002
  | .unmapped => 30003

/-- Has every message that an agent sent before request number n to the destination of an address arrived? A read that was merged counts
until it has its reply. DEDUCED, log 19. -/
def orderOf (s : State) (a : Agent) (n pa : Nat) : Bool :=
  !(s.mem.reqs.any fun q => decide (q.id < n) && reqSource q.agent == reqSource a &&
      q.lanes.any fun x => !x.done && !x.sent && laneDest s x.pa == laneDest s pa)

/-- Does a packet wait at an edge router: a tenon that it crosses retrains, or its joint is under test (R349, R358)? DEDUCED, log 19. -/
def routeHeld (s : State) (route : List Nat) : Bool :=
  (s.test.running || s.tenons.any fun t => t.2.train) &&
    route.any fun k => (s.tenon k).train || (s.test.running && s.test.joint == k / 16)

/-- May a message that an agent sends now reach an address: in order, and over tenons that carry traffic (R257, R349)? DEDUCED, log 19. -/
def turnOf (s : State) (a : Agent) (n pa : Nat) : Bool := orderOf s a n pa && !routeHeld s (laneRoute s a 4096 pa)

/-- May the lanes of a request at an address act? DEDUCED, log 19. -/
def inTurn (s : State) (r : Req) (pa : Nat) : Bool :=
  orderOf s r.agent r.id pa && !(r.lanes.any fun l => l.pa == pa && !l.done && routeHeld s l.route)

/-! ## The directory -/

/-- The bytes that a request without lanes names; MemInv asks for no data, and takes a 64 B line all the same. DEDUCED, log 88. -/
def namedLen (r : HomeReq) : Nat :=
  match r.kind with
  | .ha _ => max 64 r.len
  | _ => r.len

/-- The ranges (address, length) a request names in its line. -/
def namedRanges (s : State) (r : HomeReq) : List (Nat × Nat) :=
  if r.req = 0 then [(r.pa, namedLen r)]
  else match findReq s r.req with
    | none => []
    | some q => (q.lanes.filter fun l => l.pa / 1024 == r.pa / 1024 && !l.done).map fun l => (l.pa, l.data.length)

/-- DEDUCED, log 88. -/
def namedSectors (s : State) (r : HomeReq) : BitVec 4 :=
  (namedRanges s r).foldl (fun m x => m ||| sectorsOf (r.pa / 1024) x.1 x.2) 0#4

/-- Sectors that a plain write covers whole (Table 06.2). -/
def coveredSectors (s : State) (r : HomeReq) : BitVec 4 :=
  let rs := namedRanges s r
  let plain := if r.req = 0 then r.op == 0 else match findReq s r.req with
    | some q => q.kind.opCode == 0
    | none => false
  if !plain || decide (rs.foldl (fun n x => n + x.2) 0 < 256) then 0#4
  else (List.range 4).foldl (fun m i =>
    let a := 1024 * (r.pa / 1024) + 256 * i
    if (List.range 256).all fun k => rs.any fun x => decide (x.1 ≤ a + k) && decide (a + k < x.1 + x.2)
    then m ||| bitN 4 i else m) 0#4

/-- Does the request come from the owner of an external M line? A host write does where the host owns the sectors it names (R229). -/
def ownerAsks (e : Line) (named : BitVec 4) : DirReq → Bool
  | .hs _ => e.own == 8
  | .ha _ => e.own == 8
  | .hw _ => e.own == 8 && named &&& ~~~e.hsec == 0#4
  | .xs n => e.own == 9 + n
  | .xa n => e.own == 9 + n
  | _ => false

/-- Does the request take the line away from every other holder? -/
def takesLine : DirReq → Bool
  | .wr => true
  | .hw _ => true
  | .ha _ => true
  | .xa _ => true
  | _ => false

/-- Does the request come from an external agent? -/
def fromOutside : DirReq → Bool
  | .hs _ => true
  | .ha _ => true
  | .hw _ => true
  | .xs _ => true
  | .xa _ => true
  | _ => false

/-- The agent's number (Table 08.1) of an external request that is no write; 15 for the others. -/
def askerOf : DirReq → Nat
  | .hs _ => 8
  | .ha _ => 8
  | .xs n => 9 + n
  | .xa n => 9 + n
  | _ => 15

/-- Requests that touch no copy: the home's own business with a way. -/
def atHomeOnly : DirReq → Bool
  | .kf => true
  | .nc _ _ => true
  | .pn _ => true
  | .mv => true
  | _ => false

def hostSnoops (h : BitVec 4) : List (Nat × Nat) := ((List.range 4).filter fun i => h.getLsbD i).map fun i => (8, i)

/-- The rafter dies that share a line. -/
def dieSnoops (e : Line) : List (Nat × Nat) :=
  (if e.pres.getLsbD 9 then [(9, 0)] else []) ++ (if e.pres.getLsbD 10 then [(10, 0)] else [])

/-- Snoops that a request needs before it can act (Table 08.4), and whether they invalidate. -/
def snoopsFor (e : Line) (named : BitVec 4) (k : DirReq) : List (Nat × Nat) × Bool :=
  if atHomeOnly k then ([], false)
  else match k with
  | .rc host =>
    if e.extOwned ∧ e.own ≠ 8 then (if host then [] else [(e.own, 0)], true)
    else (hostSnoops e.hsec ++ (if host then [] else dieSnoops e), true)
  | _ =>
    if e.extOwned then
      if ownerAsks e named k then ([], false)
      else (if e.own = 8 then hostSnoops e.hsec else [(e.own, 0)], takesLine k || fromOutside k)
    else if e.st = .f ∧ takesLine k then
      let a := askerOf k
      ((if a = 8 then [] else hostSnoops e.hsec) ++ (dieSnoops e).filter fun x => x.1 != a, true)
    else ([], false)

/-- Sectors that must come from DRAM before a request can act; `have_` are those a register already brought. -/
def fetchFor (s : State) (e : Option Line) (r : HomeReq) (have_ : BitVec 4) : BitVec 4 :=
  let named := match r.kind with
    | .wr => namedSectors s r &&& ~~~(coveredSectors s r)
    | .kf => 0#4
    | .nc _ _ => 0#4
    | .pn _ => 15#4
    | .mv => 0#4
    | .rc _ => 0#4
    | _ => namedSectors s r
  let invalid := match e with
    | some x => (List.range 4).foldl (fun m i => if x.secAt i = .invalid then m ||| bitN 4 i else m) 0#4
    | none => 15#4
  named &&& invalid &&& ~~~have_

/-- The port a page is shared on, for a back-invalidation (R236): 0 unless the table says port 1. -/
def sharedPort (s : State) (line : Nat) : Nat := if fgetD s.mem.bias (line / 64) 0 = 2 then 1 else 0

/-- Sends the snoops of a transaction (R226): an owner is recalled, a rafter die that shares the line is told to drop it. -/
def sendSnoops (s : State) (line : Nat) (inval : Bool) (l : List (Nat × Nat)) : State :=
  let shared := (s.line? line).any fun e => !e.extOwned
  l.foldl (fun t x =>
    if x.1 = 8 then t.emit (.biSnp (sharedPort s line) line x.2 inval)
    else t.emit (.joint (x.1 - 9) (if shared then 0x22 else if inval then 0x21 else 0x20) 0 0 (1024 * line) [] false)) s

def addMiss (s : State) (m : MissReg) : State := { s with mem := { s.mem with miss := s.mem.miss ++ [m] } }
def setMiss (s : State) (m : MissReg) : State :=
  { s with mem := { s.mem with miss := s.mem.miss.map fun x => if x.line == m.line then m else x } }
def dropMiss (s : State) (line : Nat) : State :=
  { s with mem := { s.mem with miss := s.mem.miss.filter fun x => x.line != line } }

/-- A register with nothing asked for. -/
def MissReg.blank (n line : Nat) : MissReg :=
  { slice := n, line := line, need := 0#4, snoops := [], inval := false, kept := false, evict := false, waiters := [],
    got := 0#4, bad := 0#4, snooped := false, since := 0, again := false }

/-- Opens a transaction on a line (R224): its register, and the snoops it sends. -/
def openMiss (s : State) (m : MissReg) : State := sendSnoops (addMiss s { m with snooped := !m.snoops.isEmpty, since := s.now }) m.line m.inval m.snoops

/-- A request waits for its home, which does not answer now. -/
def parkReq (s : State) (r : HomeReq) : State := { s with mem := { s.mem with held := s.mem.held ++ [r] } }

/-- A request is held at the slice input (R168). -/
def holdReq (s : State) (r : HomeReq) : State := parkReq s { r with looked := true }

/-- The transaction that recalls a line's external copies so that its way, or its overflow entry, comes free (R219, R238). -/
def openEvict (s : State) (n line : Nat) (waiters : List HomeReq) : State :=
  match s.line? line with
  | none => s
  | some e => openMiss s { MissReg.blank n line with snoops := (snoopsFor e 0#4 (.rc false)).1, inval := true, evict := true, waiters := waiters }

/-- Invalidates the home-side copies of a line: near copies and the DMA copy. -/
def dropHomeSide (s : State) (line : Nat) : State :=
  let s1 := dropNear s line
  match s1.line? line with
  | some e => s1.setLine line { e with pres := e.pres &&& 0x700#12 }
  | none => s1

/-- Makes the line the most recently used (R170). -/
def touch (s : State) (line : Nat) : State :=
  match s.line? line with
  | some e => (nextStamp s).setLine line { e with stamp := s.mem.stamp + 1 }
  | none => s

/-- The near-copy policy of a context's partition (R163). -/
def nearPolicy (s : State) (ctx : Nat) : Nat :=
  match fget s.ctxs ctx with
  | some c => odNat s (0x6010 + c.f) 7
  | none => 0

/-- Does a policy allow a near copy in half x of a line homed in half h? -/
def nearAllowed (policy x h : Nat) : Bool :=
  x != h && (policy == 1 || (policy == 2 && x / 2 != h / 2))

/-- A near copy takes a way of its slice, and the directory records its half (R164). -/
def putNear (s : State) (line x way : Nat) (secs : BitVec 4) : State :=
  match s.line? line with
  | none => s
  | some e =>
    let st := s.mem.stamp + 1
    let nc : Near := { half := x, slice := e.slice % 16, set := lineSet line, way := way, line := line, sectors := secs, stamp := st }
    (s.setMem { s.mem with stamp := st, near := s.mem.near ++ [nc] }).setLine line { e with pres := e.pres ||| bitN 12 x }.settled

/-- Makes a near copy of the named sectors in half x, or adds them to the one there; where its way must first be freed, the copy waits
(R164, R238). DEDUCED, log 29. -/
def makeNear (s : State) (line x : Nat) (secs : BitVec 4) : State :=
  match s.line? line with
  | none => s
  | some e =>
    let n := 16 * x + e.slice % 16
    let wait : HomeReq := { kind := .nc x secs, agent := .framer, req := 0, seq := 0, tag := 0, pa := 1024 * line, len := 0, op := 0,
                            data := [], cmp := [], pois := false, cls := 0, looked := true }
    if e.extOwned || e.ovf then s
    else match s.mem.near.find? (fun y => y.line == line && y.half == x) with
    | some _ =>
      let st := s.mem.stamp + 1
      { s with mem := { s.mem with stamp := st, near := s.mem.near.map fun y =>
          if y.line == line && y.half == x then { y with sectors := y.sectors ||| secs, stamp := st } else y } }
    | none =>
      match makeRoom s n (lineSet line) with
      | .way w s1 => putNear s1 line x w secs
      | .recall v => if freeMiss s n then openEvict s n v [wait] else holdReq s wait
      | .hold => holdReq s wait

/-- Answers a request that carries its own data and has no entry among the requests in flight: the host's and the rafter dies'
(chapters 08 and 13). -/
def answerOutside (rd : State → Nat → Nat → List Byte × Bool) (s : State) (r : HomeReq) : State :=
  match r.agent with
  | .cxl p =>
    match r.kind with
    | .wr => (homeStore s r.pa r.data r.pois).emit (.cmp p r.pa)
    | .hw _ => (homeStore s r.pa r.data r.pois).emit (.cmp p r.pa)
    | .ha _ =>
      if r.len = 0 then s.emit (.cmp p r.pa)
      else let (b, q) := rd s (r.pa / 64 * 64) 64; s.emit (.memData p r.tag b q)
    | .rc _ => s
    | _ => let (b, q) := rd s (r.pa / 64 * 64) 64; s.emit (.memData p r.tag b q)
  | .rafter n =>
    if takesLine r.kind && !(match r.kind with | .xa _ => true | _ => false) then
      let (old, q) := rd s r.pa r.data.length
      let s1 := homeStore s r.pa (opBytes r.op old r.data r.cmp) (r.pois || (r.op != 0 && q))
      if 0 < r.op ∧ r.op < 32 then s1.emit (.joint n 0x10 r.tag 0 r.pa old q) else s1.emit (.joint n 0x11 r.tag 0 r.pa [] false)
    else let (b, q) := rd s r.pa r.len; s.emit (.joint n 0x10 r.tag 0 r.pa b q)
  | _ => s

/-- The home's bytes, with the sectors that a register brought poisoned (R197). -/
def homeReadBad (bad : BitVec 4) (s : State) (pa len : Nat) : List Byte × Bool :=
  let (b, p) := homeRead s pa len
  (b, p || bad &&& sectorsOf (pa / 1024) pa len != 0#4)

/-- Serves a request's data at the home. DEDUCED, log 29. -/
def serveAt (s : State) (r : HomeReq) (bad : BitVec 4) : State :=
  let line := r.pa / 1024
  let s1 := if r.kind == .wr then coverSectors s line (coveredSectors s r) else s
  if r.req = 0 then answerOutside (homeReadBad bad) s1 r
  else serveLanes (homeReadBad bad) homeStore s1 r.req fun l => l.pa / 1024 == line

/-- The kerf of one line at its home (R179): sectors dropped without write-back; a pinned line keeps its pin. A line an
external agent or the DMA cache holds is counted and stays. -/
def kerfHere (s : State) (line : Nat) : State :=
  match s.line? line with
  | none => s
  | some e =>
    if e.pres &&& 0xF00#12 ≠ 0#12 ∨ e.extOwned then odAdd s 0x5011 1 1
    else if e.ovf then odAdd s 0x5011 1 1
    else
      let a := 1024 * line
      let s1 := dropNear { s with mem := { s.mem with llc := mzero s.mem.llc a 1024 } } line
      if e.pin.isSome then
        s1.setLine line { e with st := .i, own := e.slice / 16, pres := 0#12, sec := [.invalid, .invalid, .invalid, .invalid],
                                 pois := 0#4 }
      else s1.dropLine line

/-- A line is pinned by a partition, unless it is pinned or 12 of its set are (R171, R172). -/
def setPin (s : State) (f line : Nat) : State :=
  match s.line? line with
  | some e => if e.pin.isSome ∨ e.ovf ∨ 12 ≤ pinnedIn s e.slice (lineSet line) then s else s.setLine line { e with pin := some f }
  | none => s

/-- A grant to the DMA cache (R218, R221). -/
def grantDma (s : State) (line : Nat) : State :=
  match s.line? line with
  | some e => if e.extOwned ∨ e.ovf then s else s.setLine line { e with pres := e.pres ||| 0x800#12 }.settled
  | none => s

/-- One request acts on an allocated line whose copies and sectors are as Table 08.4 needs them. -/
def actOnLine (s : State) (r : HomeReq) (e : Line) : State :=
  let line := r.pa / 1024
  match r.kind with
  | .rd half near =>
    let s1 := if e.st = .i then s.setLine line { e with st := .e } else s
    let pol := match findReq s r.req with
      | some q => nearPolicy s q.ctx
      | none => 0
    let h := e.slice / 16
    let secs := namedSectors s r
    let s2 := if half < 8 ∧ (nearAllowed pol half h ∨ (near ∧ half ≠ h)) then makeNear s1 line half secs else s1
    serveAt s2 r 0#4
  | .wr =>
    let s1 := dropHomeSide s line
    serveAt (s1.setLine line { e with st := .m, own := e.slice / 16, pres := 0#12, hsec := 0#4 }) r 0#4
  | .hw _ =>
    if e.extOwned then serveAt s r 0#4
    else serveAt ((dropHomeSide s line).setLine line { e with st := .m, own := e.slice / 16, pres := 0#12, hsec := 0#4 }) r 0#4
  | .hs _ =>
    let s1 := if e.extOwned then s else writeBack s line
    match s1.line? line with
    | none => s1
    | some e1 =>
      let h := e1.hsec ||| namedSectors s r
      serveAt (s1.setLine line { e1 with hsec := h, pres := e1.pres ||| 0x100#12 }.settled) r 0#4
  | .xs n =>
    let s1 := if e.extOwned then s else writeBack s line
    match s1.line? line with
    | none => s1
    | some e1 => serveAt (s1.setLine line { e1 with pres := e1.pres ||| bitN 12 (9 + n) }.settled) r 0#4
  | .ha _ =>
    if e.extOwned then serveAt (s.setLine line { e with hsec := e.hsec ||| namedSectors s r }) r 0#4
    else
      let s1 := dropHomeSide (writeBack s line) line
      match s1.line? line with
      | none => s1
      | some e1 =>
        serveAt (s1.setLine line { e1 with st := .m, own := 8, pres := 0x100#12, hsec := e1.hsec ||| namedSectors s r }) r 0#4
  | .xa n =>
    if e.extOwned then serveAt s r 0#4
    else
      let s1 := dropHomeSide (writeBack s line) line
      match s1.line? line with
      | none => s1
      | some e1 => serveAt (s1.setLine line { e1 with st := .m, own := 9 + n, pres := bitN 12 (9 + n), hsec := 0#4 }) r 0#4
  | .nr => serveAt (if e.st = .i then s.setLine line { e with st := .e } else s) r 0#4
  | .ds => serveAt (grantDma s line) r 0#4
  | .kf => kerfHere s line
  | .nc x secs => makeNear s line x secs
  | .pn f => setPin (if e.st = .i then s.setLine line { e with st := .e } else s) f line
  | .mv =>
    match makeRoom s e.slice (lineSet line) with
    | .way w s1 => s1.setLine line { e with way := w }
    | _ => s
  | .rc _ => s

/-- An overflow entry whose line has no copy left is freed (R219). -/
def freeBare (s : State) (line : Nat) : State :=
  match s.line? line with
  | some e => if e.ovf && e.bare then s.dropLine line else s
  | none => s

/-- One request acts on a line with no way (R173, R219): reads pass, writes go to DRAM and free the overflow entry. -/
def actNoWay (s : State) (r : HomeReq) (bad : BitVec 4) : State :=
  let line := r.pa / 1024
  let put := fun (f : Line → Line) => match s.line? line with
    | some e => s.setLine line (f e)
    | none => s
  match r.kind with
  | .wr => serveAt (s.dropLine line) r bad
  | .hw _ =>
    match s.line? line with
    | some e => if e.extOwned then serveAt s r bad else serveAt (s.dropLine line) r bad
    | none => serveAt s r bad
  | .hs _ =>
    serveAt (put fun e => { e with st := if e.extOwned then .m else .f, hsec := e.hsec ||| namedSectors s r, pres := e.pres ||| 0x100#12 }) r bad
  | .xs n => serveAt (put fun e => { e with st := if e.extOwned then .m else .f, pres := e.pres ||| bitN 12 (9 + n) }) r bad
  | .ha _ =>
    serveAt (put fun e => { e with st := .m, own := 8, pres := 0x100#12, hsec := e.hsec ||| namedSectors s r }) r bad
  | .xa n => serveAt (put fun e => { e with st := .m, own := 9 + n, pres := bitN 12 (9 + n), hsec := 0#4 }) r bad
  | .kf => kerfHere s line
  | .nc _ _ => s
  | .pn _ => s
  | .mv => s
  | .rc _ => freeBare s line
  | _ => serveAt (freeBare s line) r bad

/-- Is a request of this kind without effect where the line has no entry? -/
def needsEntry : DirReq → Bool
  | .kf => true
  | .nc _ _ => true
  | .mv => true
  | .rc _ => true
  | _ => false

/-- One request acts; a line is then the most recently used. -/
def actAtHome (s : State) (r : HomeReq) (bad : BitVec 4) : State :=
  match s.line? (r.pa / 1024) with
  | some e => if e.ovf then actNoWay s r bad else if needsEntry r.kind then actOnLine s r e else touch (actOnLine s r e) (r.pa / 1024)
  | none => actNoWay s r bad

/-- What a request still needs: snoops and whether they invalidate, and sectors. -/
def needOf (s : State) (r : HomeReq) (have_ : BitVec 4) : (List (Nat × Nat) × Bool) × BitVec 4 :=
  let e := s.line? (r.pa / 1024)
  ((match e with
    | some x => snoopsFor x (namedSectors s r) r.kind
    | none => ([], false)),
   fetchFor s e r have_)

/-- Can the request act at once? -/
def needsNothing (s : State) (r : HomeReq) (have_ : BitVec 4) : Bool :=
  let nd := needOf s r have_
  nd.1.1.isEmpty && nd.2 == 0#4

/-- Is a request a read that may pass other waiting reads (R167)? -/
def passes (r : HomeReq) : Bool :=
  match r.kind with
  | .rd _ _ => true
  | .nr => true
  | .ds => true
  | _ => false

/-- Waiting requests whose copies and sectors are there act in arrival order; a read passes waiting reads only, and nothing else passes
(R167). What still waits is kept. -/
def drainPass (have_ bad : BitVec 4) : List HomeReq → List HomeReq → State → List HomeReq × State
  | [], kept, s => (kept, s)
  | r :: rest, kept, s =>
    if needsNothing s r have_ && (kept.isEmpty || (passes r && kept.all passes)) then drainPass have_ bad rest kept (actAtHome s r bad)
    else drainPass have_ bad rest (kept ++ [r]) s

/-- A register without open snoops and sectors answers its waiters; for those that need more it stays open, with the snoops of the
first and the sectors of all (R167, R224). -/
def drain (m : MissReg) (s : State) : State :=
  match drainPass m.got m.bad m.waiters [] s with
  | ([], s1) => s1
  | (r :: rest, s1) =>
    let nd := needOf s1 r m.got
    openMiss s1 { MissReg.blank m.slice m.line with
      need := (r :: rest).foldl (fun a x => a ||| (needOf s1 x m.got).2) 0#4, snoops := nd.1.1, inval := nd.1.2, waiters := r :: rest,
      got := m.got, bad := m.bad }

/-- A request goes on at a line with an entry, or at one that takes no way. -/
def goOn (s : State) (n : Nat) (r : HomeReq) : State :=
  let nd := needOf s r 0#4
  if needsNothing s r 0#4 then actAtHome s r 0#4
  else openMiss s { MissReg.blank n (r.pa / 1024) with need := nd.2, snoops := nd.1.1, inval := nd.1.2, waiters := [r] }

/-- Does the request need an overflow entry when its set has no sapwood way (R219)? -/
def wantsEntry : DirReq → Bool
  | .hs _ => true
  | .ha _ => true
  | .xs _ => true
  | .xa _ => true
  | _ => false

/-- The overflow entry granted longest ago in a slice, among those with no open register. -/
def oldestOverflow (s : State) (n : Nat) : Option Nat :=
  let es := s.mem.lines.filter fun e => e.2.slice == n && e.2.ovf && (missOf s e.1).isNone
  (es.foldl (fun (b : Option (Nat × Nat)) e =>
    match b with
    | none => some (e.2.stamp, e.1)
    | some x => if e.2.stamp < x.1 then some (e.2.stamp, e.1) else some x) none).map (·.2)

/-- Does the home not know whether the host holds a line (R242): a line of a shared page, at a home that began without its
directory, whose entry has not been made since? -/
def lineUnsure (s : State) (line : Nat) : Bool :=
  let b := chanBay (servingSlot s line).1
  fgetD s.mem.bias (line / 64) 0 != 0 && (s.mem.unsure.contains b || (fget s.mem.subst b).isSome) &&
    !s.mem.sure.contains line

/-- Does an external agent hold, or may it hold, a line that has no entry yet (R241, R242)? -/
def entryOwed (s : State) (line : Nat) : Bool := lineUnsure s line || (fget s.mem.orphans line).isSome

/-- A new entry takes its place: in I, or as a rafter die's that owned it at the lost home, or as the host's where the home is not sure
(R241, R242). -/
def enterLine (s : State) (n way line : Nat) (ovf : Bool) : State :=
  let s1 := nextStamp s
  let e := Line.fresh n way s1.mem.stamp ovf
  match fget s.mem.orphans line with
  | some own =>
    (s1.setMem { s1.mem with sure := insAsc s1.mem.sure line, orphans := fdel s1.mem.orphans line }).setLine line
      { e with st := .m, own := own, pres := bitN 12 own }
  | none =>
    if lineUnsure s line then
      (s1.setMem { s1.mem with sure := insAsc s1.mem.sure line }).setLine line
        { e with st := .m, own := 8, pres := 0x100#12, hsec := 15#4 }
    else s1.setLine line e

/-- The slice a request is looked up in. -/
def reqSlice (s : State) (r : HomeReq) : Nat :=
  match r.kind with
  | .nc x _ => 16 * x + homeSlice s (r.pa / 1024) % 16
  | _ => homeSlice s (r.pa / 1024)

/-- Must a request be held at the slice input (R168, R170): its line's register is full, or it needs a register or a way and there is
none? -/
def mustHold (s : State) (r : HomeReq) : Bool :=
  let line := r.pa / 1024
  let n := reqSlice s r
  match missOf s line with
  | some m => decide (32 ≤ m.waiters.length)
  | none =>
    match s.line? line with
    | some e => match r.kind with
      | .nc x _ => (match makeRoom s n (lineSet line) with
        | .way _ _ => false
        | .recall _ => !freeMiss s n
        | .hold => (s.mem.near.find? fun y => y.line == line && y.half == x).isNone && !e.extOwned)
      | .mv => (match makeRoom s n (lineSet line) with
        | .way _ _ => false
        | .recall _ => !freeMiss s n
        | .hold => true)
      | _ => !needsNothing s r 0#4 && !freeMiss s n
    | none =>
      if needsEntry r.kind && !(r.kind == .rc true && lineUnsure s line) && !(r.kind == .rc false && entryOwed s line) then false
      else !freeMiss s n ||
        (if noSapwood s n (lineSet line) then
          (wantsEntry r.kind || entryOwed s line) &&
            decide (32 ≤ (s.mem.lines.filter fun x => x.2.slice == n && x.2.ovf).length) && (oldestOverflow s n).isNone
         else match makeRoom s n (lineSet line) with
          | .hold => true
          | _ => false)

/-- Is a request that names a line's bytes held at the slice input? -/
def lineHeld (s : State) (line : Nat) : Bool := s.mem.held.any fun h => h.pa / 1024 == line && !atHomeOnly h.kind

/-- Does a request pass those held: its line's register has room, or it hits and none of its line is held (R168, R253)? -/
def passesHeld (s : State) (r : HomeReq) : Bool :=
  match missOf s (r.pa / 1024) with
  | some m => decide (m.waiters.length < 32)
  | none => (s.line? (r.pa / 1024)).isSome && needsNothing s r 0#4 && !lineHeld s (r.pa / 1024)

/-- A pinned line leaves a carved way: another way, or a wait for the victim's (R177). DEDUCED, log 65. -/
def moveLineWay (s : State) (n line : Nat) (r : HomeReq) : State :=
  match s.line? line with
  | none => s
  | some e =>
    match makeRoom s n (lineSet line) with
    | .way w s1 => s1.setLine line { e with way := w }
    | .recall v => openEvict s n v [r]
    | .hold => holdReq s r

/-- A line that is allocated for a PIN is pinned at once (R171). -/
def pinNow (s : State) (r : HomeReq) : State :=
  match r.kind with
  | .pn f => setPin s f (r.pa / 1024)
  | _ => s

/-- A request that is not held takes its place (R165 to R173, R219, R224, R225): in its line's register, at its line, or where its
allocation finds room. -/
def enterHome (s : State) (r : HomeReq) : State :=
  let line := r.pa / 1024
  let n := reqSlice s r
  let set := lineSet line
  match missOf s line with
  | some m => count (setMiss s { m with waiters := m.waiters ++ [r],
                                        need := if m.evict then m.need else m.need ||| (needOf s r m.got).2 }) (sliceBank n) 5 1
  | none =>
    match s.line? line with
    | some _ =>
      (match r.kind with
       | .mv => moveLineWay s n line r
       | _ => goOn s n r)
    | none =>
      if r.kind == .kf then (if entryOwed s line then odAdd s 0x5011 1 1 else s)
      else if needsEntry r.kind && !(r.kind == .rc true && lineUnsure s line) && !(r.kind == .rc false && entryOwed s line) then s
      else if noSapwood s n set then
        if wantsEntry r.kind || entryOwed s line then
          if (s.mem.lines.filter fun x => x.2.slice == n && x.2.ovf).length < 32 then
            goOn (enterLine s n 0 line true) n r
          else match oldestOverflow s n with
            | some v => openEvict (odAdd s 0x5060 8 1) n v [r]
            | none => holdReq s r
        else goOn s n r
      else match makeRoom s n set with
        | .way w s1 => goOn (pinNow (enterLine s1 n w line false) r) n r
        | .recall v => openEvict s n v [r]
        | .hold => holdReq s r

/-- A request whose way, or whose register, has come free goes on, or is held at the slice input; one whose home has stopped answering
waits at the joint (R239, R243). -/
def reEnter (s : State) (r : HomeReq) : State :=
  if lineAnswers s (r.pa / 1024) ≠ .up then parkReq s r else if mustHold s r then holdReq s r else enterHome s r

/-- Counts the lookup of a request (R187, Table 18.1): kerf and the home's own requests count nothing; one that was held counts as a
hit. -/
def countLookup (s : State) (r : HomeReq) : State :=
  if atHomeOnly r.kind && !(match r.kind with | .pn _ => true | _ => false) then s
  else match r.kind with
  | .rc _ => s
  | _ =>
    let line := r.pa / 1024
    let n := homeSlice s line
    let pinned := (s.line? line).any fun x => x.pin.isSome
    let hit := r.looked || ((s.line? line).isSome && (needOf s r 0#4).2 == 0#4)
    count (count (classCount s (n / 16) (if pinned then 1 else 0) r.cls hit (missOf s line).isSome) (sliceBank n) 3 1) (sliceBank n) 0 1

/-- A scratch access counts as a class-3 hit (R187). -/
def countScratch (s : State) (pa cls : Nat) : State := classCount s (sliceHalf (scratchSlice pa)) 3 cls true false

/-- A request arrives at its home slice: it is held behind those that are, unless it may pass them (R168). -/
def homeArrive (s : State) (r : HomeReq) : State :=
  let queue := s.mem.held.any fun h => reqSlice s h == reqSlice s r && lineAnswers s (h.pa / 1024) == .up
  if (queue && !passesHeld s r) || mustHold s r then holdReq s r else enterHome (countLookup s r) r

/-- The line's entry once its recall or invalidation has been answered (Table 08.4): `kept` says that the host keeps a copy. DEDUCED, log 31. -/
def afterRecall (e : Line) (kept : Bool) : Line :=
  if e.extOwned ∧ e.own = 8 ∧ kept ∧ e.hsec ≠ 0#4 then { e with st := .f, own := e.slice / 16 }
  else if e.extOwned then { e with st := .e, own := e.slice / 16, pres := e.pres &&& 0x8FF#12, hsec := 0#4 }.settled
  else { e with pres := if e.hsec = 0#4 then e.pres &&& 0xEFF#12 else e.pres }.settled

/-- A line settles after a recall: an entry that keeps an external copy is clean first (R222, R227), and an overflow entry with none
left is freed (R219). DEDUCED, log 31. -/
def settleLine (s : State) (line : Nat) (kept : Bool) : State :=
  match s.line? line with
  | none => s
  | some e =>
    let y := afterRecall e kept
    let s1 := s.setLine line y
    freeBare (if y.st = .f ∧ y.hasDirty then writeBack s1 line else s1) line

/-- Closes a transaction whose answers and sectors are all in (R224): the line settles, then the waiters act. -/
def closeMiss (s : State) (m : MissReg) : State :=
  let s1 := dropMiss s m.line
  let s2 := if m.again || !m.snooped then s1 else settleLine s1 m.line m.kept
  if m.evict ∧ !m.again then
    let s3 := match s2.line? m.line with
      | some e => if e.ovf then s2.dropLine m.line else evictLine s2 m.line
      | none => s2
    m.waiters.foldl reEnter s3
  else if m.evict then openEvict s2 m.slice m.line m.waiters
  else drain m s2

/-- Takes one answer off a transaction, and closes it when nothing is outstanding. DESIGN CHOICE, log 100. -/
def snoopAnswered (s : State) (m : MissReg) (agent sector : Nat) (kept again : Bool) : State :=
  let m1 := { m with snoops := m.snoops.filter fun x => !(x.1 == agent && x.2 == sector), kept := m.kept || kept,
                     again := m.again || again }
  if m1.snoops.isEmpty ∧ m1.need = 0#4 then closeMiss (setMiss s m1) m1 else setMiss s m1

/-- The recall of every external copy of a line. -/
def recallAsk (line : Nat) : HomeReq :=
  { kind := .rc false, agent := .framer, req := 0, seq := 0, tag := 0, pa := 1024 * line, len := 0, op := 0, data := [], cmp := [],
    pois := false, cls := 0, looked := false }

/-! ## Lines that leave their way (R177, R238) -/

/-- A line whose way has been carved leaves it: dropped after its write-back; a pinned one moves; one with external copies is recalled
first; one with an open transaction waits. DEDUCED, log 65. -/
def leaveWay (s : State) (line : Nat) : State :=
  match s.line? line with
  | none => s
  | some e =>
    if (missOf s line).isSome then s
    else if e.pin.isSome then
      if s.mem.held.any (fun r => r.kind == .mv && r.pa / 1024 == line) ||
         s.mem.miss.any (fun m => m.waiters.any fun r => r.kind == .mv && r.pa / 1024 == line) || !freeMiss s e.slice then s
      else moveLineWay s e.slice line
        { kind := .mv, agent := .framer, req := 0, seq := 0, tag := 0, pa := 1024 * line, len := 0, op := 0, data := [], cmp := [],
          pois := false, cls := 0, looked := true }
    else if e.hasExt then (if freeMiss s e.slice then openEvict s e.slice line [] else s)
    else evictLine s line

/-- The lines of a slice that still stand in carved ways leave them. -/
def leaveCarved (s : State) (n : Nat) : State :=
  ((s.mem.lines.filter fun e => e.2.slice == n && !e.2.ovf && wayCarved s n e.2.way).map (·.1)).foldl leaveWay s

/-! ## Sleeping homes -/

/-- Asks for the wake of a sleeping bay that is reached (R383). -/
def wakeBay (s : State) (b : Nat) : State :=
  if (s.bay b).st = .asleep then s.setBay b { s.bay b with waking := true } else s

/-! ## Reads that engines, fetches and walks make at a home -/

/-- Has the home the bytes of a range within one line at hand: no owner outside, no transaction open, the sectors valid? A set
without sapwood ways keeps none and answers from DRAM; a home that is not there answers as R241 says. DESIGN CHOICE, log 25. -/
def homeHas (s : State) (pa len : Nat) : Bool :=
  let line := pa / 1024
  let n := homeSlice s line
  regionOf pa != .dram || lineAnswers s line == .gone ||
    (lineAnswers s line == .up && (missOf s line).isNone && !lineHeld s line &&
      (match s.line? line with
       | some e => !e.extOwned && (e.ovf || (List.range 4).all fun i => !(sectorsOf line pa len).getLsbD i || e.secAt i != .invalid)
       | none => noSapwood s n (lineSet line) && !entryOwed s line))

/-- A read that finds its bytes at hand: a lookup and a hit, the line the most recently used, and, into the DMA cache, a copy granted
(R170, R187, R221). -/
def hitHome (s : State) (pa len : Nat) (dc : Bool) (cls : Nat) : State :=
  let line := pa / 1024
  if regionOf pa ≠ .dram ∨ lineAnswers s line ≠ .up then s
  else
    let r : HomeReq := { kind := .nr, agent := .framer, req := 0, seq := 0, tag := 0, pa := pa, len := len, op := 0, data := [],
                         cmp := [], pois := false, cls := cls, looked := false }
    let s1 := touch (countLookup s r) line
    if dc then grantDma s1 line else s1

/-- Has a read of a line at its home been asked for already? -/
def lineCalled (s : State) (line : Nat) : Bool :=
  (missOf s line).isSome || s.mem.held.any fun h => h.req == 0 && h.pa / 1024 == line

/-- Asks the home for bytes that no request names: it recalls the line, or reads DRAM, and has them at hand afterwards. -/
def callLine (s : State) (pa len : Nat) (a : Agent) : State :=
  match lineAnswers s (pa / 1024) with
  | .gone => s
  | .asleep => wakeBay s (sliceBay (homeSlice s (pa / 1024)))
  | .up =>
    if homeHas s pa len || lineCalled s (pa / 1024) then s
    else homeArrive s { kind := .nr, agent := a, req := 0, seq := 0, tag := 0, pa := pa, len := len, op := 0, data := [],
                        cmp := [], pois := false, cls := 0, looked := false }

end Sys2Proof.Machine
end

