-- ==== Sys2Proof/Machine/Translate.lean ====
section
/-! DEFINITION. Address translation (R336 to R340): the four-level walk, the cached translations, the rights of a leaf, ATS
for host leaves, and what a context may reach in each region (R13, R153, R176, R214, R334, R363, R434, R442). -/

namespace Sys2Proof.Machine

/-! ## What a function holds -/

/-- The memory share of function f: base and size in bytes (Table 12.5). -/
def shareBase (s : State) (f : Nat) : Nat := odNat s (0x6010 + f) 2
def shareSize (s : State) (f : Nat) : Nat := odNat s (0x6010 + f) 3 * 2 ^ 30

def inShare (s : State) (f pa len : Nat) : Bool :=
  decide (shareBase s f ≤ pa) && decide (pa + len ≤ shareBase s f + shareSize s f)

/-- Does function f hold read access to a range record that contains the bytes (OD 0x6010 + f:10)? -/
def rangeGranted (s : State) (f pa len : Nat) : Bool :=
  (List.range 32).any fun e =>
    (odNat s (0x6010 + f) 16).testBit e &&
      (let r := rangeRec s e
       decide (0 < rangeSize r) && decide (rangeBase r ≤ pa) && decide (pa + len ≤ rangeBase r + rangeSize r))

/-- The record of an immutable range that holds an address, if one does (R214). -/
def immutableAt (s : State) (pa : Nat) : Option Nat :=
  (List.range 32).find? fun e =>
    let r := rangeRec s e
    decide (0 < rangeSize r) && r.testBit 1 && decide (rangeBase r ≤ pa) && decide (pa < rangeBase r + rangeSize r)

/-- Are writes to these bytes refused (R214): an immutable range not being loaded, or a mirror range? -/
def writeRefused (s : State) (pa len : Nat) : Bool :=
  (List.range 32).any fun e =>
    let r := rangeRec s e
    decide (0 < rangeSize r) && r.testBit 1 &&
      ((!r.testBit 3 && overlap (rangeBase r) (rangeSize r) pa len) ||
       (r.testBit 2 && overlap (rangeMbase r) (rangeSize r) pa len))

/-- Do bytes lie in the bias table, which only the device reaches (R231)? DESIGN CHOICE, log 30. -/
def inBiasTable (s : State) (pa len : Nat) : Bool :=
  odNat s 0x5060 1 != 0 && overlap (odNat s 0x5060 1) 0x300000 pa len

/-- The carved scratch size (R176). -/
def carvedSize (s : State) : Nat :=
  ((List.range 256).foldl (fun n u => if (unitOwner s u).isSome then u + 1 else n) 0) * 0x100000

/-- Does partition f hold the scratch unit of an address (R176)? -/
def scratchOf (s : State) (f pa : Nat) : Bool :=
  decide (pa - scratchBase < carvedSize s) && unitOwner s ((pa - scratchBase) / 0x100000) == some f

/-- The function of a context; contexts that are gone belong to none. -/
def ctxFn (s : State) (ctx : Nat) : Option Nat := (fget s.ctxs ctx).map (·.f)

/-- Does a core-store address lie in a granule of a context of partition f (R12, R153)? -/
def storeOf (s : State) (f pa : Nat) : Bool :=
  let c := storeCore pa
  coreUsed s c && decide (storeGranule pa < 32) &&
    (match fget (s.core c).granules (storeGranule pa) with
     | some x => ctxFn s x == some f
     | none => false)

/-- The session bound to the peer window of an address, when it is OPEN and of function f (R363). Windows are 2 TiB each, from 32 × 2 TiB
on. -/
def windowSession (s : State) (f pa : Nat) : Option Nat :=
  if pa < peerBase then none
  else (List.range 1024).find? fun n =>
    let r := odNat s (0x1600 + n) 0
    decide (bits r 172 166 = pa / 0x20000000000 - 32) && decide (bits r 165 160 = f) && decide ((s.session n).st = 2)

/-! ## Control register space: who reaches what (R271, R434, R442, R470) -/

def bellBase : Nat := 0x013004000000

/-- The queue whose doorbell page holds an address. -/
def bellQueue (pa : Nat) : Option Nat :=
  if bellBase ≤ pa ∧ pa < bellBase + 4096 * 0x1000 then some ((pa - bellBase) / 0x1000) else none

/-- Is the address in the update window, the fault log and recovery window, or the counters and observation registers? -/
def pfWindow (pa : Nat) : Bool :=
  (decide (0x013800000000 ≤ pa) && decide (pa < 0x013801000010)) ||
  (decide (0x013802000000 ≤ pa) && decide (pa < 0x013802020020)) ||
  (decide (0x013803000000 ≤ pa) && decide (pa < 0x013803004040)) ||
  (decide (0x013400000000 ≤ pa) && decide (pa < 0x013403001000))

/-- May a context of function f reach a control address: a doorbell page of its own function's queues, or, for the PF, the
windows above? -/
def ctlOf (s : State) (f pa : Nat) : Bool :=
  match bellQueue pa with
  | some q =>
    match fget s.queues q with
    | some x => decide (x.f = f)
    | none => false
  | none => pfWindow pa && decide (f = 0)

/-! ## What a context may reach -/

/-- Kinds of access, for rights and refusals. -/
inductive Use where
  | read
  | write
  | atomic
  | acw
  | fetch
  deriving DecidableEq, Repr

def Use.isWrite : Use → Bool
  | .read => false
  | .fetch => false
  | _ => true

/-- May an access of function f to physical bytes take place at all; a command's DMA or a core's (R13, R93, R94, R153, R176,
R214, R334, R363)? -/
def reachable (s : State) (f : Nat) (u : Use) (pa len : Nat) : Bool :=
  match regionOf pa with
  | .dram =>
    decide (pa + len ≤ usableSize s) && !inBiasTable s pa len &&
      (if u.isWrite then inShare s f pa len && !writeRefused s pa len else inShare s f pa len || rangeGranted s f pa len)
  | .scratch => scratchOf s f pa
  | .store => storeOf s f pa
  | .chute => u != .atomic && u != .acw && u != .fetch
  | .ctl => ctlOf s f pa && u != .atomic && u != .acw && u != .fetch
  | .host => u != .acw
  | .peer => (windowSession s f pa).isSome && u != .fetch
  | .unmapped => false

/-! ## The walk -/

/-- What a walk finds: a leaf, as the entry of one 4 KiB page, bit 7 kept for a page of a 64 KiB group. -/
inductive WalkRes where
  | leaf (e : Nat)
  | none
  | poisoned
  deriving DecidableEq, Repr

/-- A page table entry read at its home; a table lies in usable DRAM in the function's share (R336). DEDUCED, log 38. -/
def readPte (s : State) (f a : Nat) : Option (Nat × Bool) :=
  if inShare s f a 8 && decide (a + 8 ≤ usableSize s) then
    let (b, p) := placeRead s a 8
    some (leNat b, p)
  else Option.none

/-- Width of the index of each level (Table 12.8). -/
def levelIndex (level va : Nat) : Nat :=
  if level = 4 then bits va 56 39 else if level = 3 then bits va 38 30 else if level = 2 then bits va 29 21 else bits va 20 12

/-- log2 of the page that a leaf maps at a level. -/
def levelPage (level : Nat) : Nat := if level = 3 then 30 else if level = 2 then 21 else 12

/-- The walk from a table at a level (Table 12.7, Table 12.8, R337). -/
def walk (s : State) (f va : Nat) : Nat → Nat → WalkRes
  | 0, _ => .none
  | level + 1, table =>
    match readPte s f (table + 8 * levelIndex (level + 1) va) with
    | Option.none => .none
    | some (_, true) => .poisoned
    | some (e, false) =>
      if bits e 63 48 ≠ 0 ∨ bits e 11 8 ≠ 0 ∨ e.testBit 1 ∨ !e.testBit 0 then .none
      else if e.testBit 6 then
        (if level + 1 = 4 ∨ (e.testBit 7 ∧ level ≠ 0) then .none
         else if e.testBit 7 then
           .leaf (bits e 47 16 * 65536 + bits va 15 12 * 4096 + e % 4096)
         else if bits e 47 12 * 4096 % 2 ^ levelPage (level + 1) ≠ 0 then .none
         else .leaf (bits e 47 12 * 4096 + va % 2 ^ levelPage (level + 1) / 4096 * 4096 + e % 4096))
      else if level = 0 ∨ bits e 5 2 ≠ 0 ∨ e.testBit 7 then .none
      else walk s f va level (bits e 47 12 * 4096)

/-- The first entry of a walk that its home has not at hand (R224, R336). DEDUCED, log 38. -/
def walkNeeds (s : State) (f va : Nat) : Nat → Nat → Option Nat
  | 0, _ => Option.none
  | level + 1, table =>
    let a := table + 8 * levelIndex (level + 1) va
    if !(inShare s f a 8 && decide (a + 8 ≤ usableSize s)) then Option.none
    else if !homeHas s a 8 then some a
    else match readPte s f a with
      | some (e, false) => if e.testBit 0 ∧ !e.testBit 6 then walkNeeds s f va level (bits e 47 12 * 4096) else Option.none
      | _ => Option.none

/-- The entries that a walk reads are hits at their homes (R170, R187). -/
def walkHits (s : State) (f va : Nat) : Nat → Nat → State
  | 0, _ => s
  | level + 1, table =>
    let a := table + 8 * levelIndex (level + 1) va
    match readPte s f a with
    | Option.none => s
    | some (e, bad) =>
      hitHome (if !bad ∧ e.testBit 0 ∧ !e.testBit 6 then walkHits s f va level (bits e 47 12 * 4096) else s) a 8 false 0

/-- The cached entry for a page, the last walked first; a leaf of a 64 KiB group serves the group (R337). -/
def tlbFind (ctx vpn : Nat) : List (Nat × Nat × W64) → Option Nat
  | [] => Option.none
  | (c, v, e) :: rest =>
    if c = ctx ∧ v = vpn then some e.toNat
    else if c = ctx ∧ e.toNat.testBit 7 ∧ v / 16 = vpn / 16 then
      some (bits e.toNat 47 16 * 65536 + vpn % 16 * 4096 + e.toNat % 4096)
    else tlbFind ctx vpn rest

/-- The leaf of a page: from the cached translations, or by a walk, which caches it. DESIGN CHOICE, log 39. -/
def findLeaf (s : State) (ctx va : Nat) : WalkRes × State :=
  match fget s.ctxs ctx with
  | Option.none => (.none, s)
  | some c =>
    match tlbFind ctx (va / 4096) s.mem.tlb with
    | some e => (.leaf e, s)
    | Option.none =>
      match walk s c.f va 4 c.ptroot.toNat with
      | .leaf e => (.leaf e, { s with mem := { s.mem with tlb := (ctx, va / 4096, BitVec.ofNat 64 e) :: s.mem.tlb } })
      | r => (r, s)

/-- Does a leaf give the rights an access needs (R337)? -/
def leafAllows (e : Nat) : Use → Bool
  | .read => e.testBit 2
  | .write => e.testBit 3
  | .atomic => e.testBit 2 && e.testBit 3
  | .acw => e.testBit 5
  | .fetch => e.testBit 4

/-- What a translation gives. -/
inductive Xlat where
  | ok (pa : Nat)
  | fault
  | poisoned
  | ats (port pasid page : Nat)
  | wait                        -- an entry of the walk is on its way from its home
  deriving DecidableEq, Repr

/-- The ATS answer cached for a host page (R338). -/
def atsFind (s : State) (port pasid page : Nat) : Option (Bool × Bool × Bool) :=
  (s.mem.ats.find? fun a => a.1 == port && a.2.1 == pasid && a.2.2.1 == page).map fun a => a.2.2.2

def atsAllows (r w x : Bool) : Use → Bool
  | .read => r
  | .write => w
  | .atomic => r && w
  | .acw => false
  | .fetch => x

/-- Translates one access (R336 to R338) and checks what the context may reach. DEDUCED, log 38. -/
def translate (s : State) (ctx : Nat) (u : Use) (va len : Nat) : Xlat × State :=
  if 2 ^ 57 ≤ va then (.fault, s)
  else
    match findLeaf s ctx va with
    | (.none, s1) => (.fault, s1)
    | (.poisoned, s1) => (.poisoned, s1)
    | (.leaf e, s1) =>
      let pa := bits e 47 12 * 4096 + va % 4096
      match fget s1.ctxs ctx with
      | Option.none => (.fault, s1)
      | some c =>
        if !leafAllows e u || !reachable s1 c.f u pa len then (.fault, s1)
        else if regionOf pa = .host then
          let port := homePort s1 c.f
          let page := (pa - hostBase) / 4096
          match atsFind s1 port c.pasid.toNat page with
          | some (r, w, x) => if atsAllows r w x u then (.ok pa, s1) else (.fault, s1)
          | Option.none => (.ats port c.pasid.toNat page, s1)
        else (.ok pa, s1)

/-- Translates one access of an agent that can wait: the walk reads each entry at its home. DEDUCED, log 38. -/
def translateAsk (s : State) (a : Agent) (ctx : Nat) (u : Use) (va len : Nat) : Xlat × State :=
  match fget s.ctxs ctx with
  | Option.none => translate s ctx u va len
  | some c =>
    if 2 ^ 57 ≤ va ∨ (tlbFind ctx (va / 4096) s.mem.tlb).isSome then translate s ctx u va len
    else match walkNeeds s c.f va 4 c.ptroot.toNat with
      | some e => (.wait, callLine s e 8 a)
      | Option.none =>
        let (x, s1) := translate s ctx u va len
        (x, walkHits s1 c.f va 4 c.ptroot.toNat)

/-- The first entry that the walks of a range's pages need from its home (R336). DEDUCED, log 38. -/
def pagesNeed (s : State) (ctx va len : Nat) : Option Nat :=
  match fget s.ctxs ctx with
  | Option.none => Option.none
  | some c => (List.range ((va + len - 1) / 4096 + 1 - va / 4096)).findSome? fun i =>
      let page := va / 4096 + i
      if (tlbFind ctx page s.mem.tlb).isSome then Option.none else walkNeeds s c.f (4096 * page) 4 c.ptroot.toNat

/-- Asks the host for a translation, or leaves the request at the port (R338, R342). DESIGN CHOICE, log 39. -/
def askAts (s : State) (f port pasid page : Nat) : State :=
  if mayOriginate s f && portOpen s port then s.emit (.atsRequest port pasid page) else s

/-- Forgets the translations of a context that a test names (R339). DESIGN CHOICE, log 39. -/
def tlbDrop (s : State) (p : Nat → Nat → Bool) : State :=
  { s with mem := { s.mem with tlb := s.mem.tlb.filter fun e => !p e.1 e.2.1 } }

end Sys2Proof.Machine
end

