-- ==== Sys2Proof/Machine/Peer.lean ====
section
/-! DEFINITION. The sending side of a Rafter session (R365, R367): frames, their numbers, and the operations that requests
to a peer window become (R363). -/

namespace Sys2Proof.Machine

/-- Bits 255:192 of the configuration digest, as SYN and KEEPALIVE carry them (R366). -/
def digestPrefix (s : State) : W64 := BitVec.ofNat 64 (leNat ((configDigest s).drop 24))

/-- Can the session's frames leave: its port is up (R360)? -/
def sessUp (s : State) (n : Nat) : Bool := fget (s.die (sessDie s n)).ports (sessPort s n) == some 2

/-- A frame leaves on the session's port; one that cannot is lost. -/
def emitFrame (s : State) (n : Nat) (o : Out) : State := if sessUp s n then s.emit o else s

/-- Sends a frame that is not DATA: its kind of Table 13.11 and its SUB field; SYN, SYNACK, REFUSE, CLOSE and KEEPALIVE carry
the digest in ADDR. Every frame carries RPSN and APSN, so it acknowledges what has arrived. -/
def sendKind (s : State) (n kind sub : Nat) : State :=
  let x := s.session n
  let addr := if 2 ≤ kind ∧ kind ≤ 6 then digestPrefix s else 0#64
  emitFrame (s.setSess n { x with unacked := 0, lastSent := s.now }) n
    (.rafter n kind 0 0#32 x.rpsn x.apsn addr 0 0 sub 0 [] false)

/-- Puts a kept frame on the wire. -/
def sendFrame (s : State) (n : Nat) (f : Frame) : State :=
  let x := s.session n
  emitFrame (s.setSess n { x with unacked := 0, lastSent := s.now }) n
    (.rafter n 0 f.op f.psn x.rpsn x.apsn f.addr f.len f.scope f.sub f.tag f.data f.pois)

/-- May the session take one more DATA frame (at most 512 kept; at most 256 READ and ATOMIC operations outstanding)? -/
def sessRoom (x : Sess) (asks : Bool) : Bool :=
  decide (x.kept.length < 512) && (!asks || decide (x.asked.length < 256))

/-- The lowest TAG that no outstanding operation uses. -/
def freeTag (x : Sess) : Nat := ((List.range 256).find? fun t => !x.asked.any fun a => a.1 == t).getD 0

/-- Sends one DATA operation with the next PSN and keeps it (R367). -/
def sendData (s : State) (n op : Nat) (addr : Nat) (data : List Byte) (len scope sub req lane : Nat) (pois : Bool) : State :=
  let x := s.session n
  let asks := op == 2 || op == 4
  let tag := if asks then freeTag x else 0
  let f : Frame := { psn := x.tx, op := op, addr := BitVec.ofNat 64 addr, data := data, len := len, scope := scope,
                     sub := sub, tag := tag, req := req, lane := lane, pois := pois }
  let y := { x with tx := x.tx + 1, kept := x.kept ++ [f],
                    lastProgress := if x.kept.isEmpty then s.now else x.lastProgress,
                    asked := if asks then x.asked ++ [(tag, req, lane)] else x.asked,
                    posted := if op == 1 || op == 6 then x.posted ++ [(f.psn, req, lane)] else x.posted }
  sendFrame (s.setSess n y) n f

/-- A response: READ_RESP or ATOMIC_RESP, or ERROR, with the asker's TAG. -/
def sendAnswer (s : State) (n op tag : Nat) (addr : Nat) (data : List Byte) (sub : Nat) (pois : Bool) : State :=
  let x := s.session n
  let f : Frame := { psn := x.tx, op := op, addr := BitVec.ofNat 64 addr, data := data, len := data.length, scope := 0,
                     sub := sub, tag := tag, req := 0, lane := 0, pois := pois }
  sendFrame (s.setSess n { x with tx := x.tx + 1, kept := x.kept ++ [f],
                                  lastProgress := if x.kept.isEmpty then s.now else x.lastProgress }) n f

/-- The operation of Table 13.12 that a request becomes, and its SUB. -/
def peerOp : ReqKind → Nat × Nat
  | .load _ => (2, 0)
  | .pref _ => (2, 0)
  | .read => (2, 0)
  | .dread => (2, 0)
  | .store => (1, 0)
  | .fwrite => (1, 0)
  | .atom fn => (4, fn)
  | .acw fn => (6, fn)

/-- SCOPE of a frame: a release of DEVICE or below is 01, of SYSTEM 10 (Table 13.11). -/
def frameScope (r : Req) : Nat := if !r.rel then 0 else if r.scope = 4 then 2 else if r.scope = 3 then 1 else 0

/-- Offset of an address in its peer window (R363). -/
def peerOffset (pa : Nat) : Nat := pa % 0x20000000000

/-- Sends what a request still has to send to its peer windows, lane after lane, while its session has room. -/
def peerLanes (s : State) (r : Req) (f : Nat) : List LaneAcc → State × List LaneAcc
  | [] => (s, [])
  | l :: ls =>
    if l.sent || l.done || regionOf l.pa != .peer then
      let (s1, r1) := peerLanes s r f ls
      (s1, l :: r1)
    else
      let (op, sub) := peerOp r.kind
      match windowSession s f l.pa with
      | none =>
        let (s1, r1) := peerLanes s r f ls
        (s1, { l with sent := true, done := true, err := true, got := some (List.replicate l.data.length 0#8),
                      pois := true } :: r1)
      | some n =>
        if sessRoom (s.session n) (op == 2 || op == 4) then
          let payload := if op = 2 then [] else if op = 4 ∧ sub = 9 then l.data ++ l.cmp else l.data
          let s1 := sendData s n op (peerOffset l.pa) payload l.data.length (frameScope r) sub r.id l.lane
            l.pois
          let (s2, r1) := peerLanes s1 r f ls
          (s2, { l with sent := true } :: r1)
        else (s, l :: ls)

/-- The function a request acts for. -/
def reqFn (s : State) (r : Req) : Nat :=
  match r.agent with
  | .bar _ f => f
  | _ => (ctxFn s r.ctx).getD 0

/-- Sends request `id` to its peer windows. -/
def pumpPeer (s : State) (id : Nat) : State :=
  match findReq s id with
  | none => s
  | some r =>
    if r.phase = .sent then
      let (s1, ls) := peerLanes s r (reqFn s r) r.lanes
      setReq s1 (settleReq { r with lanes := ls })
    else s

/-- Every request to a peer that still has to send tries again, in issue order. -/
def pumpPeers (s : State) : State := (s.mem.reqs.map (·.id)).foldl pumpPeer s

/-- A new request in flight: it goes to its peer windows at once. -/
def postReq (s : State) (r : Req) : Nat × State :=
  let (id, s1) := addReq s r
  (id, pumpPeer s1 id)

end Sys2Proof.Machine
end

