-- ==== Sys2Proof/Machine/Issue.lean ====
section
/-! DEFINITION. The core stores and scratch as bytes with poison (R154, R178, R446), context faults (R74 to R78), paths, joins
and merging (R50 to R57), and the issue of one instruction by the current path of a whorl (R46 to R48, R80 to R83). -/

namespace Sys2Proof.Machine

/-! ## Reaching a place -/

/-- Powers a gated domain whose store is reached (R29); one that is still gating wakes afterwards (R381). -/
def wakeDomain (s : State) (g : Nat) : State :=
  let d := s.dom g
  match d.st with
  | .gated => s.setDom g { d with st := .waking }
  | .gating => s.setDom g { d with wanted := true }
  | _ => s

/-- What must happen before bytes can be read where they live: the home fetches or recalls the line, a sleeping bay or a gated
core's domain wakes (R29, R224, R383). None when nothing must. -/
def placeAsk (s : State) (a : Agent) (pa len : Nat) : Option State :=
  if regionOf pa = .dram then (if homeHas s pa len then none else some (callLine s pa len a))
  else match placeBay s pa with
    | none => none
    | some b =>
      match placeAnswers s pa with
      | .gone => none
      | .asleep => some (wakeBay s b)
      | .up =>
        let g := coreDomain s (storeCore pa)
        if regionOf pa == .store && (s.dom g).st != .on then some (wakeDomain s g) else none

/-! ## Whorls -/

def whorlOf (s : State) (w : Wid) : Option Whorl := fget (s.core w.core).slots w.slot

def putWhorl (s : State) (w : Wid) (wh : Whorl) : State :=
  let c := s.core w.core
  s.setCore w.core { c with slots := fset c.slots w.slot wh }

/-- The context of a whorl. -/
def whorlCtx (s : State) (wh : Whorl) : Nat :=
  match fget s.kerns wh.kernel with
  | some k => k.ctx
  | none => 4096

/-- Is a context of this number the owner of a whorl? -/
def ownedBy (s : State) (ctx : Nat) (wh : Whorl) : Bool := whorlCtx s wh == ctx

/-- Every whorl that satisfies a test, changed. -/
def mapWhorls (s : State) (p : Whorl → Bool) (f : Whorl → Whorl) : State :=
  { s with cores := s.cores.map fun c =>
      (c.1, { c.2 with slots := c.2.slots.map fun e => (e.1, if p e.2 then f e.2 else e.2) }) }

/-! ## Posted writes of the Framer and the girt DMA -/

/-- One lane of a write. -/
def writeLane (i va pa : Nat) (b : List Byte) (pois : Bool) : LaneAcc :=
  { lane := i, va := va, pa := pa, data := b, cmp := [], got := none, pois := pois, sent := false, done := false,
    err := false }

/-- A posted write by an agent without a cache (R229), of bytes that lie in one line, block or window; a release names its scope. -/
def postBytes (s : State) (agent : Agent) (ctx pa : Nat) (b : List Byte) (pois rel : Bool) (scope : Nat) : Nat × State :=
  postReq s { id := 0, agent := agent, kind := .fwrite, lanes := [writeLane 0 pa pa b pois], size := b.length, dest := 0#7,
              pc := 0#64, acq := false, rel := rel, scope := scope, cls := 0, region := regionOf pa, ctx := ctx, once := false,
              phase := .sent, merged := none, age := s.now, back := false, fills := [], noFill := false }

def postWrite (s : State) (agent : Agent) (ctx pa : Nat) (b : List Byte) (pois : Bool) : Nat × State :=
  postBytes s agent ctx pa b pois false 0

/-- A posted write of the Framer that is a release of a scope (Table 09.2). -/
def postRelease (s : State) (ctx pa : Nat) (b : List Byte) (scope : Nat) : Nat × State :=
  postBytes s .framer ctx pa b false true scope

/-! ## Context faults -/

/-- What an instruction's fault reports: code (Table 17.1), lanes, KIND, ADDR and OTHER of Table 02.6. -/
structure FaultInfo where
  code : Nat
  lanes : BitVec 16
  kind : Nat
  addr : Nat
  other : Nat
  deriving DecidableEq, Repr

/-- The 64 B fault record (Table 02.6). DEDUCED, log 17. -/
def faultRecord (s : State) (ctx core slot queue seq : Nat) (pc : W64) (i : FaultInfo) : Nat :=
  s.now * 2 ^ 448 + i.addr % 2 ^ 57 * 2 ^ 384 + pc.toNat % 2 ^ 57 * 2 ^ 320 + i.code * 2 ^ 304 + i.lanes.toNat * 2 ^ 288 +
  core * 2 ^ 272 + slot * 2 ^ 264 + i.kind * 2 ^ 256 + ctx * 2 ^ 240 + queue * 2 ^ 208 + seq % 2 ^ 64 * 2 ^ 128 +
  i.other % 2 ^ 64 * 2 ^ 64

/-- The stop of a context's whorls and queues (R77): whorls stop at an instruction boundary, started tile instructions are
abandoned and queued ones discarded. DEDUCED, log 17. -/
def stopContext (s : State) (ctx : Nat) : State :=
  let s1 := mapWhorls s (ownedBy s ctx) fun w => { w with stopped := true, tileQ := [], colls := [] }
  let s2 := { s1 with queues := s1.queues.map fun e =>
    if e.2.ctx = ctx then (e.1, { e.2 with st := .faulted, ahead := [], indLeft := 0 }) else e }
  match fget s2.ctxs ctx with
  | some c => s2.setCtx ctx { c with stopping := true, stopTime := s2.mod.time }
  | none => s2

/-- The Framer writes the fault record of a context that is due (R78), once its address is translated; an address that the
context may not write takes none. DEDUCED, log 17. -/
def writeFaultRecord (s : State) (ctx : Nat) : State :=
  match fget s.ctxs ctx with
  | none => s
  | some c =>
    if !c.frecDue then s
    else
      let put := fun (t : State) (due : Bool) (pa : Nat) => match fget t.ctxs ctx with
        | some d => t.setCtx ctx { d with frecDue := due, faultPa := pa }
        | none => t
      match translateAsk s .framer ctx .write c.frec.toNat 64 with
      | (.ok pa, s1) => (postWrite (put s1 false pa) .framer ctx pa (leBytes 64 (c.frec_ + c.more * 2 ^ 224)) false).2
      | (.wait, s1) => s1
      | (.ats port pasid page, s1) => askAts s1 c.f port pasid page
      | (_, s1) => put s1 false 0

/-- The Framer tries the fault records that wait for a translation. -/
def writeFaultRecords (s : State) : State :=
  ((s.ctxs.filter fun e => e.2.frecDue).map (·.1)).foldl writeFaultRecord s

/-- A fault of a context (R77, R78): the first one stops it and has its record written; of two at one device time the record is
that of the lower core; later ones advance MORE. DEDUCED, log 17. -/
def faultContext (s : State) (ctx core slot queue seq : Nat) (pc : W64) (i : FaultInfo) : State :=
  match fget s.ctxs ctx with
  | none => s
  | some c =>
    if c.fault ≠ 0 ∧ c.stopTime = s.mod.time ∧ core < c.frecCore then
      writeFaultRecord (s.setCtx ctx { c with fault := i.code, frec_ := faultRecord s ctx core slot queue seq pc i, frecDue := true,
                                              frecCore := core }) ctx
    else if c.fault ≠ 0 then
      let more := min 0xFFFF (c.more + (if c.stopTime = s.mod.time ∧ core < 12288 then 0 else 1))
      let s1 := s.setCtx ctx { c with more := more }
      if c.frecDue ∨ c.faultPa = 0 then s1 else (postWrite s1 .framer ctx (c.faultPa + 28) (leBytes 2 more) false).2
    else
      let s1 := stopContext (s.setCtx ctx { c with fault := i.code }) ctx
      let s2 := match fget s1.ctxs ctx with
        | some d => s1.setCtx ctx { d with frec_ := faultRecord s1 ctx core slot queue seq pc i, frecDue := true, frecCore := core }
        | none => s1
      writeFaultRecord s2 ctx

/-- A fault of the instruction that a whorl's current path issues. -/
def faultWhorl (s : State) (w : Wid) (pc : W64) (i : FaultInfo) : State :=
  match whorlOf s w with
  | none => s
  | some wh =>
    match fget s.kerns wh.kernel with
    | some k => faultContext s k.ctx w.core w.slot k.q k.seq pc i
    | none => s

/-! ## Paths -/

def Whorl.path? (wh : Whorl) (pid : Nat) : Option Path := wh.paths.find? fun p => p.pid == pid

/-- The current path. -/
def Whorl.curPath? (wh : Whorl) : Option Path := wh.path? wh.cur

def Whorl.setPath (wh : Whorl) (p : Path) : Whorl :=
  { wh with paths := wh.paths.map fun x => if x.pid == p.pid then p else x }

/-- Runnable: not waiting, not parked, not open at a collective (R55). -/
def Path.runnable (p : Path) : Bool :=
  match p.st with
  | .run => true
  | .released => true
  | _ => false

def Path.isParked (p : Path) : Bool :=
  match p.st with
  | .parked _ => true
  | _ => false

/-- Waiting or open at a collective (R53 leaves such paths alone). -/
def Path.isHeld (p : Path) : Bool :=
  match p.st with
  | .waiting _ => true
  | .coll _ _ => true
  | _ => false

/-- Merges a group of paths: the merged one takes the table position of the earliest of them (R53, R52, R58). -/
def mergePaths (ps : List Path) (inGroup : Path → Bool) (m : Path) : List Path :=
  match ps with
  | [] => []
  | p :: rest =>
    if inGroup p then m :: rest.filter (fun x => !inGroup x) else p :: mergePaths rest inGroup m

def unionLanes (ps : List Path) : BitVec 16 := ps.foldl (fun m p => m ||| p.lanes) 0#16

/-- R53: before an issue the current path merges with every path of equal program counter that is not held. A released path
continues past its join without merging (R54). -/
def mergeAtIssue (wh : Whorl) (c : Path) : Whorl :=
  if c.st = .released then wh
  else
    let g := fun (p : Path) => p.pid == c.pid || (p.pc == c.pc && !p.isHeld)
    let m := { c with lanes := unionLanes (wh.paths.filter g), st := .run }
    { wh with paths := mergePaths wh.paths g m }

/-- Does a path stand parked at the join of a split? -/
def parkedAt (sp : Nat) (p : Path) : Bool :=
  p.isParked && (match p.joins with
    | j :: _ => j.split == sp
    | [] => false)

/-- Is the path live in a split? -/
def inSplit (sp : Nat) (p : Path) : Bool := p.joins.any fun j => j.split == sp

/-- The first parked path all of whose split has reached the join (R52). -/
def completeSplit (wh : Whorl) : Option (Path × Join × List Join) :=
  wh.paths.findSome? fun p =>
    if p.isParked then
      match p.joins with
      | j :: rest => if wh.paths.all fun x => !inSplit j.split x || parkedAt j.split x then some (p, j, rest) else none
      | [] => some (p, { addr := p.pc, split := 0 }, [])
    else none

/-- Merges complete splits until none is left (R52); the merged path restores the previous join and becomes current, and
parks again where that join is its own address too. -/
def settle : Nat → Whorl → Whorl
  | 0, wh => wh
  | n + 1, wh =>
    match completeSplit wh with
    | none => wh
    | some (p, j, rest) =>
      let g := fun (x : Path) => x.pid == p.pid || parkedAt j.split x
      let again := match rest with
        | k :: _ => k.addr == p.pc
        | [] => false
      let m := { p with lanes := unionLanes (wh.paths.filter g), joins := rest,
                        st := if again then .parked wh.issues else .run }
      settle n { wh with paths := mergePaths wh.paths g m, cur := p.pid, curIssues := 0 }

/-- The path after the current one in cyclic table order that may run; the same one when no other can (R55). DEDUCED, log 16. -/
def nextRunnable (wh : Whorl) : Option Nat :=
  let after := (wh.paths.dropWhile fun p => p.pid != wh.cur).drop 1
  let before := wh.paths.takeWhile fun p => p.pid != wh.cur
  ((after ++ before ++ wh.paths).find? Path.runnable).map (·.pid)

/-- A switch event (R55). -/
def switchPath (wh : Whorl) : Whorl :=
  match nextRunnable wh with
  | some pid => { wh with cur := pid, curIssues := 0 }
  | none => { wh with curIssues := 0 }

/-- After an issue: a current path at its join parks, complete splits merge, and a current path that cannot go on gives
way. -/
def afterIssue (wh : Whorl) : Whorl :=
  let wh1 := match wh.curPath? with
    | some p =>
      (match p.st, p.joins with
       | .run, j :: _ => if j.addr = p.pc then wh.setPath { p with st := .parked wh.issues } else wh
       | _, _ => wh)
    | none => wh
  let wh2 := settle 24 wh1
  match wh2.curPath? with
  | some p => if p.runnable then wh2 else switchPath wh2
  | none => switchPath wh2

/-- Is a parked path due for release: 64 issues of the whorl since it parked (R54)? -/
def releaseDue (wh : Whorl) (p : Path) : Bool :=
  match p.st with
  | .parked since => decide (since + 64 ≤ wh.issues)
  | _ => false

/-! ## Readiness -/

/-- Is the core able to issue at all: used, not failed, its bay running, its domain ON, the device not felled (R449, R456,
R461)? Contexts run in SERVICE and RECOVERY only (Table 00.3). DEDUCED, log 59. -/
def coreRuns (s : State) (c : Nat) : Bool :=
  coreUsed s c && !(s.core c).failed && (s.dom (coreDomain s c)).st == .on && bayUp s (groveEnt s (coreGrove c)).bay &&
  !s.felled && contextsRun s

/-- Is a kernel resident and not being switched out? -/
def kernelRuns (s : State) (k : Nat) : Bool :=
  match fget s.kerns k with
  | some x => x.st == .resident
  | none => false

/-- The whorl and its current path, when it may issue: no switch event is due (R46, R54, R55). DEDUCED, log 15. -/
def readyPath (s : State) (w : Wid) : Option (Whorl × Path) :=
  if coreRuns s w.core then
    match whorlOf s w with
    | none => none
    | some wh =>
      if wh.stopped || !kernelRuns s wh.kernel || wh.paths.any (releaseDue wh) || decide (32 ≤ wh.curIssues) then none
      else match wh.curPath? with
        | some p => if p.runnable then some (wh, p) else none
        | none => none
  else none

/-- Registers that outstanding loads and atomics of a whorl still write (R83). -/
def pendingKeys (s : State) (w : Wid) : List Nat :=
  s.mem.reqs.flatMap fun r =>
    if r.agent == .core w.core w.slot && !r.back then
      match r.kind with
      | .load _ => regKeys (memWords r.size) r.dest
      | .atom _ => regKeys (memWords r.size) r.dest
      | _ => []
    else []

/-- Destinations of the WAITs of a whorl that have not returned (R83). DEDUCED, log 15. -/
def waitingKeys (wh : Whorl) : List Nat :=
  wh.paths.filterMap fun p => match p.st with
    | .waiting i => some i.dest
    | _ => none

/-- Does no outstanding result concern a list of registers? DEDUCED, log 15. -/
def scoreboardFree (s : State) (w : Wid) (wh : Whorl) (keys : List Nat) : Bool :=
  let pend := pendingKeys s w ++ waitingKeys wh
  keys.all fun k => !pend.contains k

/-! ## Instruction fetch -/

/-- One block more in an instruction cache of 32 sets of 4 ways, most recent first (Table 02.1). DEDUCED, log 87. -/
def icacheAdd (l : List (Nat × List Byte)) (b : Nat) (bytes : List Byte) : List (Nat × List Byte) :=
  let rest := l.filter fun x => x.1 != b
  let same := ((rest.filter fun x => x.1 % 32 == b % 32).take 3).map (·.1)
  (b, bytes) :: rest.filter fun x => x.1 % 32 != b % 32 || same.contains x.1

/-- The same in a grove's instruction cache of 128 sets of 8 ways, with the time of the fill (R20, R48). DEDUCED, log 87. -/
def groveAdd (l : List (Nat × Nat × List Byte)) (b at_ : Nat) (bytes : List Byte) : List (Nat × Nat × List Byte) :=
  let rest := l.filter fun x => x.1 != b
  let same := ((rest.filter fun x => x.1 % 128 == b % 128).take 7).map (·.1)
  (b, at_, bytes) :: rest.filter fun x => x.1 % 128 != b % 128 || same.contains x.1

/-- A block's bytes in the core's cache, or in the grove's where its line was filled since the kernel's start (R48). DEDUCED, log 87. -/
def blockCached (s : State) (c block started : Nat) : Option (List Byte) :=
  match (s.core c).icache.find? (fun x => x.1 == block) with
  | some x => some x.2
  | none =>
    match (fgetD s.mem.icFill (coreGrove c) []).find? (fun x => x.1 == block && decide (started ≤ x.2.1)) with
    | some x => some x.2.2
    | none => none

/-- A core takes a block: it is the most recent of the core's cache, and of the grove's cache where that served or fetched
it. -/
def takeBlock (s : State) (c block started : Nat) (bytes : List Byte) : State :=
  let k := s.core c
  let own := k.icache.any fun x => x.1 == block
  let g := coreGrove c
  let l := fgetD s.mem.icFill g []
  let at_ := match l.find? (fun x => x.1 == block && decide (started ≤ x.2.1)) with
    | some x => x.2.1
    | none => s.now
  let s1 := s.setCore c { k with icache := icacheAdd k.icache block bytes }
  if own then s1 else s1.setMem { s1.mem with icFill := fset s1.mem.icFill g (groveAdd l block at_ bytes) }

/-- Fetches the block of an instruction (R48): from the core's cache, from the grove's where its line was filled since the
kernel's start, or from memory. DEDUCED, log 87. -/
def fetchBlock (s : State) (c block started : Nat) : Option (List Byte × State) :=
  match blockCached s c block started with
  | some b => some (b, takeBlock s c block started b)
  | none =>
    match placeRead s (64 * block) 64 with
    | (_, true) => none
    | (b, false) => some (b, takeBlock (hitHome s (64 * block) 64 false 0) c block started b)

/-- What a fetch gives: the instruction word with caches filled, a fault (R98), or a wait for a host translation (R338). -/
inductive Fetch where
  | ok (word : W64) (s : State)
  | fault (i : FaultInfo) (s : State)
  | wait (s : State)

/-- Device time at which a whorl's kernel started on a core. -/
def startedAt (s : State) (wh : Whorl) (c : Nat) : Nat :=
  match fget s.kerns wh.kernel with
  | some k => fgetD k.startAt c k.placedAt
  | none => 0

def fetchAt (s : State) (w : Wid) (wh : Whorl) (p : Path) : Fetch :=
  let pc := p.pc.toNat
  let bad := fun (code kind : Nat) => { code := code, lanes := p.lanes, kind := kind, addr := pc, other := 0 : FaultInfo }
  if pc % 8 ≠ 0 then .fault (bad 2 4) s
  else
    match translateAsk s (.core w.core w.slot) (whorlCtx s wh) .fetch pc 8 with
    | (.wait, s1) => .wait s1
    | (.fault, s1) => .fault (bad 3 4) s1
    | (.poisoned, s1) => .fault (bad 4 36) s1
    | (.ats port pasid page, s1) => .wait (askAts s1 ((ctxFn s1 (whorlCtx s1 wh)).getD 0) port pasid page)
    | (.ok pa, s1) =>
      let started := startedAt s1 wh w.core
      match (if (blockCached s1 w.core (pa / 64) started).isSome then none
             else placeAsk s1 (.core w.core w.slot) (pa / 64 * 64) 64) with
      | some s2 => .wait s2
      | none =>
        match fetchBlock s1 w.core (pa / 64) started with
        | some (b, s2) => .ok (BitVec.ofNat 64 (leNat ((b.drop (pa % 64)).take 8))) s2
        | none => .fault (bad 4 4) s1

/-! ## The issue of one instruction -/

/-- What an instruction does once it issues. -/
inductive Done where
  | next (s : State)                     -- done; the path goes on at the next instruction
  | jumped (s : State)                   -- done; the paths stand where the instruction put them
  | away (s : State)                     -- done; the path goes on at the next instruction, and gives way (R55)
  | fault (i : FaultInfo) (s : State)    -- it faults; the state has at most new cached translations
  | stay                                 -- not ready (R46)
  | held (s : State)                     -- not ready: a host translation has been asked for (R338)

/-- Counts one issue in the whorl, its core's counters and its domain's activity (Table 18.1, R389). -/
def countIssue (s : State) (w : Wid) (threads : Nat) (simt : Bool) : State :=
  let g := coreDomain s w.core
  let s0 := s.setDom g { s.dom g with issued := true, idleSince := s.now }
  let s1 := if simt then s0.setCore w.core { s0.core w.core with simtRr := w.slot } else s0
  if simt then count (count (count s1 (coreBank w.core 1) 0 1) (coreBank w.core 1) 3 1) (coreBank w.core 1) 4 threads
  else s1

/-- The whorl one issue later. -/
def Whorl.issued (wh : Whorl) : Whorl := { wh with issues := wh.issues + 1, curIssues := wh.curIssues + 1 }

/-- Moves a path of a whorl past its instruction; a released path has left its join (R54). -/
def stepPath (wh : Whorl) (pid : Nat) : Whorl :=
  match wh.path? pid with
  | some p => wh.setPath { p with pc := p.pc + 8, st := if p.st = .released then .run else p.st }
  | none => wh

/-- The whorl after a switch event of the path that issued: another runnable one is current, or it goes on with its count of
32 begun again (R55). -/
def giveWay (wh : Whorl) (pid : Nat) : Whorl := if wh.cur = pid then switchPath wh else { wh with curIssues := 0 }

/-- The whorl once its path pid has issued: the paths settle. `adv` moves the issuing path to its next instruction, `away` makes
it give way. -/
def closeWhorl (wh : Whorl) (pid : Nat) (adv away : Bool) : Whorl :=
  let wh1 := afterIssue (if adv then stepPath wh pid else wh).issued
  if away ∨ wh1.cur ≠ pid then giveWay wh1 pid else wh1

/-- Closes an issue: settles the paths of its whorl and counts it. -/
def closeIssue (s : State) (w : Wid) (pid : Nat) (adv away simt : Bool) (threads : Nat) : State :=
  match whorlOf s w with
  | none => s
  | some wh => countIssue (putWhorl s w (closeWhorl wh pid adv away)) w threads simt

/-- The word that the current path of a whorl has fetched already, in its core's own cache. -/
def fetchedWord (s : State) (w : Wid) (wh : Whorl) (p : Path) : Option W64 :=
  match (translate s (whorlCtx s wh) .fetch p.pc.toNat 8).1 with
  | .ok pa => ((s.core w.core).icache.find? fun x => x.1 == pa / 64).map fun x =>
      BitVec.ofNat 64 (leNat ((x.2.drop (pa % 64)).take 8))
  | _ => none

/-- Does a word name a SIMT instruction that waits for nothing but registers? -/
def registerOnly (w : W64) : Bool :=
  let opc := (w.extractLsb' 58 6).toNat
  decide (2 ≤ opc ∧ opc < 0x18) || opc == 0x20 || opc == 0x21 || (opc == 0 && decide ((w.extractLsb' 47 7).toNat < 2))

/-- Is a whorl ready for the SIMT slot beyond doubt: it may issue, its instruction is fetched, takes registers alone, and nothing
of the whorl is outstanding (R46)? DEDUCED, log 16. -/
def surelyReady (s : State) (w : Wid) : Bool :=
  match readyPath s w with
  | some (wh, p) =>
    !(s.mem.reqs.any fun r => r.agent == .core w.core w.slot) && (waitingKeys wh).isEmpty &&
      ((fetchedWord s w wh p).map registerOnly).getD false
  | none => false

/-- How many slots after the last one that issued a slot comes, round robin. -/
def slotTurn (s : State) (core slot : Nat) : Nat := (slot + 15 - (s.core core).simtRr % 8) % 8

/-- Is it a whorl's turn: does no whorl that is ready beyond doubt come before it in round-robin order of slots (R46, R56)?
DEDUCED, log 16. -/
def simtTurn (s : State) (w : Wid) : Bool :=
  (s.core w.core).slots.all fun e => decide (slotTurn s w.core w.slot ≤ slotTurn s w.core e.1) || !surelyReady s ⟨w.core, e.1⟩

/-- The whorl and path that may take the SIMT slot, or a TILE slot. -/
def issuePath (s : State) (w : Wid) (simt : Bool) : Option (Whorl × Path) :=
  if simt && !simtTurn s w then none else readyPath s w

/-- Issues one instruction of the current path of a whorl: merging, fetch, the legality of its fields, its effect, and what
follows. A whorl that is not ready issues nothing, and none issues an instruction other than the word at its program counter,
`code`; a word with no defined function is an illegal instruction (R85). `keys` are the registers it reads and writes.
DESIGN CHOICE, log 13; DEDUCED, log 16. -/
def issueInstr (s : State) (w : Wid) (simt : Bool) (code : W64) (gn : BitVec 1) (gp : BitVec 3) (legal : Bool) (keys : List Nat)
    (body : State → Whorl → Path → Done) : State :=
  match issuePath s w simt with
  | none => s
  | some (wh0, c) =>
    let wh := mergeAtIssue wh0 c
    match wh.curPath? with
    | none => s
    | some p =>
      match fetchAt (putWhorl s w wh) w wh p with
      | .wait s1 => s1
      | .fault i s1 => faultWhorl s1 w p.pc i
      | .ok word s1 =>
        if !wordDefined word then faultWhorl s1 w p.pc { code := 1, lanes := p.lanes, kind := 0, addr := 0, other := 0 }
        else if word ≠ code then s
        else if !legal then faultWhorl s1 w p.pc { code := 1, lanes := p.lanes, kind := 0, addr := 0, other := 0 }
        else if !scoreboardFree s1 w wh keys then s
        else
          match body s1 wh p with
          | .stay => s
          | .held s2 => s2
          | .fault i s2 => faultWhorl s2 w p.pc i
          | .next s2 => closeIssue s2 w p.pid true false simt (execLanes wh p gn gp).length
          | .jumped s2 => closeIssue s2 w p.pid false false simt (execLanes wh p gn gp).length
          | .away s2 => closeIssue s2 w p.pid true true simt (execLanes wh p gn gp).length

/-- Issues an instruction that only changes the registers of its whorl. -/
def issueRegs (s : State) (w : Wid) (code : W64) (gn : BitVec 1) (gp : BitVec 3) (legal : Bool) (keys : List Nat)
    (f : Whorl → Path → Whorl) : State :=
  issueInstr s w true code gn gp legal keys fun s1 wh p => .next (putWhorl s1 w (f wh p))

end Sys2Proof.Machine
end

