-- ==== Sys2Proof/Machine/Integer.lean ====
section
/-! DEFINITION. Integer, bit, compare, predicate and select instructions (Table 03.11, R85 to R87). -/

namespace Sys2Proof.Machine

/-! ## Results -/

/-- A signed or unsigned reading of an operand. -/
def readInt (signed : Bool) (n v : Nat) : Int := if signed then signedOf n v else ((v % 2 ^ n : Nat) : Int)

def minInt (signed : Bool) (n a b : Nat) : Nat := if readInt signed n a ≤ readInt signed n b then a % 2 ^ n else b % 2 ^ n
def maxInt (signed : Bool) (n a b : Nat) : Nat := if readInt signed n b ≤ readInt signed n a then a % 2 ^ n else b % 2 ^ n

/-- Arithmetic right shift by b mod n. -/
def sarInt (n a b : Nat) : Nat := patternOf n (signedOf n a / (2 ^ (b % n) : Nat))

/-- Absolute value, wrapping (R87). -/
def absInt (signed : Bool) (n a : Nat) : Nat := if signed then patternOf n (Int.natAbs (signedOf n a)) else a % 2 ^ n

/-- The high half of a product. -/
def mulHigh (signed : Bool) (n a b : Nat) : Nat :=
  patternOf n (readInt signed n a * readInt signed n b / (2 ^ n : Nat))

/-- Division truncated toward zero; by zero all ones (R87). -/
def divInt (signed : Bool) (n a b : Nat) : Nat :=
  if b % 2 ^ n = 0 then 2 ^ n - 1 else patternOf n ((readInt signed n a).tdiv (readInt signed n b))

/-- A - (A / B) × B; by zero A (R87). -/
def remInt (signed : Bool) (n a b : Nat) : Nat :=
  if b % 2 ^ n = 0 then a % 2 ^ n else patternOf n ((readInt signed n a).tmod (readInt signed n b))

def onesCount (n a : Nat) : Nat := countTo n a.testBit

/-- Zeros above the highest 1 bit of the low n bits. -/
def leadZeros (n a : Nat) : Nat := if a % 2 ^ n = 0 then n else n - 1 - Nat.log2 (a % 2 ^ n)

def revBits (n a : Nat) : Nat :=
  (List.range n).foldl (fun r i => if a.testBit i then r + 2 ^ (n - 1 - i) else r) 0

/-- FLDX: a field that runs past the top ends there and, signed, extends from the register's top bit (R87). -/
def fieldExtract (signed : Bool) (n a c : Nat) : Nat :=
  let start := c % 256
  let len := min (c / 256 % 256) (n - start)
  if len = 0 then 0
  else
    let v := a % 2 ^ n / 2 ^ start % 2 ^ len
    if signed then patternOf n (signedOf len v) else v

/-- FLDI: B with the low bits of A inserted at the start (R87). -/
def fieldInsert (n a b c : Nat) : Nat :=
  let start := c % 256
  let len := min (c / 256 % 256) (n - start)
  let b := b % 2 ^ n
  if len = 0 then b else b - b / 2 ^ start % 2 ^ len * 2 ^ start + a % 2 ^ len * 2 ^ start

/-! ## The two forms -/

/-- Register operands of a list of fields as scoreboard keys. -/
def regsOf (wide : Bool) (l : List (BitVec 7)) : List Nat := l.flatMap (regKeys (if wide then 2 else 1))

/-- An IALU instruction of format Reg, IMUL, IDIV: D from A and B. -/
def regBinary (s : State) (w : Wid) (c : Code) (f : FReg) (op : Bool → Nat → Nat → Nat → Nat) : State :=
  let wide := regWide f
  issueRegs s w (regWord c f) f.gn f.gp (legalInt3 f) (regsOf wide [f.d, f.a, f.b]) fun wh p =>
    wh.dest p f.gn f.gp wide (f.ty == 0#4) f.d fun l =>
      op (tySigned f.ty.toNat) (regWidth f) (wh.src wide l f.a) (wh.src wide l f.b)

/-- D from A alone. -/
def regUnary (s : State) (w : Wid) (c : Code) (f : FReg) (op : Bool → Nat → Nat → Nat) : State :=
  let wide := regWide f
  issueRegs s w (regWord c f) f.gn f.gp (legalInt2 f) (regsOf wide [f.d, f.a]) fun wh p =>
    wh.dest p f.gn f.gp wide (f.ty == 0#4) f.d fun l => op (tySigned f.ty.toNat) (regWidth f) (wh.src wide l f.a)

/-- D from A, B and C. -/
def regTernary (s : State) (w : Wid) (c : Code) (f : FReg) (legal : Bool) (regs : List (BitVec 7))
    (op : Bool → Nat → Nat → Nat → Nat → Nat) : State :=
  let wide := regWide f
  issueRegs s w (regWord c f) f.gn f.gp legal (regsOf wide regs) fun wh p =>
    wh.dest p f.gn f.gp wide (f.ty == 0#4) f.d fun l =>
      op (tySigned f.ty.toNat) (regWidth f) (wh.src wide l f.a) (wh.src wide l f.b) (wh.src wide l f.c)

/-- An IALUI instruction: D from A and the immediate; its signedness is the function's own (R86). -/
def immBinary (s : State) (w : Wid) (c : Code) (f : FImm) (legal : Bool) (signed : Bool) (op : Bool → Nat → Nat → Nat → Nat) : State :=
  let wide := immWide f
  issueRegs s w (immWord c f) f.gn f.gp legal (regsOf wide [f.d, f.a]) fun wh p =>
    wh.dest p f.gn f.gp wide false f.d fun l => op signed (immWidth f) (wh.src wide l f.a) (immValue f)

/-- A function that comes in IALU and in IALUI. -/
def aluBinary (s : State) (w : Wid) (fn : BitVec 7) (f : FAlu) (immSigned : Bool) (op : Bool → Nat → Nat → Nat → Nat) : State :=
  match f with
  | .reg r => regBinary s w ⟨0x08, fn⟩ r op
  | .imm i => immBinary s w ⟨0x09, fn⟩ i (legalImm i) immSigned op

/-! ## IALU and IALUI -/

def execIadd (w : Wid) (f : FAlu) (s : State) : Host.Outcome State Fault Refusal :=
  .next (aluBinary s w 0 f false fun _ n a b => (a + b) % 2 ^ n)

def execIsub (w : Wid) (f : FAlu) (s : State) : Host.Outcome State Fault Refusal :=
  .next (aluBinary s w 1 f false fun _ n a b => patternOf n ((a : Int) - b))

def execImin (w : Wid) (f : FAlu) (s : State) : Host.Outcome State Fault Refusal := .next (aluBinary s w 2 f true minInt)

def execImax (w : Wid) (f : FAlu) (s : State) : Host.Outcome State Fault Refusal := .next (aluBinary s w 3 f true maxInt)

def execAnd (w : Wid) (f : FAlu) (s : State) : Host.Outcome State Fault Refusal :=
  .next (aluBinary s w 4 f false fun _ _ a b => a &&& b)

def execOr (w : Wid) (f : FAlu) (s : State) : Host.Outcome State Fault Refusal :=
  .next (aluBinary s w 5 f false fun _ _ a b => a ||| b)

def execXor (w : Wid) (f : FAlu) (s : State) : Host.Outcome State Fault Refusal :=
  .next (aluBinary s w 6 f false fun _ _ a b => a ^^^ b)

def execShl (w : Wid) (f : FAlu) (s : State) : Host.Outcome State Fault Refusal :=
  .next (aluBinary s w 7 f false fun _ n a b => a * 2 ^ (b % n) % 2 ^ n)

def execShr (w : Wid) (f : FAlu) (s : State) : Host.Outcome State Fault Refusal :=
  .next (aluBinary s w 8 f false fun _ n a b => a % 2 ^ n / 2 ^ (b % n))

def execSar (w : Wid) (f : FAlu) (s : State) : Host.Outcome State Fault Refusal :=
  .next (aluBinary s w 9 f true fun _ n a b => sarInt n a b)

def execIabs (w : Wid) (f : FAlu) (s : State) : Host.Outcome State Fault Refusal :=
  match f with
  | .reg r => .next (regUnary s w ⟨0x08, 10⟩ r absInt)
  | .imm i => .next (immBinary s w ⟨0x09, 10⟩ i (legalImm i && i.imm == 0#32) true fun g n a _ => absInt g n a)

def execMovi (w : Wid) (f : FImm) (s : State) : Host.Outcome State Fault Refusal :=
  .next (immBinary s w ⟨0x09, 0x10⟩ f (legalImm f && f.a == 0#7) false fun _ _ _ b => b)

/-- MOVHI keeps bits 31:0 of D (Table 03.11) and requires W = 1 (R86). -/
def execMovhi (w : Wid) (f : FImm) (s : State) : Host.Outcome State Fault Refusal :=
  .next (issueRegs s w (immWord ⟨0x09, 0x11⟩ f) f.gn f.gp (legalImm f && f.a == 0#7 && f.w == 1#1) (regsOf true [f.d]) fun wh p =>
    wh.dest p f.gn f.gp true false f.d fun l => wh.src true l f.d % 2 ^ 32 + f.imm.toNat * 2 ^ 32)

/-! ## IMUL, IDIV and BIT -/

def execImul (w : Wid) (f : FReg) (s : State) : Host.Outcome State Fault Refusal :=
  .next (regBinary s w ⟨0x0A, 0⟩ f fun _ n a b => a * b % 2 ^ n)

def execImulhi (w : Wid) (f : FReg) (s : State) : Host.Outcome State Fault Refusal := .next (regBinary s w ⟨0x0A, 1⟩ f mulHigh)

def execImad (w : Wid) (f : FReg) (s : State) : Host.Outcome State Fault Refusal :=
  .next (regTernary s w ⟨0x0A, 2⟩ f (legalInt4 f) [f.d, f.a, f.b, f.c] fun _ n a b c => (a * b + c) % 2 ^ n)

def execIdiv (w : Wid) (f : FReg) (s : State) : Host.Outcome State Fault Refusal := .next (regBinary s w ⟨0x0B, 0⟩ f divInt)

def execIrem (w : Wid) (f : FReg) (s : State) : Host.Outcome State Fault Refusal := .next (regBinary s w ⟨0x0B, 1⟩ f remInt)

def execOnes (w : Wid) (f : FReg) (s : State) : Host.Outcome State Fault Refusal :=
  .next (regUnary s w ⟨0x0C, 0⟩ f fun _ n a => onesCount n a)

def execZlead (w : Wid) (f : FReg) (s : State) : Host.Outcome State Fault Refusal :=
  .next (regUnary s w ⟨0x0C, 1⟩ f fun _ n a => leadZeros n a)

def execBitrev (w : Wid) (f : FReg) (s : State) : Host.Outcome State Fault Refusal :=
  .next (regUnary s w ⟨0x0C, 2⟩ f fun _ n a => revBits n a)

def execFldx (w : Wid) (f : FReg) (s : State) : Host.Outcome State Fault Refusal :=
  .next (regTernary s w ⟨0x0C, 3⟩ f (legalFldx f) [f.d, f.a, f.c] fun g n a _ c => fieldExtract g n a c)

def execFldi (w : Wid) (f : FReg) (s : State) : Host.Outcome State Fault Refusal :=
  .next (regTernary s w ⟨0x0C, 4⟩ f (legalInt4 f) [f.d, f.a, f.b, f.c] fun _ n a b c => fieldInsert n a b c)

/-! ## Compares -/

/-- Legality of SETP: integer types; D names a predicate. -/
def legalSetp (f : FReg) : Bool :=
  usedOnly f { UseReg.none with d := true, a := true, b := true, ty := true } && intTy f.ty && predOk f.d &&
  pairOk (regWide f) f.a && pairOk (regWide f) f.b

def legalSetpi (f : FImm) : Bool := guardOk f.gn f.gp && predOk f.d && pairOk (immWide f) f.a

/-- Legality of FSETP: F32, F16 and BF16 only (R88). -/
def legalFsetp (f : FReg) : Bool :=
  usedOnly f { UseReg.none with d := true, a := true, b := true, ty := true } &&
  (f.ty == 4#4 || f.ty == 5#4 || f.ty == 6#4) && predOk f.d && regOk f.a && regOk f.b

/-- An instruction that writes a predicate of every thread whose guard is 1. -/
def issuePred (s : State) (w : Wid) (code : W64) (gn : BitVec 1) (gp : BitVec 3) (legal : Bool) (keys : List Nat) (pd : BitVec 7)
    (f : Whorl → Nat → Bool) : State :=
  issueRegs s w code gn gp legal keys fun wh p => wh.psetAll pd.toNat (f wh) (execLanes wh p gn gp)

/-- FSETP with a test of the two values. -/
def fsetpIssue (s : State) (w : Wid) (fn : BitVec 7) (f : FReg) (t : FV → FV → Bool) : State :=
  issuePred s w (regWord ⟨0x13, fn⟩ f) f.gn f.gp (legalFsetp f) (regsOf false [f.a, f.b]) f.d fun wh l =>
    t (elemValue f.ty.toNat (wh.src false l f.a)) (elemValue f.ty.toNat (wh.src false l f.b))

/-- A compare in its three majors; SETPI compares signed (R86). -/
def compareIssue (s : State) (w : Wid) (fn : BitVec 7) (f : FCmp) (op : CmpOp) : State :=
  match f with
  | .setp r =>
    issuePred s w (regWord ⟨0x0D, fn⟩ r) r.gn r.gp (legalSetp r) (regsOf (regWide r) [r.a, r.b]) r.d fun wh l =>
      icmp op (tySigned r.ty.toNat) (regWidth r) (wh.src (regWide r) l r.a) (wh.src (regWide r) l r.b)
  | .setpi i =>
    issuePred s w (immWord ⟨0x0E, fn⟩ i) i.gn i.gp (legalSetpi i) (regsOf (immWide i) [i.a]) i.d fun wh l =>
      icmp op true (immWidth i) (wh.src (immWide i) l i.a) (immValue i)
  | .fsetp r => fsetpIssue s w fn r (fcmp op)

def execEq (w : Wid) (f : FCmp) (s : State) : Host.Outcome State Fault Refusal := .next (compareIssue s w 0 f .eq)
def execNe (w : Wid) (f : FCmp) (s : State) : Host.Outcome State Fault Refusal := .next (compareIssue s w 1 f .ne)
def execLt (w : Wid) (f : FCmp) (s : State) : Host.Outcome State Fault Refusal := .next (compareIssue s w 2 f .lt)
def execLe (w : Wid) (f : FCmp) (s : State) : Host.Outcome State Fault Refusal := .next (compareIssue s w 3 f .le)
def execGt (w : Wid) (f : FCmp) (s : State) : Host.Outcome State Fault Refusal := .next (compareIssue s w 4 f .gt)
def execGe (w : Wid) (f : FCmp) (s : State) : Host.Outcome State Fault Refusal := .next (compareIssue s w 5 f .ge)

def execNum (w : Wid) (f : FReg) (s : State) : Host.Outcome State Fault Refusal :=
  .next (fsetpIssue s w 6 f fun a b => !fvIsNan a && !fvIsNan b)

def execNan (w : Wid) (f : FReg) (s : State) : Host.Outcome State Fault Refusal :=
  .next (fsetpIssue s w 7 f fun a b => fvIsNan a || fvIsNan b)

/-! ## Predicates and select -/

/-- Legality of PAND, POR and PXOR: pd, pa and pb. -/
def legalPred (f : FReg) : Bool :=
  usedOnly f { UseReg.none with d := true, a := true, b := true } && predOk f.d && predOk f.a && predOk f.b

def predIssue (s : State) (w : Wid) (fn : BitVec 7) (f : FReg) (op : Bool → Bool → Bool) : State :=
  issuePred s w (regWord ⟨0x14, fn⟩ f) f.gn f.gp (legalPred f) [] f.d fun wh l => op (wh.pget l f.a.toNat) (wh.pget l f.b.toNat)

def execPand (w : Wid) (f : FReg) (s : State) : Host.Outcome State Fault Refusal := .next (predIssue s w 0 f and)
def execPor (w : Wid) (f : FReg) (s : State) : Host.Outcome State Fault Refusal := .next (predIssue s w 1 f or)
def execPxor (w : Wid) (f : FReg) (s : State) : Host.Outcome State Fault Refusal := .next (predIssue s w 2 f xor)

def execPnot (w : Wid) (f : FReg) (s : State) : Host.Outcome State Fault Refusal :=
  .next (issuePred s w (regWord ⟨0x14, 3⟩ f) f.gn f.gp
    (usedOnly f { UseReg.none with d := true, a := true } && predOk f.d && predOk f.a) [] f.d
    fun wh l => !wh.pget l f.a.toNat)

/-- SEL accepts TY 0x0 to 0x4 (R86): D = PS ? A : B. -/
def execSel (w : Wid) (f : FReg) (s : State) : Host.Outcome State Fault Refusal :=
  let wide := regWide f
  .next (issueRegs s w (regWord ⟨0x14, 4⟩ f) f.gn f.gp
    (usedOnly f { UseReg.none with d := true, a := true, b := true, ty := true, ps := true } && decide (f.ty.toNat < 5) &&
      pairOk wide f.d && pairOk wide f.a && pairOk wide f.b)
    (regsOf wide [f.d, f.a, f.b]) fun wh p =>
      wh.dest p f.gn f.gp wide (f.ty == 0#4) f.d fun l =>
        if wh.pget l f.ps.toNat then wh.src wide l f.a else wh.src wide l f.b)

end Sys2Proof.Machine
end

