-- ==== Sys2Proof/Machine/Float.lean ====
section
/-! DEFINITION. Floating-point, special-function and conversion instructions (Table 03.12, R88 to R90, R147 to R151). -/

namespace Sys2Proof.Machine

/-! ## FALU (R88) -/

/-- Legality of FALU: F32, F16x2 and BF16x2; RND 00 or 01; B and C as the function uses them. -/
def legalFalu (f : FReg) (b c : Bool) : Bool :=
  usedOnly f { UseReg.none with d := true, a := true, b := b, c := c, ty := true, rnd := true } &&
  (f.ty == 4#4 || f.ty == 7#4 || f.ty == 8#4) && decide (f.rnd.toNat < 2) &&
  regOk f.d && regOk f.a && regOk f.b && regOk f.c

/-- A function applied to F32 values, or to each half of packed ones, and rounded (R88). -/
def faluValue (f : FReg) (op : FV → FV → FV → FV) (a b c : Nat) : Nat :=
  let ty := f.ty.toNat
  match tyFmt ty with
  | none => 0
  | some fmt =>
    let one := fun (x y z : Nat) => fvEncode fmt f.rnd.toNat false 0 (op (fvDecode fmt x) (fvDecode fmt y) (fvDecode fmt z))
    if tyPacked ty then
      one (a % 65536) (b % 65536) (c % 65536) + 65536 * one (a / 65536) (b / 65536) (c / 65536)
    else one a b c

def faluIssue (s : State) (w : Wid) (fn : BitVec 7) (f : FReg) (useB useC : Bool) (op : FV → FV → FV → FV) : State :=
  issueRegs s w (regWord ⟨0x10, fn⟩ f) f.gn f.gp (legalFalu f useB useC)
    (regsOf false ([f.d, f.a] ++ (if useB then [f.b] else []) ++ (if useC then [f.c] else []))) fun wh p =>
      wh.dest p f.gn f.gp false false f.d fun l =>
        faluValue f op (wh.src false l f.a) (wh.src false l f.b) (wh.src false l f.c)

/-- The value with its sign cleared. -/
def fvAbs : FV → FV
  | .nan => .nan
  | .inf _ => .inf false
  | .fin _ m e => .fin false m e

def execFadd (w : Wid) (f : FReg) (s : State) : Host.Outcome State Fault Refusal :=
  .next (faluIssue s w 0 f true false fun a b _ => fvAdd a b)

def execFsub (w : Wid) (f : FReg) (s : State) : Host.Outcome State Fault Refusal :=
  .next (faluIssue s w 1 f true false fun a b _ => fvAdd a (fvNeg b))

def execFmul (w : Wid) (f : FReg) (s : State) : Host.Outcome State Fault Refusal :=
  .next (faluIssue s w 2 f true false fun a b _ => fvMul a b)

def execFfma (w : Wid) (f : FReg) (s : State) : Host.Outcome State Fault Refusal :=
  .next (faluIssue s w 3 f true true fun a b c => fvAdd (fvMul a b) c)

def execFmin (w : Wid) (f : FReg) (s : State) : Host.Outcome State Fault Refusal :=
  .next (faluIssue s w 4 f true false fun a b _ => fvMin a b)

def execFmax (w : Wid) (f : FReg) (s : State) : Host.Outcome State Fault Refusal :=
  .next (faluIssue s w 5 f true false fun a b _ => fvMax a b)

def execFabs (w : Wid) (f : FReg) (s : State) : Host.Outcome State Fault Refusal :=
  .next (faluIssue s w 6 f false false fun a _ _ => fvAbs a)

def execFneg (w : Wid) (f : FReg) (s : State) : Host.Outcome State Fault Refusal :=
  .next (faluIssue s w 7 f false false fun a _ _ => fvNeg a)

/-! ## FSFU (R89) -/

def legalFsfu (f : FReg) : Bool :=
  usedOnly f { UseReg.none with d := true, a := true, ty := true } && f.ty == 4#4 && regOk f.d && regOk f.a

/-- A special function of every executing thread. Where the spec states no value, each lane takes a free one: sixteen are
drawn whatever lanes run. -/
def fsfuIssue (s : State) (w : Wid) (f : FReg) (fn : Nat) : State :=
  issueInstr s w true (regWord ⟨0x11, BitVec.ofNat 7 fn⟩ f) f.gn f.gp (legalFsfu f) (regsOf false [f.d, f.a]) fun s1 wh p =>
    let base := s1.free
    .next (putWhorl { s1 with free := base + 16 } w
      (wh.dest p f.gn f.gp false false f.d fun l =>
        fsfuResult fn (wh.src false l f.a) ((Config.freeWord (base + l)).toNat % 2 ^ 32)))

def execFrcp (w : Wid) (f : FReg) (s : State) : Host.Outcome State Fault Refusal := .next (fsfuIssue s w f 0)
def execFrsq (w : Wid) (f : FReg) (s : State) : Host.Outcome State Fault Refusal := .next (fsfuIssue s w f 1)
def execFsqrt (w : Wid) (f : FReg) (s : State) : Host.Outcome State Fault Refusal := .next (fsfuIssue s w f 2)
def execFex2 (w : Wid) (f : FReg) (s : State) : Host.Outcome State Fault Refusal := .next (fsfuIssue s w f 3)
def execFlg2 (w : Wid) (f : FReg) (s : State) : Host.Outcome State Fault Refusal := .next (fsfuIssue s w f 4)
def execFsin (w : Wid) (f : FReg) (s : State) : Host.Outcome State Fault Refusal := .next (fsfuIssue s w f 5)
def execFcos (w : Wid) (f : FReg) (s : State) : Host.Outcome State Fault Refusal := .next (fsfuIssue s w f 6)

/-! ## The stochastic generator (R148) -/

/-- One draw: the new state, whose bits 63:48 are the draw. -/
def genStep (g : W64) : W64 :=
  let a := g ^^^ (g <<< 13)
  let b := a ^^^ (a >>> 7)
  b ^^^ (b <<< 17)

/-- The state at the first binding of a context to a core (R148). -/
def genSeed (seed : W64) (core : Nat) : W64 :=
  let x := seed ^^^ (BitVec.ofNat 64 (core + 1) * 0x9E3779B97F4A7C15#64)
  if x = 0#64 then 0x9E3779B97F4A7C15#64 else x

/-- The generator of a context on a core; one never bound there starts from its seed. -/
def genOf (s : State) (core ctx : Nat) : W64 :=
  match fget s.ctxs ctx with
  | some c => (fget c.gens core).getD (genSeed c.seed core)
  | none => genSeed 0#64 core

def setGen (s : State) (core ctx : Nat) (g : W64) : State :=
  match fget s.ctxs ctx with
  | some c => s.setCtx ctx { c with gens := fset c.gens core g }
  | none => s

/-! ## CVT (R90, R151) -/

def isIntTy (t : Nat) : Bool := decide (t < 4) || t == 11 || t == 12

/-- Legality of CVT (R81, R84, R90). -/
def legalCvt (f : FReg) : Bool :=
  let src := f.b.toNat
  let dst := f.ty.toNat
  usedOnly f { UseReg.none with d := true, a := true, b := true, ty := true, rnd := true, sat := true } &&
  decide (src < 13) && decide (dst < 13) && f.rnd != 3#2 && !(f.rnd == 2#2 && isIntTy dst) &&
  (f.sat == 0#1 || dst == 9 || dst == 10) && pairOk (tyWide src) f.a && pairOk (tyWide dst) f.d

/-- One lane's conversion: the result and the generator after its draws. -/
def cvtLane (f : FReg) (g : W64) (v : Nat) : Nat × W64 :=
  let src := f.b.toNat
  let dst := f.ty.toNat
  let rnd := f.rnd.toNat
  let sat := f.sat == 1#1
  let step := fun (x : W64) => if rnd = 2 then genStep x else x
  let g1 := step g
  let lo := elemConvert dst rnd sat (g1.toNat / 2 ^ 48) (elemValue src v)
  if tyPacked dst then
    if tyPacked src then
      let g2 := step g1
      (lo + 65536 * elemConvert dst rnd sat (g2.toNat / 2 ^ 48) (elemValue src (v / 65536)), g2)
    else (lo * 65537, g1)
  else (lo, g1)

/-- The conversions of a list of lanes in ascending order: results by lane, and the generator. -/
def cvtLanes (f : FReg) (v : Nat → Nat) : List Nat → W64 → List (Nat × Nat) × W64
  | [], g => ([], g)
  | l :: ls, g =>
    let (r, g1) := cvtLane f g (v l)
    let (rs, g2) := cvtLanes f v ls g1
    ((l, r) :: rs, g2)

/-- The result of a lane in a list of results. -/
def laneResult (rs : List (Nat × Nat)) (l : Nat) : Nat := ((rs.find? fun r => r.1 == l).map (·.2)).getD 0

def execCvt (w : Wid) (f : FReg) (s : State) : Host.Outcome State Fault Refusal :=
  let wideA := tyWide f.b.toNat
  let wideD := regWide f
  .next (issueInstr s w true (regWord ⟨0x12, 0⟩ f) f.gn f.gp (legalCvt f) (regsOf wideD [f.d] ++ regsOf wideA [f.a]) fun s1 wh p =>
    let ctx := whorlCtx s1 wh
    let (rs, g) := cvtLanes f (fun l => wh.src wideA l f.a) (runLanes wh p f.gn f.gp (isU f.d)) (genOf s1 w.core ctx)
    let s2 := if f.rnd = 2#2 then setGen s1 w.core ctx g else s1
    .next (putWhorl s2 w (wh.dest p f.gn f.gp wideD (f.ty == 0#4) f.d (laneResult rs))))

end Sys2Proof.Machine
end

