-- ==== Sys2Proof/Machine/Array.lean ====
section
/-! DEFINITION. The operands of tile instructions in the core's own store: tile types, ranges, and what a queued instruction
holds back (R100, R111, R115, R118 to R121, R124, R130). -/

namespace Sys2Proof.Machine

/-! ## Tile types (Table 03.10) -/

/-- Elements of K per pass. -/
def tileK (ty : Nat) : Nat :=
  match ty with
  | 0 => 4
  | 1 => 4
  | 5 => 16
  | 8 => 16
  | 9 => 16
  | 10 => 16
  | _ => 8

/-- Bits of an element. -/
def tileBits (ty : Nat) : Nat :=
  match ty with
  | 0 => 16
  | 1 => 16
  | 5 => 4
  | 8 => 6
  | 9 => 6
  | 10 => 4
  | _ => 8

/-- Bytes of a row or column of one pass (Table 04.1). -/
def tileRow (ty : Nat) : Nat := if ty = 8 ∨ ty = 9 then 12 else 8
/-- Bytes of an operand of one pass. -/
def tileSize (ty : Nat) : Nat := 4 * tileRow ty
def tileInt (ty : Nat) : Bool := ty == 4 || ty == 5
def tileMx (ty : Nat) : Bool := decide (6 ≤ ty) && decide (ty ≤ 11)

/-- Does the lane's address lie in the issuing core's own store? -/
def ownStore (core pa : Nat) : Bool := regionOf pa == .store && storeCore pa == core

/-! ## Operands in the core's own store -/

/-- What a range of an operand comes to: bytes, a misplaced range, or a poisoned walk or word. -/
inductive TileRead where
  | ok (b : List Byte) (s : State)
  | outside (s : State)
  | poisoned (s : State)

/-- The physical places of a range within the core's own store, page by page (a range spans at most two pages). -/
def tilePlaces (s : State) (ctx core : Nat) (u : Use) (va len : Nat) : Option (List (Nat × Nat)) × Bool × State :=
  let n1 := min len (4096 - va % 4096)
  let one := fun (t : State) (a n : Nat) =>
    match translate t ctx u a n with
    | (.ok pa, t1) => (if ownStore core pa then some [(pa, n)] else none, false, t1)
    | (.poisoned, t1) => (none, true, t1)
    | (_, t1) => (none, false, t1)
  match one s va n1 with
  | (none, p, s1) => (none, p, s1)
  | (some a, _, s1) =>
    if n1 = len then (some a, false, s1)
    else match one s1 (va + n1) (len - n1) with
      | (none, p, s2) => (none, p, s2)
      | (some b, _, s2) => (some (a ++ b), false, s2)

/-- Reads an operand. -/
def tileRead (s : State) (ctx core va len : Nat) : TileRead :=
  match tilePlaces s ctx core .read va len with
  | (some ps, _, s1) =>
    if ps.any fun p => wordsPoisoned s1 p.1 p.2 then .poisoned s1
    else .ok (ps.flatMap fun p => (storeRead s1 p.1 p.2).1) s1
  | (none, true, s1) => .poisoned s1
  | (none, false, s1) => .outside s1

/-- Does a range lie in the core's own store? -/
def tileInside (s : State) (ctx core : Nat) (u : Use) (va len : Nat) : Bool :=
  (tilePlaces s ctx core u va len).1.isSome

/-- The ranges whose alignment and place R100 checks at entry: address, alignment, length, write. -/
def entryRanges (k : TileKind) (f : FTile) (a b c : Nat) : List (Nat × Nat × Nat × Bool) :=
  let ty := f.ty.toNat
  match k with
  | .mac => [(a, 16, tileSize ty, false), (b, 16, tileSize ty, false)]
  | .seq => [(a, 16, tileSize ty, false), (b, 16, tileSize ty, false)]
  | .fold =>
    let wide := f.rnd == 1#2
    [(a, 32, if wide then 1024 else 512, false), (b, 32, if wide then 256 else 512, false), (c, 64, 1024, true)]
  | .st => [(a, 32, if ty = 12 then 64 else 2 * tileBits ty, true)]
  | .zero => []

/-- The descriptor of a TILE.SEQ (Table 04.3). -/
structure SeqDesc where
  bmap : Nat
  sca : Nat
  scb : Nat
  astr : Int
  bstr : Int
  n : Nat
  zf : Bool
  zeros : Bool

def seqDesc (b : List Byte) : SeqDesc :=
  let d := leNat b
  { bmap := bits d 255 192, sca := bits d 191 128, scb := bits d 127 64, astr := signedOf 16 (bits d 63 48),
    bstr := signedOf 16 (bits d 47 32), n := bits d 31 24 + 1, zf := d.testBit 16,
    zeros := bits d 23 17 == 0 && bits d 15 0 == 0 }

/-- Operand address of a pass (R119). -/
def passAddr (base : Nat) (stride : Int) (p : Nat) : Nat := patternOf 64 ((base : Int) + 16 * stride * p)

/-- The scale groups a sequence covers: passes per group (R121). -/
def groupPasses (ty : Nat) : Nat := 32 / tileK ty

/-- Every range of a sequence (R120): bitmap, scales, and the N operand ranges of A and B. DEDUCED, log 40. -/
def seqRanges (ty : Nat) (t : TileOp) (d : SeqDesc) : List (Nat × Nat × Nat × Bool) :=
  let runs := ((d.n - 1) / groupPasses ty) / 16 + 1
  (if d.bmap = 0 then [] else [(d.bmap, 32, 32, false)]) ++
  (if tileMx ty then (List.range runs).flatMap fun r => [(d.sca + 64 * r, 64, 64, false), (d.scb + 64 * r, 64, 64, false)]
   else []) ++
  (List.range d.n).flatMap fun p =>
    [(passAddr t.a.toNat d.astr p, 16, tileSize ty, false), (passAddr t.b.toNat d.bstr p, 16, tileSize ty, false)]

/-! ## What a queued tile instruction reads and writes (R115) -/

/-- The ranges of a queued tile instruction: its operands', and for TILE.SEQ its descriptor's and what the descriptor names.
DEDUCED, log 40. -/
def tileRanges (s : State) (ctx core : Nat) (t : TileOp) : List (Nat × Nat × Nat × Bool) :=
  if t.kind = .seq then
    (t.c.toNat, 32, 32, false) :: (match tileRead s ctx core t.c.toNat 32 with
      | .ok b _ => seqRanges t.f.ty.toNat t (seqDesc b)
      | _ => [])
  else entryRanges t.kind t.f t.a.toNat t.b.toNat t.c.toNat

/-- The first page table entry that ranges need from its home before they can be translated (R336). DEDUCED, log 38. -/
def rangesNeed (s : State) (ctx : Nat) (rs : List (Nat × Nat × Nat × Bool)) : Option Nat :=
  rs.findSome? fun r => if r.2.2.1 = 0 ∨ 2 ^ 57 ≤ r.1 + r.2.2.1 then none else pagesNeed s ctx r.1 r.2.2.1

/-- Does a queued tile instruction of the whorl touch bytes of the core's store? DEDUCED, log 40. -/
def tileTouches (s : State) (ctx core : Nat) (wh : Whorl) (pa len : Nat) : Bool :=
  wh.tileQ.any fun t => (tileRanges s ctx core t).any fun r =>
    ((tilePlaces s ctx core (if r.2.2.2 then .write else .read) r.1 r.2.2.1).1.getD []).any fun x => overlap x.1 x.2 pa len

end Sys2Proof.Machine
end

