-- ==== Sys2Proof/Machine/Access.lean ====
section
/-! DEFINITION. A core's memory accesses: effective addresses and their faults (R76, R91, R92), the L1 (R71 to R73), what a
release waits for (Table 09.3), what holds an access back, and the request an instruction becomes. -/

namespace Sys2Proof.Machine

/-! ## The L1 data cache: 64 sets of 4 ways of 64 B, least recently used (R71, R72) -/

def l1Find (c : Core) (block : Nat) : Option L1Line := c.l1.find? fun x => x.block == block

/-- Puts a block first; a set keeps its four most recent. -/
def l1Put (c : Core) (x : L1Line) : Core :=
  let rest := c.l1.filter fun y => y.block != x.block
  let same := ((rest.filter fun y => y.block % 64 == x.block % 64).take 3).map (·.block)
  { c with l1 := x :: rest.filter fun y => y.block % 64 != x.block % 64 || same.contains y.block }

/-- Bytes that lie in one block, from the L1, and whether a 4 B word that they touch is poisoned. -/
def l1Read (c : Core) (pa len : Nat) : Option (List Byte × Bool) :=
  (l1Find c (pa / 64)).map fun x =>
    ((x.bytes.drop (pa % 64)).take len, (wordsOf pa len).any fun k => x.pois.getLsbD (k % 16))

/-- Replaces bytes in a list from an index. -/
def patch (l : List Byte) (i : Nat) (b : List Byte) : List Byte := l.take i ++ b ++ l.drop (i + b.length)

/-- A store updates a present line (R71), and clears the poison of the scratch words it writes whole (R446); an atomic or accumulating write drops it (R259). Fills on their way that hold an
older value are kept out. -/
def l1Write (s : State) (core : Nat) (drop : Bool) (pa : Nat) (b : List Byte) : State :=
  let c := s.core core
  let clean := if regionOf pa = .scratch then maskOf (((wordsOf pa b.length).filter fun k =>
    decide (pa ≤ 4 * k) && decide (4 * k + 4 ≤ pa + b.length)).map (· % 16)) else 0#16
  let l1 := if drop then c.l1.filter fun x => x.block != pa / 64
    else c.l1.map fun x => if x.block == pa / 64 then { x with bytes := patch x.bytes (pa % 64) b, pois := x.pois &&& ~~~clean } else x
  let s1 := s.setCore core { c with l1 := l1 }
  let mine := fun (r : Req) => match r.agent with
    | .core k _ => k == core && r.kind.reads && r.lanes.any fun l => l.pa / 64 == pa / 64
    | _ => false
  { s1 with mem := { s1.mem with reqs := s1.mem.reqs.map fun r => if mine r then { r with noFill := true } else r } }

/-- An acquire of scope GROVE or above invalidates the core's L1, and keeps out the fills of loads issued before it (R72,
R249). -/
def l1Clear (s : State) (core : Nat) : State :=
  let c := s.core core
  let s1 := s.setCore core { c with l1 := [] }
  { s1 with mem := { s1.mem with reqs := s1.mem.reqs.map fun r =>
      match r.agent with
      | .core k _ => if k = core then { r with noFill := true } else r
      | _ => r } }

def acquireL1 (s : State) (core scope : Nat) : State := if 1 ≤ scope then l1Clear s core else s

/-! ## Requests of a core -/

/-- The core a request comes from. -/
def reqCore (r : Req) : Option Nat :=
  match r.agent with
  | .core c _ => some c
  | _ => none

def isWriteKind (k : ReqKind) : Bool := !k.reads

/-- Is any of these writes still on its way to device memory, LLC scratch or a core store? -/
def deviceOpen (s : State) (ids : List Nat) : Bool :=
  s.mem.reqs.any fun r => ids.contains r.id && r.lanes.any fun l =>
    !l.done && (regionOf l.pa == .dram || regionOf l.pa == .scratch || regionOf l.pa == .store)

/-- Those of some requests that are not over. -/
def stillOpen (s : State) (ids : List Nat) : List Nat := ids.filter fun i => s.mem.reqs.any fun r => r.id == i

/-- The writes that came in by a host port and are still on their way (R264, R266). -/
def portWrites (s : State) (p : Nat) : List Nat :=
  (s.mem.reqs.filter fun r => isWriteKind r.kind && (match r.agent with
    | .bar q _ => q == p
    | _ => false)).map (·.id)

/-- Is the request an earlier read of the whorl that has not returned? -/
def readOpen (w : Wid) (r : Req) : Bool :=
  r.agent == .core w.core w.slot && !r.back &&
  (match r.kind with
   | .load _ => true
   | .atom _ => true
   | _ => false)

/-- Has every write lane to a host page or peer window been handed to its port or rafter die? -/
def handedOver (r : Req) : Bool :=
  r.phase != .blocked && r.lanes.all fun l =>
    match regionOf l.pa with
    | .host => true
    | .peer => l.sent || l.done
    | _ => r.phase == .acked

/-- What a release of a scope still waits for, among the requests before `id` (Table 09.3). -/
def releaseReady (s : State) (w : Wid) (scope id : Nat) : Bool :=
  let mine := s.mem.reqs.filter fun r => decide (r.id < id) && reqCore r == some w.core
  let reads := mine.any (readOpen w)
  let tiles := match whorlOf s w with
    | some wh => wh.tileQ.any fun t => decide (t.mark ≤ id)
    | none => false
  let writes := mine.filter fun r => isWriteKind r.kind
  !reads && !tiles &&
    (if scope = 0 then writes.all fun r => r.phase != .blocked
     else if scope < 4 then writes.all handedOver
     else writes.all fun r => r.phase == .acked)

/-- Is an acquire of one of the path's threads still open (R249)? -/
def acquireOpen (s : State) (w : Wid) (p : Path) : Bool :=
  s.mem.reqs.any fun r => r.acq && readOpen w r && (r.once || r.lanes.any fun l => p.lanes.getLsbD l.lane)

/-! ## Addresses of an instruction -/

/-- What the lanes' addresses come to: physical addresses, a fault of R76's first kind that applies, or a wait. -/
inductive Addrs where
  | ok (l : List (Nat × Nat × Nat)) (s : State)     -- lane, virtual, physical
  | fault (i : FaultInfo) (s : State)
  | wait (s : State)

/-- Translates each lane: (lane, va, result), ascending. -/
def xlatLanes (a : Agent) (ctx : Nat) (u : Use) (size : Nat) : State → List (Nat × Nat) → List (Nat × Nat × Xlat) × State
  | s, [] => ([], s)
  | s, (l, va) :: rest =>
    let (x, s1) := translateAsk s a ctx u va size
    let (xs, s2) := xlatLanes a ctx u size s1 rest
    ((l, va, x) :: xs, s2)

/-- A fault report for the lanes of a list. -/
def laneFault (code kind : Nat) (ls : List (Nat × Nat)) : FaultInfo :=
  { code := code, lanes := maskOf (ls.map (·.1)), kind := kind, addr := (ls.head?.map (·.2)).getD 0, other := 0 }

/-- Addresses of an access of `size` bytes by lanes with effective addresses (R76, R91): alignment first, then, once every
lane's translation is known, translation, then poisoned walks. -/
def resolve (s : State) (a : Agent) (ctx : Nat) (u : Use) (kind size : Nat) (eas : List (Nat × Nat)) : Addrs :=
  let mis := eas.filter fun e => e.2 % size != 0
  if !mis.isEmpty then .fault (laneFault 2 kind mis) s
  else
    let (xs, s1) := xlatLanes a ctx u size s eas
    let bad := xs.filterMap fun x => if x.2.2 = .fault then some (x.1, x.2.1) else none
    let pois := xs.filterMap fun x => if x.2.2 = .poisoned then some (x.1, x.2.1) else none
    if xs.any fun x => x.2.2 == .wait then .wait s1
    else
      match xs.findSome? (fun x => match x.2.2 with
          | .ats a b c => some (a, b, c)
          | _ => none) with
      | some (a, b, c) => .wait (askAts s1 ((ctxFn s1 ctx).getD 0) a b c)
      | none =>
        if !bad.isEmpty then .fault (laneFault 3 kind bad) s1
        else if !pois.isEmpty then .fault (laneFault 4 (kind + 32) pois) s1
        else .ok (xs.filterMap fun x => match x.2.2 with
            | .ok pa => some (x.1, x.2.1, pa)
            | _ => none) s1

/-- KIND bits of an access (Table 02.6). -/
def kindBits : ReqKind → Nat
  | .atom _ => 3
  | .store => 1
  | .acw _ => 1
  | _ => 0

def useOf : ReqKind → Use
  | .atom _ => .atomic
  | .store => .write
  | .acw _ => .acw
  | _ => .read

/-- Is an access to the core's own store held back by an earlier request to the same bytes? DEDUCED, log 40. -/
def ownHeld (s : State) (core pa len : Nat) : Bool :=
  s.mem.reqs.any fun r => reqCore r == some core &&
    r.lanes.any fun l => !l.done && ownStore core l.pa && overlap l.pa l.data.length pa len

/-! ## Building and finishing a request -/

/-- The lanes of a request; `data` and `cmp` give a lane's operand bytes. -/
def makeLanes (as : List (Nat × Nat × Nat)) (data cmp : Nat → List Byte) : List LaneAcc :=
  as.map fun a => { lane := a.1, va := a.2.1, pa := a.2.2, data := data a.1, cmp := cmp a.1, got := none, pois := false,
                    sent := false, done := false, err := false }

/-- Acts at once on the lanes in the core's own store. -/
def actOwn (s : State) (core : Nat) (k : ReqKind) (ls : List LaneAcc) : State × List LaneAcc :=
  actLanes storeRead (if atomStopped s k ls then fun t _ _ _ => t else storeWrite) k (fun l => ownStore core l.pa) s ls

/-- Answers from the L1 the lanes of a .RLX load that hit (R71). -/
def actL1 (s : State) (core : Nat) : List LaneAcc → State × List LaneAcc
  | [] => (s, [])
  | l :: ls =>
    if !l.done && cacheable l.pa then
      match l1Find (s.core core) (l.pa / 64), l1Read (s.core core) l.pa l.data.length with
      | some x, some (b, p) =>
        let (s1, r) := actL1 (s.setCore core (l1Put (s.core core) x)) core ls
        (s1, { l with got := some b, pois := p, done := true } :: r)
      | _, _ =>
        let (s1, r) := actL1 s core ls
        (s1, l :: r)
    else
      let (s1, r) := actL1 s core ls
      (s1, l :: r)

/-- Writes what the lanes brought to the destination register (R82, R92, R93). -/
def deliver (wh : Whorl) (signed : Bool) (d : BitVec 7) : List LaneAcc → Whorl
  | [] => wh
  | l :: ls =>
    let b := l.got.getD []
    deliver (if isU d then wh.loadU signed (regNo d) b else wh.loadV signed l.lane (regNo d) b) signed d ls

/-- The fault of lanes whose poisoned data would be consumed (R74, R447). -/
def poisonFault (kind : Nat) (ls : List LaneAcc) : Option FaultInfo :=
  let bad := (ls.filter (·.pois)).map fun l => (l.lane, l.va)
  if bad.isEmpty then none else some (laneFault 4 kind bad)

def signedKind : ReqKind → Bool
  | .load g => g
  | _ => false

/-- Does the kind write a destination register? -/
def hasDest : ReqKind → Bool
  | .load _ => true
  | .atom _ => true
  | _ => false

/-! ## The scope check (R256) -/

/-- The place that remembers a release: the home slice, or 128 and the core. -/
def relPlace (s : State) (pa : Nat) : Nat :=
  match regionOf pa with
  | .store => 128 + storeCore pa
  | .scratch => scratchSlice pa
  | _ => homeSlice s (pa / 1024)

/-- Does the scope an agent on core a names contain core b (Table 09.1)? -/
def scopeHolds (s : State) (scope a b : Nat) : Bool :=
  if scope = 0 then a == b
  else if scope = 1 then coreGrove a == coreGrove b
  else if scope = 2 then (groveEnt s (coreGrove a)).bay == (groveEnt s (coreGrove b)).bay
  else true

/-- Remembers a release write, the last 256 of its place. -/
def noteRelease (s : State) (pa scope : Nat) (a : Agent) : State :=
  if odNat s 0x8020 1 = 0 ∨ (regionOf pa ≠ .dram ∧ regionOf pa ≠ .store ∧ regionOf pa ≠ .scratch) then s
  else
    let pl := relPlace s pa
    let mine := (s.mem.relMem.filter fun r => r.place == pl).take 255
    let keep := s.mem.relMem.filter fun r => r.place != pl
    let x : RelMem := { place := pl, block := pa / 64, scope := scope, agent := a }
    { s with mem := { s.mem with relMem := x :: mine ++ keep } }

/-- Does a scope that an agent names contain a core? An agent that is no core names DEVICE or SYSTEM, or no core (R245, R246, R261). -/
def scopeReaches (s : State) (scope core : Nat) : Agent → Bool
  | .core a _ => scopeHolds s scope a core
  | _ => decide (3 ≤ scope)

/-- Does a scope that a core names contain an agent (Table 09.1)? The debug access is taken as outside DEVICE. DESIGN CHOICE, log 20. -/
def scopeContains (s : State) (scope core : Nat) : Agent → Bool
  | .core a _ => scopeHolds s scope core a
  | .framer => decide (3 ≤ scope)
  | .dma _ => decide (3 ≤ scope)
  | .session _ => decide (3 ≤ scope)
  | .rafter _ => decide (3 ≤ scope)
  | _ => scope == 4

/-- Does an acquire by a core fail against a remembered release (R251, R256)? One of SYSTEM never does. -/
def relFails (s : State) (core scope : Nat) (r : RelMem) : Bool :=
  r.scope != 4 && !(scopeReaches s r.scope core r.agent && scopeContains s scope core r.agent)

/-- Checks an acquire that reads a block. -/
def checkAcquire (s : State) (pa scope core : Nat) : State :=
  if odNat s 0x8020 1 = 0 ∨ (regionOf pa ≠ .dram ∧ regionOf pa ≠ .store ∧ regionOf pa ≠ .scratch) then s
  else
    match s.mem.relMem.find? (fun r => r.place == relPlace s pa && r.block == pa / 64) with
    | some r => if relFails s core scope r then odPutNat (odAdd s 0x8020 2 1) 0x8020 3 (pa / 64 * 64) else s
    | none => s

/-- The acquire read of a WAIT command names SYSTEM, and fails against a release whose scope does not contain the Framer (R251, R256,
R282). -/
def checkFramerAcquire (s : State) (pa : Nat) : State :=
  if odNat s 0x8020 1 = 0 ∨ (regionOf pa ≠ .dram ∧ regionOf pa ≠ .store ∧ regionOf pa ≠ .scratch) then s
  else
    match s.mem.relMem.find? (fun r => r.place == relPlace s pa && r.block == pa / 64) with
    | some r =>
      if r.agent != .framer && decide (r.scope < 3) then odPutNat (odAdd s 0x8020 2 1) 0x8020 3 (pa / 64 * 64) else s
    | none => s

def checkAcquires (s : State) (ls : List LaneAcc) (scope core : Nat) : State :=
  ls.foldl (fun t l => checkAcquire t l.pa scope core) s

def noteReleases (s : State) (r : Req) (p : LaneAcc → Bool) : State :=
  if r.rel then (r.lanes.filter p).foldl (fun t l => noteRelease t l.pa r.scope r.agent) s else s

/-! ## Merged reads (R169) -/

/-- The ranges a read still asks for. -/
def askedRanges (r : Req) : List (Nat × Nat) := (r.lanes.filter fun l => !l.done).map fun l => (l.pa, l.data.length)

/-- May reads of the kind merge? -/
def mayMerge (r : Req) : Bool :=
  !r.acq && (match r.kind with
    | .load _ => true
    | .pref _ => true
    | _ => false)

/-- The earlier read of the grove that a new one merges into: the same bytes of one line, not back yet, and no write of the
grove to that line since; with the sixteen entries in use none. -/
def mergeInto (s : State) (grove : Nat) (r : Req) : Option Nat :=
  let ranges := askedRanges r
  let line := match ranges with
    | x :: _ => x.1 / 1024
    | [] => 0
  if !mayMerge r || ranges.isEmpty || ranges.any (fun x => x.1 / 1024 != line || regionOf x.1 != .dram) then none
  else
    let mine := s.mem.reqs.filter fun q => match reqCore q with
      | some c => coreGrove c == grove
      | none => false
    match mine.reverse.find? (fun q => (isWriteKind q.kind && q.lanes.any fun l => l.pa / 1024 == line) ||
        (mayMerge q && q.merged.isNone && q.phase == .sent && askedRanges q == ranges)) with
    | none => none
    | some q =>
      let used := ((mine.filterMap (·.merged)).foldl addNew []).length
      if isWriteKind q.kind || (decide (16 ≤ used) && !(mine.any fun x => x.merged == some q.id)) then none else some q.id

/-! ## The issue of an access -/

/-- What one memory instruction asks for. -/
structure Ask where
  kind : ReqKind
  size : Nat
  dest : BitVec 7
  once : Bool
  acq : Bool
  rel : Bool
  scope : Nat
  cls : Nat

/-- The 64 B blocks that lanes of a .RLX load miss in the L1: of DRAM and scratch, and not answered at issue. -/
def missBlocks (ls : List LaneAcc) : List Nat :=
  (ls.filter fun l => cacheable l.pa && (l.sent || !l.done)).map (·.pa / 64)

/-- The blocks that loads of the core miss now, and those that another load would add (Table 02.1). -/
def openMisses (s : State) (core : Nat) (more : List LaneAcc) : Nat :=
  ((s.mem.reqs.filter fun r => reqCore r == some core && !r.acq && !r.back && (match r.kind with
    | .load _ => true
    | _ => false)).flatMap (fun r => missBlocks r.lanes) ++ missBlocks more).foldl addNew [] |>.length

/-- Writes the results of finished lanes, or faults on their poison. -/
def finishAsk (s : State) (w : Wid) (q : Ask) (ls : List LaneAcc) : Done :=
  let s1 := if q.acq then acquireL1 (checkAcquires s ls q.scope w.core) w.core q.scope else s
  if hasDest q.kind then
    match whorlOf s1 w with
    | none => .next s1
    | some wh => .next (putWhorl s1 w (deliver wh (signedKind q.kind) q.dest ls))
  else .next s1

/-- Issues an access whose addresses are resolved: what lies in the core's own store, and .RLX hits in the L1, act at once;
the rest leaves as a request (R71, R82, R247, R249). -/
def sendAsk (s0 s : State) (w : Wid) (p : Path) (ctx : Nat) (q : Ask) (ls : List LaneAcc) : Done :=
  let blocked := q.rel && !releaseReady s w q.scope s.mem.nextReq
  if !q.kind.reads ∧ ls.isEmpty then .next s
  else
    let s1 := if isWriteKind q.kind && !blocked then
        ls.foldl (fun t l => l1Write t w.core (q.kind != .store) l.pa l.data) s
      else s
    let (s2, ls2) := if blocked then (s1, ls) else actOwn s1 w.core q.kind ls
    let (s3, ls3) := if q.kind.reads ∧ !q.acq then actL1 s2 w.core ls2 else (s2, ls2)
    let own : Req := { id := 0, agent := .core w.core w.slot, kind := q.kind, lanes := ls3, size := q.size, dest := q.dest,
                       pc := p.pc, acq := q.acq, rel := q.rel, scope := q.scope, cls := q.cls,
                       region := (ls.head?.map fun l => regionOf l.pa).getD .unmapped, ctx := ctx, once := q.once,
                       phase := if blocked then .blocked else .sent, merged := none, age := s.now, back := false,
                       fills := [], noFill := false }
    if ls3.all (·.done) then
      match (if hasDest q.kind then poisonFault (kindBits q.kind) ls3 else none) with
      | some i => .fault i s0
      | none => finishAsk (noteReleases s3 own fun _ => true) w q ls3
    else if (match q.kind with
        | .load _ => !q.acq && !(missBlocks ls3).isEmpty && decide (64 < openMisses s w.core ls3)
        | _ => false) then .stay
    else
      let merged := if q.kind.reads then mergeInto s3 (coreGrove w.core) own else none
      let s4 := noteReleases s3 own (·.done)
      .next (postReq s4 { own with merged := merged }).2

/-- A load, store, atomic or accumulating write of a path (R91 to R94). `data` and `cmp` give a lane's operand bytes. -/
def issueAccess (s : State) (w : Wid) (code : W64) (gn : BitVec 1) (gp : BitVec 3) (legal : Bool) (keys : List Nat) (f : FMem) (q : Ask)
    (data cmp : Whorl → Nat → List Byte) : State :=
  issueInstr s w true code gn gp legal keys fun s1 wh p =>
    let lanes := runLanes wh p gn gp q.once
    if lanes.isEmpty then .next s1
    else if acquireOpen s1 w p then .stay
    else
      let ctx := whorlCtx s1 wh
      match resolve s1 (.core w.core w.slot) ctx (useOf q.kind) (kindBits q.kind) q.size (lanes.map fun l => (l, effAddr wh l f)) with
      | .fault i s2 => .fault i s2
      | .wait s2 => .held s2
      | .ok as s2 =>
        if as.any (fun a => ownStore w.core a.2.2 && (tileTouches s2 ctx w.core wh a.2.2 q.size || ownHeld s2 w.core a.2.2 q.size)) then
          .stay
        else sendAsk s2 s2 w p ctx q (makeLanes as (data wh) (cmp wh))

end Sys2Proof.Machine
end

