-- ==== Sys2Proof/Machine/Memory.lean ====
section
/-! DEFINITION. Loads, stores, atomics, accumulating writes and cache hints of the cores (Table 03.13, R91 to R95). -/

namespace Sys2Proof.Machine

/-- What a memory instruction's fields ask for. -/
def askOf (f : FMem) (k : ReqKind) (once : Bool) : Ask :=
  { kind := k, size := memSize f, dest := f.d, once := once, acq := f.ord.getLsbD 0, rel := f.ord.getLsbD 1,
    scope := f.sc.toNat, cls := f.cls.toNat }

/-- Bytes that stand for the length of a load. -/
def blank (n : Nat) : List Byte := List.replicate n 0#8

/-- Scoreboard keys of a memory instruction: D, the base, and B where it is used. -/
def memKeys (f : FMem) (useD useB : Bool) : List Nat :=
  (if useD then regKeys (memWords (memSize f)) f.d else []) ++ regKeys 2 f.a ++
  (if useB then regKeys (memWords (memSize f)) f.b else [])

/-! ## Loads -/

/-- Legality of LD and LD.S. -/
def legalLoad (f : FMem) (maxSz : Nat) : Bool :=
  guardOk f.gn f.gp && ordOk f [0, 1] && decide (f.sz.toNat < maxSz) && baseOk f && memDOk f && f.b == 0#7

def loadIssue (s : State) (w : Wid) (c : Code) (f : FMem) (signed : Bool) (maxSz : Nat) : State :=
  issueAccess s w (memWord c f) f.gn f.gp (legalLoad f maxSz) (memKeys f true false) f (askOf f (.load signed) (isU f.d))
    (fun _ _ => blank (memSize f)) (fun _ _ => [])

def execLd (w : Wid) (f : FMem) (s : State) : Host.Outcome State Fault Refusal := .next (loadIssue s w ⟨0x18, 0⟩ f false 5)

def execLdS (w : Wid) (f : FMem) (s : State) : Host.Outcome State Fault Refusal := .next (loadIssue s w ⟨0x18, 1⟩ f true 2)

/-! ## Stores -/

def legalStore (f : FMem) : Bool :=
  guardOk f.gn f.gp && ordOk f [0, 2] && decide (f.sz.toNat < 5) && baseOk f && memDOk f && f.b == 0#7

def execSt (w : Wid) (f : FMem) (s : State) : Host.Outcome State Fault Refusal :=
  .next (issueAccess s w (memWord ⟨0x19, 0⟩ f) f.gn f.gp (legalStore f) (memKeys f true false) f (askOf f .store (isU f.d))
    (fun wh l => regBytes wh l (memSize f) f.d) (fun _ _ => []))

/-! ## Atomics -/

/-- Legality of an atomic: 4 B or 8 B, FADD 4 B only; D and B of that size. -/
def legalAtom (f : FMem) (fn : Nat) : Bool :=
  guardOk f.gn f.gp && ordOk f [0, 1, 2, 3] && (f.sz == 2#3 || (f.sz == 3#3 && fn != 10)) && baseOk f && memDOk f &&
  pairOk (f.sz == 3#3) f.b

def atomIssue (s : State) (w : Wid) (f : FMem) (fn : Nat) : State :=
  issueAccess s w (memWord ⟨0x1A, BitVec.ofNat 7 fn⟩ f) f.gn f.gp (legalAtom f fn) (memKeys f true true) f (askOf f (.atom fn) (isU f.d))
    (fun wh l => regBytes wh l (memSize f) f.b) (fun wh l => regBytes wh l (memSize f) f.d)

def execAtomAdd (w : Wid) (f : FMem) (s : State) : Host.Outcome State Fault Refusal := .next (atomIssue s w f 0)
def execAtomMinS (w : Wid) (f : FMem) (s : State) : Host.Outcome State Fault Refusal := .next (atomIssue s w f 1)
def execAtomMaxS (w : Wid) (f : FMem) (s : State) : Host.Outcome State Fault Refusal := .next (atomIssue s w f 2)
def execAtomMinU (w : Wid) (f : FMem) (s : State) : Host.Outcome State Fault Refusal := .next (atomIssue s w f 3)
def execAtomMaxU (w : Wid) (f : FMem) (s : State) : Host.Outcome State Fault Refusal := .next (atomIssue s w f 4)
def execAtomAnd (w : Wid) (f : FMem) (s : State) : Host.Outcome State Fault Refusal := .next (atomIssue s w f 5)
def execAtomOr (w : Wid) (f : FMem) (s : State) : Host.Outcome State Fault Refusal := .next (atomIssue s w f 6)
def execAtomXor (w : Wid) (f : FMem) (s : State) : Host.Outcome State Fault Refusal := .next (atomIssue s w f 7)
def execExch (w : Wid) (f : FMem) (s : State) : Host.Outcome State Fault Refusal := .next (atomIssue s w f 8)
def execCas (w : Wid) (f : FMem) (s : State) : Host.Outcome State Fault Refusal := .next (atomIssue s w f 9)
def execAtomFadd (w : Wid) (f : FMem) (s : State) : Host.Outcome State Fault Refusal := .next (atomIssue s w f 10)

/-! ## Accumulating writes -/

/-- Legality of ACW: 4 B, no D. -/
def legalAcw (f : FMem) : Bool :=
  guardOk f.gn f.gp && ordOk f [0, 2] && f.sz == 2#3 && baseOk f && f.d == 0#7 && regOk f.b

def acwIssue (s : State) (w : Wid) (f : FMem) (fn : Nat) : State :=
  issueAccess s w (memWord ⟨0x1B, BitVec.ofNat 7 fn⟩ f) f.gn f.gp (legalAcw f) (memKeys f false true) f (askOf f (.acw fn) false)
    (fun wh l => regBytes wh l 4 f.b) (fun _ _ => [])

def execFadd32 (w : Wid) (f : FMem) (s : State) : Host.Outcome State Fault Refusal := .next (acwIssue s w f 0)
def execBf16add (w : Wid) (f : FMem) (s : State) : Host.Outcome State Fault Refusal := .next (acwIssue s w f 1)
def execIadd32 (w : Wid) (f : FMem) (s : State) : Host.Outcome State Fault Refusal := .next (acwIssue s w f 2)
def execFmax32 (w : Wid) (f : FMem) (s : State) : Host.Outcome State Fault Refusal := .next (acwIssue s w f 3)
def execImax32 (w : Wid) (f : FMem) (s : State) : Host.Outcome State Fault Refusal := .next (acwIssue s w f 4)

/-! ## Cache hints (R95) -/

/-- Legality of PREF: .RLX, SZ 000, only A. -/
def legalPref (f : FMem) : Bool :=
  guardOk f.gn f.gp && ordOk f [0] && f.sz == 0#3 && baseOk f && f.d == 0#7 && f.b == 0#7

/-- Sends a hint for each line that the lanes name; addresses that would fault or lie outside DRAM are dropped. -/
def prefIssue (s : State) (w : Wid) (f : FMem) (near : Bool) : State :=
  issueInstr s w true (memWord ⟨0x1C, if near then 1 else 0⟩ f) f.gn f.gp (legalPref f) (memKeys f false false) fun s1 wh p =>
    let ctx := whorlCtx s1 wh
    let (xs, s2) := xlatLanes (.core w.core w.slot) ctx .read 1 s1 ((execLanes wh p f.gn f.gp).map fun l => (l, effAddr wh l f))
    let lines := xs.foldl (fun (acc : List (Nat × Nat)) x => match x.2.2 with
      | .ok pa =>
        if regionOf pa = .dram ∧ !(acc.any fun y => y.1 == pa / 1024) then acc ++ [(pa / 1024, x.2.1 / 1024 * 1024)] else acc
      | _ => acc) []
    if xs.any fun x => x.2.2 == .wait then .held s2
    else .next (lines.foldl (fun t line =>
      (postReq t { id := 0, agent := .core w.core w.slot, kind := .pref near,
                   lanes := [{ lane := 0, va := line.2, pa := 1024 * line.1, data := blank 1024, cmp := [], got := none,
                               pois := false, sent := false, done := false, err := false }],
                   size := 1024, dest := 0#7, pc := p.pc, acq := false, rel := false, scope := 0, cls := f.cls.toNat,
                   region := .dram, ctx := ctx, once := false, phase := .sent, merged := none, age := t.now, back := false,
                   fills := [], noFill := false }).2) s2)

def execPrefLlc (w : Wid) (f : FMem) (s : State) : Host.Outcome State Fault Refusal := .next (prefIssue s w f false)
def execPrefNear (w : Wid) (f : FMem) (s : State) : Host.Outcome State Fault Refusal := .next (prefIssue s w f true)

end Sys2Proof.Machine
end

