-- ==== Sys2Proof/Machine/RingLog.lean ====
section
/-! DEFINITION. The ring log (R476 to R480): records, the observation budget, and drops. -/

namespace Sys2Proof.Machine

/-- Charges of the 10 µs interval that holds the present time (R479). -/
def obsUsed (s : State) : FMap Nat := if s.obs.window = s.now / 10000 then s.obs.used else []

/-- Does a charge of n bytes to a key fit its allowance: 0 to 7 joint directions, from 16 on slices? DEDUCED, log 48. -/
def obsFits (s : State) (key n : Nat) : Bool :=
  let share := odNat s 0x8010 1
  decide (fgetD (obsUsed s) key 0 + n ≤ share * (if key < 16 then 204800 else 51200))

/-- DEDUCED, log 48. -/
def obsCharge (s : State) (key n : Nat) : State :=
  let u := obsUsed s
  { s with obs := { s.obs with window := s.now / 10000, used := fset u key (fgetD u key 0 + n) } }

/-- What a ring log record says (Table 18.6), less TIME and PHASE. -/
structure RingRec where
  seq : Nat
  unit : Nat
  queue : Nat
  ctx : Nat
  typ : Nat
  kind : Nat
  engine : Nat
  repl : Nat
  status : Nat
  aux : Nat

def ringBits (s : State) (time n : Nat) (r : RingRec) : Nat :=
  time * 2 ^ 192 + r.seq % 2 ^ 64 * 2 ^ 128 + r.unit % 65536 * 2 ^ 112 + r.queue % 4096 * 2 ^ 100 + r.ctx % 4096 * 2 ^ 88 +
  r.typ % 16 * 2 ^ 84 + r.kind * 2 ^ 80 + r.engine * 2 ^ 76 + min 15 r.repl * 2 ^ 72 + r.status % 65536 * 2 ^ 56 +
  r.aux % 2 ^ 32 * 2 ^ 24 + (if n / 2 ^ s.obs.rlog % 2 = 0 then 1 else 0)

/-- The bay whose joint to the girt die a record's unit sends it over; none for the girt die's own units. -/
def ringBay (s : State) (r : RingRec) : Option Nat :=
  if r.engine = 2 then some (groveEnt s r.unit).bay
  else if r.engine = 3 then some (groveEnt s (coreGrove r.unit)).bay
  else none

/-- Where record n would lie, when the ring takes it (R476, R479). -/
def ringSlot (s : State) (r : RingRec) : Option Nat :=
  let n := s.obs.rlWptr
  let a := s.obs.rlBase.toNat + 32 * (n % 2 ^ s.obs.rlog)
  let room := !s.obs.stopFull || decide (n - s.obs.rlRptr.toNat < 2 ^ s.obs.rlog)
  let joint := match ringBay s r with
    | some b => obsFits s b 32
    | none => true
  if room && decide (a + 32 ≤ usableSize s) && inShare s 0 a 32 && joint && obsFits s (16 + homeSlice s (a / 1024)) 32 then
    some a
  else none

/-- Writes one record at its slot. -/
def ringPut (s : State) (time a : Nat) (r : RingRec) : State :=
  let b := leBytes 32 (ringBits s time s.obs.rlWptr r)
  let s1 := (postWrite s .framer 4096 a b false).2
  let s2 := obsCharge s1 (16 + homeSlice s (a / 1024)) 32
  let s3 := match ringBay s r with
    | some k => obsCharge s2 k 32
    | none => s2
  { s3 with obs := { s3.obs with rlWptr := s3.obs.rlWptr + 1 } }

/-- A DROP record (Table 18.5). -/
def dropRec (n : Nat) : RingRec :=
  { seq := 0, unit := 0, queue := 0, ctx := 0, typ := 0, kind := 2, engine := 0, repl := 0, status := 0,
    aux := min n (2 ^ 32 - 1) }

/-- A FELL (3) or RESUME (4) record, with the fell's reason. DEDUCED, log 48. -/
def fellRec (kind reason : Nat) : RingRec :=
  { seq := 0, unit := 0, queue := 0, ctx := 0, typ := 0, kind := kind, engine := 0, repl := 0, status := 0, aux := reason }

def ringLost (s : State) : State :=
  let s1 := odAdd s 0x8010 2 1
  { s1 with obs := { s1.obs with lostRecs := s1.obs.lostRecs + 1 } }

/-- Produces one record: it is written, preceded by a DROP record where records were lost, or dropped (R476, R480);
nothing is produced during the stop (R477). DEDUCED, log 48. -/
def ringRecord (s : State) (time : Nat) (r : RingRec) : State :=
  if odNat s 0x8010 3 = 0 ∨ s.obs.rlog = 0 ∨ s.fell.st = 2 ∨ s.fell.st = 3 then s
  else if s.obs.lostRecs = 0 then
    match ringSlot s r with
    | some a => ringPut s time a r
    | none => ringLost s
  else
    match ringSlot s (dropRec s.obs.lostRecs) with
    | none => ringLost s
    | some a =>
      let s1 := ringPut s time a (dropRec s.obs.lostRecs)
      let s2 := { s1 with obs := { s1.obs with lostRecs := 0 } }
      match ringSlot s2 r with
      | some b => ringPut s2 time b r
      | none => ringLost s2

/-- The unit of a core at the log's grain, and the engine code (R477). -/
def ringUnit (s : State) (core : Nat) : Nat × Nat := if s.obs.grain then (3, core) else (2, coreGrove core)

/-- Whorls of a kernel that are placed in a core's unit now. -/
def unitWhorls (s : State) (kernel core : Nat) : Nat :=
  let one := fun (c : Nat) => ((s.core c).slots.filter fun e => e.2.kernel == kernel).length
  if s.obs.grain then one core
  else (List.range 16).foldl (fun n i => n + one (16 * coreGrove core + i)) 0

/-- A record of a kernel in a unit: kind 0 BEGIN, 1 END. -/
def unitRecord (s : State) (kernel core kind aux : Nat) : State :=
  match fget s.kerns kernel with
  | none => s
  | some k =>
    let (e, u) := ringUnit s core
    ringRecord s s.now { seq := k.seq, unit := u, queue := k.q, ctx := k.ctx, typ := 1, kind := kind, engine := e,
                         repl := k.repl, status := 0, aux := aux }

end Sys2Proof.Machine
end

