-- ==== Sys2Proof/Machine/Branch.lean ====
section
/-! DEFINITION. Control flow: branches, calls, returns, path release and switch (R50 to R55, R96, R97), NOP, EXIT, FENCE and
RDSR (Table 03.16). -/

namespace Sys2Proof.Machine

/-! ## Splitting (R50, R51) -/

/-- Does a split record its join: it has one, and the stack holds fewer than four (R51)? -/
def withJoin (joins : List Join) (join : Option W64) (sp : Nat) : List Join :=
  match join with
  | some a => if joins.length < 4 then { addr := a, split := sp } :: joins else joins
  | none => joins

/-- Inserts paths into the table immediately after a path. -/
def insertAfter (ps : List Path) (pid : Nat) (new : List Path) : List Path :=
  match ps with
  | [] => new
  | p :: rest => if p.pid = pid then p :: new ++ rest else p :: insertAfter rest pid new

/-- Numbers new paths from a first number. -/
def numberPaths (first : Nat) : List Path → List Path
  | [] => []
  | p :: ps => { p with pid := first } :: numberPaths (first + 1) ps

/-- Moves a path by what each thread does: threads of `taken` go to `target`, the others go on at pc + 8 (R50). -/
def branchPath (wh : Whorl) (p : Path) (taken : List Nat) (target : W64) (join : Option W64) : Whorl :=
  let m := maskOf taken
  if taken.isEmpty then wh.setPath { p with pc := p.pc + 8, st := .run }
  else if m = p.lanes then wh.setPath { p with pc := target, st := .run }
  else
    let js := withJoin p.joins join wh.nextSplit
    let stay := { p with pc := p.pc + 8, lanes := p.lanes &&& ~~~m, joins := js, st := .run }
    let go : Path := { pid := wh.nextPid, lanes := m, pc := target, joins := js, st := .run }
    { wh with paths := insertAfter (wh.setPath stay).paths p.pid [go], nextPid := wh.nextPid + 1,
              nextSplit := wh.nextSplit + 1 }

/-- A new path whose target is its join has reached it: it parks as soon as it exists (R52). -/
def parkNew (wh : Whorl) (since : Nat) : Whorl :=
  { wh with paths := wh.paths.map fun x =>
      match x.joins with
      | j :: _ => if x.pid ≥ since ∧ x.pc = j.addr ∧ x.runnable then { x with st := .parked (wh.issues + 1) } else x
      | [] => x }

/-- Target and join offsets count instructions from the branch's own address (Table 03.5). -/
def offsetBy (pc : W64) (n : Int) : W64 := pc + BitVec.ofInt 64 (8 * n)

def joinOf (pc : W64) (f : FBr) : Option W64 := if f.join = 0#23 then none else some (offsetBy pc f.join.toInt)

/-- Counts a split (Table 18.1) and issues a branch: `target` is where the taken threads go. -/
def branchIssue (s : State) (w : Wid) (opc : BitVec 6) (f : FBr) (legal : Bool) (keys : List Nat) (target : Whorl → Path → W64)
    (link : Bool) : State :=
  issueInstr s w true (brWord ⟨opc, 0⟩ f) f.gn f.gp (guardOk f.gn f.gp && legal) keys fun s1 wh p =>
    let taken := execLanes wh p f.gn f.gp
    let wh1 := if link then wh.vputAll true 62 (fun _ => (p.pc + 8).toNat) taken else wh
    let wh2 := branchPath wh1 p taken (target wh p) (joinOf p.pc f)
    let s2 := if wh2.nextPid = wh1.nextPid then s1 else count s1 (coreBank w.core 1) 5 1
    .jumped (putWhorl s2 w (parkNew wh2 wh1.nextPid))

def execBra (w : Wid) (f : FBr) (s : State) : Host.Outcome State Fault Refusal :=
  .next (branchIssue s w 2 f true [] (fun _ p => offsetBy p.pc f.tgt.toInt) false)

/-- The u register that BRX names (Table 03.5, R96). -/
def brxReg (f : FBr) : BitVec 7 := f.tgt.extractLsb' 17 7

def execBrx (w : Wid) (f : FBr) (s : State) : Host.Outcome State Fault Refusal :=
  .next (branchIssue s w 3 f (uOk (brxReg f) && f.tgt.extractLsb' 0 17 == 0#17) [regKey (brxReg f)]
    (fun wh _ => BitVec.ofNat 64 (wh.uget (regNo (brxReg f)))) false)

/-- CALL also writes its own address + 8 into v62:v63 of every calling thread (R97). -/
def execCall (w : Wid) (f : FBr) (s : State) : Host.Outcome State Fault Refusal :=
  .next (branchIssue s w 4 f true [62, 63] (fun _ p => offsetBy p.pc f.tgt.toInt) true)

/-- Ascending distinct targets of the threads that RET moves. -/
def retTargets (wh : Whorl) (taken : List Nat) : List Nat :=
  taken.foldl (fun acc l => insAsc acc (wh.src true l 62#7)) []

/-- RET (R97): threads grouped by target; new paths in ascending target order, with the current path's join stack. -/
def retPath (wh : Whorl) (p : Path) (taken : List Nat) : Whorl :=
  let group := fun (t : Nat) => maskOf (taken.filter fun l => wh.src true l 62#7 == t)
  let mk := fun (t : Nat) => ({ pid := 0, lanes := group t, pc := BitVec.ofNat 64 t, joins := p.joins, st := .run } : Path)
  let m := maskOf taken
  match retTargets wh taken with
  | [] => wh.setPath { p with pc := p.pc + 8, st := .run }
  | t :: ts =>
    if m = p.lanes then
      let cur := { p with pc := BitVec.ofNat 64 t, lanes := group t, st := .run }
      { wh with paths := insertAfter (wh.setPath cur).paths p.pid (numberPaths wh.nextPid (ts.map mk)),
                nextPid := wh.nextPid + ts.length }
    else
      let cur := { p with pc := p.pc + 8, lanes := p.lanes &&& ~~~m, st := .run }
      { wh with paths := insertAfter (wh.setPath cur).paths p.pid (numberPaths wh.nextPid ((t :: ts).map mk)),
                nextPid := wh.nextPid + (t :: ts).length }

def execRet (w : Wid) (f : FBr) (s : State) : Host.Outcome State Fault Refusal :=
  .next (issueInstr s w true (brWord ⟨5, 0⟩ f) f.gn f.gp (guardOk f.gn f.gp && f.tgt == 0#24 && f.join == 0#23) [62, 63] fun s1 wh p =>
    let wh1 := retPath wh p (execLanes wh p f.gn f.gp)
    let s2 := if wh1.nextPid = wh.nextPid then s1 else count s1 (coreBank w.core 1) 5 1
    .jumped (putWhorl s2 w (parkNew wh1 wh.nextPid)))

/-! ## Parked paths and switches (R54, R55) -/

/-- Releases a parked path that is due (R54): it drops its join, continues alone and is issued next. DEDUCED, log 15. -/
def execParkedPathRelease (w : Wid) (path : Nat) (s : State) : Host.Outcome State Fault Refusal :=
  .next (match whorlOf s w with
    | none => s
    | some wh =>
      match wh.path? path with
      | none => s
      | some p =>
        if coreRuns s w.core && !wh.stopped && releaseDue wh p then
          let wh1 := wh.setPath { p with st := .released, joins := p.joins.drop 1 }
          putWhorl s w (settle 24 { wh1 with cur := p.pid, curIssues := 0 })
        else s)

/-- The current path gives way after 32 issues (R55). DEDUCED, log 15. -/
def execPathSwitch (w : Wid) (s : State) : Host.Outcome State Fault Refusal :=
  .next (match whorlOf s w with
    | none => s
    | some wh => if 32 ≤ wh.curIssues ∧ !wh.stopped then putWhorl s w (switchPath wh) else s)

/-! ## SYS (Table 03.16) -/

/-- DEDUCED, log 49. -/
def legalBare (f : FReg) : Bool := usedOnly f UseReg.none

def execNop (w : Wid) (f : FReg) (s : State) : Host.Outcome State Fault Refusal :=
  .next (issueRegs s w (regWord ⟨0, 0⟩ f) f.gn f.gp (legalBare f) [] fun wh _ => wh)

/-- Does an instance that is open name one of these lanes? -/
def memberExits (wh : Whorl) (gone : BitVec 16) : Option OpenColl := wh.colls.find? fun c => c.mask &&& gone != 0#16

/-- The lanes that wait at an instance. -/
def instanceLanes (c : OpenColl) : BitVec 16 := c.arrived

/-- Replies on their way to whorls that are gone find none (R57). -/
def orphan (s : State) (gone : Nat → Nat → Bool) : State :=
  s.setMem { s.mem with reqs := s.mem.reqs.map fun r => match r.agent with
    | .core c sl => if gone c sl ∧ hasDest r.kind then { r with agent := .core c 8 } else r
    | _ => r }

/-- A whorl that has ended leaves its slot when its tile queue is empty (R57, R128); its kernel has one whorl less to end. -/
def retireWhorl (s : State) (w : Wid) : State :=
  match whorlOf s w with
  | none => s
  | some wh =>
    if wh.paths.isEmpty && wh.tileQ.isEmpty then
      let c := s.core w.core
      let s0 := orphan (s.setCore w.core { c with slots := fdel c.slots w.slot }) fun c sl => c == w.core && sl == w.slot
      let s1 := if unitWhorls s0 wh.kernel w.core = 0 then unitRecord s0 wh.kernel w.core 1 0 else s0
      match fget s1.kerns wh.kernel with
      | some k =>
        let left := k.left - 1
        s1.setKern wh.kernel { k with left := left, endAt := s1.now, st := if left = 0 ∧ k.next = k.nwh then .ended else k.st }
      | none => s1
    else s

/-- EXIT removes the executing threads (R57); one that exits as a member of an open instance faults the context (R59). -/
def execExit (w : Wid) (f : FReg) (s : State) : Host.Outcome State Fault Refusal :=
  .next (retireWhorl (issueInstr s w true (regWord ⟨0, 1⟩ f) f.gn f.gp (legalBare f) [] fun s1 wh p =>
    let gone := maskOf (execLanes wh p f.gn f.gp)
    match memberExits wh gone with
    | some c => .fault { code := 5, lanes := instanceLanes c, kind := 0, addr := 0, other := 0 } s1
    | none =>
      let left := p.lanes &&& ~~~gone
      let wh1 := if left = 0#16 then { wh with paths := wh.paths.filter fun x => x.pid != p.pid,
                                               cur := (nextRunnable wh).getD wh.cur }
        else wh.setPath { p with lanes := left, pc := p.pc + 8, st := .run }
      .jumped (putWhorl s1 w wh1)) w)

/-- FENCE: a release and an acquire of a scope; it issues once its release part is done (R250, Table 09.3). DEDUCED, log 49. -/
def execFence (w : Wid) (f : FReg) (s : State) : Host.Outcome State Fault Refusal :=
  .next (issueInstr s w true (regWord ⟨0, 2⟩ f) f.gn f.gp
    (usedOnly f { UseReg.none with a := true } && guardAll f.gn f.gp && decide (f.a.toNat < 5)) [] fun s1 _ p =>
      if acquireOpen s1 w p || !releaseReady s1 w f.a.toNat s1.mem.nextReq then .stay
      else .next (acquireL1 s1 w.core f.a.toNat))

/-- How far a grove's counter lies from device time, as 20 less what it is behind by: within the 20 ns that R40 allows between any
two (R39 corrects it for its path, and its own oscillator interpolates). DESIGN CHOICE, log 54. -/
def groveSkew (x : W64) : Nat := x.toNat % 21 + (20 - Config.skewLow % 21)

/-- A timestamp a grove issues (R39 to R41): its reading falls somewhere before the next token, device time goes on to that
instant, and the grove's counter is within the skew of it and never below the last one. None while it waits for a full
count. DESIGN CHOICE, log 54. -/
def groveTime (s : State) (g : Nat) : Option (Nat × State) :=
  if s.mod.groveWait.contains g then none
  else
    let (x, s1) := s.draw
    let (y, s2) := s1.draw
    let at_ := s.mod.time + BitVec.ofNat 64 (x.toNat % (64 - s.now % 64))
    let k := groveSkew y
    let t := max (fgetD s.mod.groveLast g 0) (at_.toNat + k - 20)
    some (t, { s2 with mod := { s2.mod with time := at_, groveLast := fset s2.mod.groveLast g t,
                                            maxSkew := max s2.mod.maxSkew (absDiff k 20) } })

/-- RDSR: D u; B bits 2:0 the register of Table 03.17. It executes once, for the lowest thread (R82). How many steps the domain
has made since the last reading is a free value. -/
def execRdsr (w : Wid) (f : FReg) (s : State) : Host.Outcome State Fault Refusal :=
  .next (issueInstr s w true (regWord ⟨0, 3⟩ f) f.gn f.gp
    (usedOnly f { UseReg.none with d := true, b := true } && uOk f.d && decide (f.b.toNat < 6)) [regKey f.d] fun s1 wh p =>
      let put := fun (t : State) (n : Nat) => Done.next (putWhorl t w (wh.dest p f.gn f.gp true false f.d fun _ => n))
      match f.b.toNat with
      | 0 =>
        (match groveTime s1 (coreGrove w.core) with
         | some (t, s2) => put s2 t
         | none => .stay)
      | 1 =>
        let g := coreDomain s1 w.core
        let (x, s2) := s1.draw
        let d := { s2.dom g with onSteps := (s2.dom g).onSteps + x.toNat % 2 ^ 32 }
        put (s2.setDom g d) d.onSteps
      | 2 => put s1 w.core
      | 3 => put s1 (coreGrove w.core)
      | 4 => put s1 (whorlCtx s1 wh)
      | _ => put s1 p.lanes.toNat)

end Sys2Proof.Machine
end

