-- ==== Sys2Proof/Machine/Collective.lean ====
section
/-! DEFINITION. Whorl collectives: arrival, open instances and their execution (R58 to R62, R99), shuffles and votes
(Table 02.3), and the watchdog (R60). -/

namespace Sys2Proof.Machine

/-- The member mask of a collective, read when the path arrives (R99). -/
def memberMask (wh : Whorl) (ms : BitVec 1) (mask : BitVec 16) : BitVec 16 :=
  if ms = 1#1 then BitVec.ofNat 16 (wh.uget (mask.toNat % 32)) else mask

/-- A mask field: an immediate mask that is not 0, or a u register in bits 4:0 (Table 03.6, R61). -/
def maskFieldOk (ms : BitVec 1) (mask : BitVec 16) : Bool :=
  if ms = 1#1 then decide (mask.toNat < 32) else mask != 0#16

/-- Lanes that are live: launched and not exited. -/
def liveLanes (wh : Whorl) : BitVec 16 := unionLanes wh.paths

/-- The mismatch that an arrival raises, if one (R59): the lanes of the record and the address of the other instance. -/
def mismatch (wh : Whorl) (p : Path) (m : BitVec 16) : Option (BitVec 16 × Nat) :=
  let here := wh.colls.find? fun c => c.pc == p.pc && c.mask == m
  let waiting := match here with
    | some c => c.arrived
    | none => p.lanes
  if p.lanes &&& ~~~m ≠ 0#16 ∨ m &&& ~~~(liveLanes wh) ≠ 0#16 then some (waiting, 0)
  else
    match wh.colls.find? (fun c => !(c.pc == p.pc && c.mask == m) && c.mask &&& m != 0#16) with
    | some c => some (c.arrived, c.pc.toNat)
    | none => none

/-- Does a path wait at an instance? -/
def atInstance (m : BitVec 16) (pc : W64) (p : Path) : Bool := p.st == .coll m pc

/-- Executes an instance: every arrived path merges, keeping the joins of the last arrival (R58). -/
def mergeArrived (wh : Whorl) (p : Path) (m : BitVec 16) : Whorl :=
  let g := fun (x : Path) => x.pid == p.pid || atInstance m p.pc x
  let merged := { p with lanes := unionLanes (wh.paths.filter g), pc := p.pc + 8, st := .run }
  let open_ := wh.colls.filter fun c => !(c.pc == p.pc && c.mask == m)
  { wh with paths := mergePaths wh.paths g merged, cur := p.pid, colls := open_ }

/-- What an arrival comes to: the state with the path waiting, or the state in which the instance may execute. -/
inductive Arrival where
  | mismatch (i : FaultInfo)
  | waits (s : State)
  | complete (wh : Whorl)

/-- A path arrives (R58): it opens or joins an instance, and the last arrival completes it. -/
def arrive (s : State) (w : Wid) (wh : Whorl) (p : Path) (m : BitVec 16) (op : CollOp) : Arrival :=
  match mismatch wh p m with
  | some (ls, other) => .mismatch { code := 5, lanes := ls, kind := 0, addr := 0, other := other }
  | none =>
    let here := wh.colls.find? fun c => c.pc == p.pc && c.mask == m
    let arrived := (match here with
      | some c => c.arrived
      | none => 0#16) ||| p.lanes
    if arrived = m then .complete (mergeArrived wh p m)
    else
      let opened := match here with
        | some c => c.opened
        | none => s.now
      let inst : OpenColl := { pc := p.pc, mask := m, arrived := arrived, opened := opened, fullAt := none, op := op }
      let rest := wh.colls.filter fun c => !(c.pc == p.pc && c.mask == m)
      .waits (putWhorl s w { (wh.setPath { p with st := .coll m p.pc }) with colls := rest ++ [inst] })

/-- A collective instruction: `effect` is what an executing instance does to its whorl. -/
def issueColl (s : State) (w : Wid) (code : W64) (gn : BitVec 1) (gp : BitVec 3) (legal : Bool) (keys : List Nat) (ms : BitVec 1)
    (mask : BitVec 16) (op : CollOp) (effect : State → Whorl → BitVec 16 → Whorl) : State :=
  let mkeys := if ms = 1#1 then [64 + mask.toNat % 32] else []
  issueInstr s w true code gn gp (guardAll gn gp && maskFieldOk ms mask && legal) (keys ++ mkeys) fun s1 wh p =>
    let m := memberMask wh ms mask
    if m = 0#16 then .fault { code := 1, lanes := p.lanes, kind := 0, addr := 0, other := 0 } s1
    else
      match arrive s1 w wh p m op with
      | .mismatch i => .fault i s1
      | .waits s2 => .jumped s2
      | .complete wh1 => .jumped (putWhorl s1 w (effect s1 wh1 m))

/-! ## SHFL and VOTE -/

/-- Legality of SHFL: D and A of class v, B a register or an immediate lane operand. -/
def legalShfl (f : FCol) : Bool :=
  f.z == 0#5 && f.ps == 0#3 && vOk f.d && vOk f.a && (if f.di = 1#1 then decide (f.b.toNat < 16) else regOk f.b)

/-- Legality of VOTE: only D and PS. -/
def legalVote (f : FCol) (ballot : Bool) : Bool :=
  f.z == 0#5 && f.a == 0#7 && f.b == 0#7 && f.di == 0#1 && (if ballot then vOk f.d else predOk f.d)

/-- The source lane of member t with lane operand d (Table 02.3). -/
def shflSource (k : ShflKind) (t d : Nat) : Nat :=
  match k with
  | .pick => d % 16
  | .rot => (t + d % 16) % 16
  | .swap => t ^^^ (d % 16)
  | .lead => t - t % 2 ^ (min d 4)

def shflEffect (k : ShflKind) (f : FCol) (wh : Whorl) (m : BitVec 16) : Whorl :=
  let val := fun (l : Nat) => wh.vget l (regNo f.a)
  let res := fun (t : Nat) =>
    let d := if f.di = 1#1 then f.b.toNat else wh.src false t f.b
    let src := shflSource k t d
    if m.getLsbD src then val src else val t
  wh.vputAll false (regNo f.d) res (lanesOf m)

def voteEffect (k : VoteKind) (f : FCol) (wh : Whorl) (m : BitVec 16) : Whorl :=
  let ls := lanesOf m
  let ones := ls.filter fun l => wh.pget l f.ps.toNat
  match k with
  | .any => wh.psetAll f.d.toNat (fun _ => !ones.isEmpty) ls
  | .all => wh.psetAll f.d.toNat (fun _ => ones == ls) ls
  | .ballot => wh.vputAll false (regNo f.d) (fun _ => (maskOf ones).toNat) ls

/-- FN of a shuffle (Table 03.14). -/
def ShflKind.fn : ShflKind → BitVec 7
  | .pick => 0#7
  | .rot => 1#7
  | .swap => 2#7
  | .lead => 3#7

/-- FN of a vote (Table 03.14). -/
def VoteKind.fn : VoteKind → BitVec 7
  | .any => 0#7
  | .all => 1#7
  | .ballot => 2#7

def shflIssue (s : State) (w : Wid) (f : FCol) (k : ShflKind) : State :=
  issueColl s w (colWord ⟨0x20, k.fn⟩ f) f.gn f.gp (legalShfl f) ([f.d, f.a].flatMap (regKeys 1) ++ (if f.di = 1#1 then [] else regKeys 1 f.b)) f.ms
    f.mask (.shfl k f) fun _ wh m => shflEffect k f wh m

def voteIssue (s : State) (w : Wid) (f : FCol) (k : VoteKind) : State :=
  issueColl s w (colWord ⟨0x21, k.fn⟩ f) f.gn f.gp (legalVote f (k == .ballot)) (if k = .ballot then regKeys 1 f.d else []) f.ms f.mask (.vote k f)
    fun _ wh m => voteEffect k f wh m

def execShflPick (w : Wid) (f : FCol) (s : State) : Host.Outcome State Fault Refusal := .next (shflIssue s w f .pick)
def execShflRot (w : Wid) (f : FCol) (s : State) : Host.Outcome State Fault Refusal := .next (shflIssue s w f .rot)
def execShflSwap (w : Wid) (f : FCol) (s : State) : Host.Outcome State Fault Refusal := .next (shflIssue s w f .swap)
def execShflLead (w : Wid) (f : FCol) (s : State) : Host.Outcome State Fault Refusal := .next (shflIssue s w f .lead)
def execVoteAny (w : Wid) (f : FCol) (s : State) : Host.Outcome State Fault Refusal := .next (voteIssue s w f .any)
def execVoteAll (w : Wid) (f : FCol) (s : State) : Host.Outcome State Fault Refusal := .next (voteIssue s w f .all)
def execVoteBallot (w : Wid) (f : FCol) (s : State) : Host.Outcome State Fault Refusal := .next (voteIssue s w f .ballot)

/-- The watchdog of R60: an instance still open after OD 0x4020:01 µs faults its context. It does not count while the kernel
is switched out or the device felled, nor the time for which its last member finds the tile queue full (R127). -/
def execCollectiveTimeout (w : Wid) (mask : BitVec 16) (s : State) : Host.Outcome State Fault Refusal :=
  .next (match whorlOf s w with
    | none => s
    | some wh =>
      match wh.colls.find? (fun c => c.mask == mask) with
      | none => s
      | some c =>
        if kernelRuns s wh.kernel && !wh.stopped && !s.felled && c.fullAt.isNone && decide (c.opened + 1000 * odNat s 0x4020 1 ≤ s.now) then
          faultWhorl s w c.pc { code := 6, lanes := c.arrived, kind := 0, addr := 0, other := 0 }
        else s)

end Sys2Proof.Machine
end

