-- ==== Sys2Proof/Machine/Control.lean ====
section
/-! DEFINITION. Reads of control register space: doorbell pages (Table 10.6), chute windows (Table 10.20), the update window
(Tables 16.3 and 16.4), the fault log, recovery registers and cut record (Tables 17.3, 17.4, 17.10, 17.14), and the counter
blocks and observation registers (Tables 18.2 to 18.4). -/

namespace Sys2Proof.Machine

/-! ## Doorbell pages -/

/-- State codes of Table 10.6. -/
def QSt.code : QSt → Nat
  | .ready => 0
  | .paused => 1
  | .cqWait => 2
  | .stalled => 3
  | .faulted => 4

/-- BUSY: a command of the queue is executing. -/
def Queue.busy (q : Queue) : Bool := q.exec.isSome

/-- The readable word of a doorbell page, at offset 0x010. -/
def bellWord (q : Queue) : Nat :=
  q.head.toNat * 2 ^ 32 + min 64 q.shadow.length * 2 ^ 24 + (if q.busy then 8 else 0) + q.st.code

/-! ## Chute windows -/

/-- Words a chute holds at most (Table 10.20: FREE resets to 512). -/
def chuteSlots : Nat := 512

def chuteStatus (x : Chute) : Nat :=
  (chuteSlots - x.words.length) * 2 ^ 32 + x.words.length * 2 ^ 16 + (if x.flush.isEmpty then 0 else 4) +
  (if x.stopped then 2 else 0) + (if x.inPkt then 1 else 0)


/-! ## The update window -/

def slotBase : Nat := 0x013800000000
def updCtlAddr : Nat := 0x013801000000
def updStatusAddr : Nat := 0x013801000008

/-- The slot that does not run (R434). -/
def inactiveSlot (s : State) : Nat := 1 - s.trust.runSlot

def slotMem (s : State) (n : Nat) : Mem := if n = 0 then s.flash.slotA else s.flash.slotB

def setSlotMem (s : State) (n : Nat) (m : Mem) : State :=
  if n = 0 then { s with flash := { s.flash with slotA := m } } else { s with flash := { s.flash with slotB := m } }

/-- Bytes of a slot. An erased byte reads 0xFF, and a byte written twice since the erase holds the AND of the values (R434), so
a slot is kept as the complement of what it reads. -/
def slotRead (m : Mem) (a n : Nat) : List Byte := (mread m a n).map fun b => ~~~b

/-- What a read of a slot returns; the shipped images of slot A are not known. -/
def slotBytes (s : State) (n a k : Nat) : List Byte :=
  if n = 0 ∧ s.flash.factory then (List.range k).map fun i => Config.factoryByte (a + i) else slotRead (slotMem s n) a k

def slotProgram (m : Mem) (a : Nat) (data : List Byte) : Mem :=
  mwrite m a ((data.zip (mread m a data.length)).map fun x => ~~~x.1 ||| x.2)

/-- UPD_STATUS (Table 16.4). -/
def updStatus (t : Trust) : Nat :=
  (if t.done then 2 ^ 63 else 0) + (if t.pend then 2 ^ 62 else 0) + (if t.onTrial then 2 ^ 61 else 0) +
  (if t.dropped then 2 ^ 60 else 0) + t.svn % 2 ^ 32 * 16 + t.result % 16

/-! ## The fault log and the recovery registers -/

def flogBase : Nat := 0x013802000000
def flogCountAddr : Nat := 0x013802020000
def flogAckAddr : Nat := 0x013802020008
def bayResetAddr : Nat := 0x013802020010
def bayStateAddr : Nat := 0x013802020018
def cutBase : Nat := 0x013803000000

/-- Bits of an entry (Table 17.4). -/
def flogBits (e : FlogEnt) : Nat :=
  e.time.toNat * 2 ^ 192 + e.seq % 2 ^ 32 * 2 ^ 160 + e.event % 65536 * 2 ^ 144 + e.unit % 65536 * 2 ^ 128 +
  e.addr.toNat * 2 ^ 64 + e.detail.toNat * 2 ^ 32

/-- The entry kept at position i of the log. -/
def flogAt (s : State) (i : Nat) : Nat :=
  match s.flog.entries.find? (fun e => e.seq % 4096 == i) with
  | some e => flogBits e
  | none => 0

/-- State codes of Table 17.10. -/
def BaySt.code : BaySt → Nat
  | .running => 0
  | .resetting => 1
  | .returning => 2
  | .retired => 3
  | .asleep => 4
  | .off => 5

def bayStateWord (s : State) : Nat :=
  (List.range 4).foldl (fun n b => n + (s.bay b).st.code * 2 ^ (4 * b)) 0

/-- The cut record's first 64 B (Table 17.14). -/
def cutHeader (f : Fell) : Nat :=
  f.cutTime.toNat * 2 ^ 448 + f.cutTrig.toNat * 2 ^ 384 + f.cutReason.toNat * 2 ^ 368 + f.cutSource * 2 ^ 360 +
  f.noBay.toNat * 2 ^ 356

/-- Session entry n of the cut record. -/
def cutSession (f : Fell) (n : Nat) : Nat :=
  match fget f.sess n with
  | some (tx, r, a, st) => tx.toNat * 2 ^ 96 + r.toNat * 2 ^ 64 + a.toNat * 2 ^ 32 + st
  | none => 0

/-! ## Counter blocks -/

def bankBase : Nat := 0x013400000000
def obsBase : Nat := 0x013403000000

/-- Stall reasons that Table 18.1 lists for the engine of a block. -/
def listedReasons (k : Nat) : List Nat :=
  if k < 0x10000 then
    (match k % 4 with
     | 0 => [0, 1, 2, 15]
     | 1 => [0, 1, 2, 3, 4, 5, 6, 7, 8, 15]
     | 2 => [0, 1]
     | _ => [0, 1])
  else if k < 0x10800 then [0, 1, 2, 3, 4]
  else if k < 0x11000 then [0, 1, 2, 3, 4, 5]
  else if k < 0x11800 then [0, 1, 2, 3]
  else if k < 0x12000 then [0, 1, 2, 3, 15]
  else [0, 1]

/-- Does a block belong to an engine in use whose domain is not OFF (R468, R473)? -/
def bankShown (s : State) (k : Nat) : Bool :=
  if k < 0x10000 then coreUsed s (k / 4) && (s.dom (coreDomain s (k / 4))).st != .off
  else if k < 0x10080 then (s.dom (19 * ((k - 0x10000) / 32) + 16 + (k - 0x10000) / 16 % 2)).st != .off
  else if k < 0x10800 then false
  else if k < 0x10820 then (s.dom (19 * ((k - 0x10800) / 8) + (if (k - 0x10800) % 8 < 4 then 16 else 17))).st != .off
  else if k < 0x11000 then false
  else if k < 0x110A0 then
    let j := (k - 0x11000) / 16
    (s.dom (if j < 4 then 19 * j + 18 else if j < 8 then 19 * (j - 4) + 18 else 77)).st != .off
  else if k = 0x11800 then true
  else decide (0x12000 ≤ k) && decide (k < 0x12100)

/-- Does a word of a bank hold a counter (R469)? -/
def bankWordUsed (k i : Nat) : Bool :=
  decide (i < 7) || (decide (8 ≤ i) && decide (i < 24) && (listedReasons k).contains (i - 8))

/-- Word i of the RUN bank, or with 32 added of the LAST bank, of block k (Table 18.3). -/
def bankWord (s : State) (k i : Nat) : Nat :=
  if !bankShown s k || !bankWordUsed k (i % 32) then 0
  else
    let b := s.bank k
    if i < 32 then b.epoch % 65536 * 2 ^ 48 + fgetD b.run i 0
    else (b.epoch + 65535) % 65536 * 2 ^ 48 + fgetD b.last (i - 32) 0

/-- An observation register (Table 18.4). -/
def obsWord (o : Obs) (off : Nat) : Nat :=
  match off with
  | 0x000 => (if o.epen then 2 ^ 63 else 0) + o.epq
  | 0x010 => o.epochSh
  | 0x020 => o.rlBase.toNat
  | 0x028 => (if o.grain then 512 else 0) + (if o.stopFull then 256 else 0) + o.rlog
  | 0x030 => o.rlWptr
  | 0x038 => o.rlRptr.toNat
  | 0x040 => o.smpBase.toNat
  | 0x048 => o.smpN * 2 ^ 48 + o.sel.toNat * 2 ^ 32 + o.period
  | 0x050 => o.smpWptr
  | 0x058 => o.smpSkip
  | _ => 0

/-! ## One aligned 8 B word, and ranges -/

/-- The aligned word of control or chute space at an address. -/
def ctlWord (s : State) (a : Nat) : Nat :=
  if regionOf a = .chute then (if a % 0x1000 = 0x200 then chuteStatus (s.chute (chuteOf a)) else 0)
  else match bellQueue a with
  | some q =>
    (match fget s.queues q with
     | some x => if a % 0x1000 = 0x010 then bellWord x else 0
     | none => 0)
  | none =>
    if a < bankBase then 0
    else if a < obsBase then bankWord s ((a - bankBase) / 0x200) ((a - bankBase) % 0x200 / 8)
    else if a < slotBase then obsWord s.obs (a - obsBase)
    else if a < updCtlAddr then leNat (slotBytes s (inactiveSlot s) (a - slotBase) 8)
    else if a = updStatusAddr then updStatus s.trust
    else if a < flogBase then 0
    else if a < flogCountAddr then bits (flogAt s ((a - flogBase) / 32)) ((a - flogBase) % 32 * 8 + 63) ((a - flogBase) % 32 * 8)
    else if a = flogCountAddr then s.flog.count
    else if a = flogAckAddr then s.flog.ack.toNat
    else if a = bayStateAddr then bayStateWord s
    else if a < cutBase then 0
    else if a < cutBase + 0x40 then bits (cutHeader s.fell) ((a - cutBase) * 8 + 63) ((a - cutBase) * 8)
    else if a < cutBase + 0x4040 then
      bits (cutSession s.fell ((a - cutBase - 0x40) / 16)) ((a - cutBase) % 16 * 8 + 63) ((a - cutBase) % 16 * 8)
    else 0

/-- Are slot bytes meant: they take accesses of 4 B too (R434)? -/
def inSlotBytes (pa : Nat) : Bool := decide (slotBase ≤ pa) && decide (pa < updCtlAddr)

/-- The bytes that a read of control or chute space returns: whole aligned words; an access of another shape takes no effect
and reads 0 (R271, R442, R470). DEDUCED, log 22. -/
def ctlRead (s : State) (pa len : Nat) : List Byte × Bool :=
  if inSlotBytes pa then (slotBytes s (inactiveSlot s) (pa - slotBase) len, false)
  else if pa % 8 ≠ 0 ∨ len % 8 ≠ 0 then (List.replicate len 0#8, false)
  else ((List.range (len / 8)).flatMap fun i => leBytes 8 (ctlWord s (pa + 8 * i)), false)

end Sys2Proof.Machine
end

