-- ==== Sys2Proof/Machine/Waiting.lean ====
section
/-! DEFINITION. Waiting on an address or a time (R63 to R67, R105): watches, return codes, and what ends a wait. -/

namespace Sys2Proof.Machine

/-! ## Reading a watched word -/

/-- The word as the place it lives serves it, and whether it is poisoned. -/
def watchRead (s : State) (pa size : Nat) : Nat × Bool :=
  let (b, p) := match regionOf pa with
    | .chute => ctlRead s pa size
    | .ctl => ctlRead s pa size
    | _ => placeRead s pa size
  (leNat b, p)

/-- The word as the waiting core reads it: a .RLX read may hit its L1 (R71). -/
def coreReads (s : State) (core : Nat) (acq : Bool) (pa size : Nat) : Nat × Bool :=
  if acq then watchRead s pa size
  else match l1Read (s.core core) pa size with
    | some (b, p) => (leNat b, p)
    | none => watchRead s pa size

/-- Can the home answer for a word now: it is lost and answers with poison, or its line is not with an external owner, and no transaction is open on it? -/
def homeAnswers (s : State) (pa : Nat) : Bool :=
  regionOf pa != .dram || placeGone s pa ||
    ((missOf s (pa / 1024)).isNone &&
      (match s.line? (pa / 1024) with
       | some e => !e.extOwned
       | none => true))

/-- Is the condition of a wait met by a value (R63)? -/
def waitMet (ne : Bool) (value cmp : Nat) : Bool := if ne then value != cmp else value == cmp

/-- A path that leaves a wait stands at its next instruction: it parks if that is its join, and a whorl whose current path
cannot run switches (R52, R55). -/
def rejoin (wh : Whorl) (pid : Nat) : Whorl :=
  let wh1 := match wh.path? pid with
    | some p =>
      (match p.joins with
       | j :: _ => if j.addr = p.pc then wh.setPath { p with st := .parked wh.issues } else wh
       | [] => wh)
    | none => wh
  let wh2 := settle 24 wh1
  match wh2.curPath? with
  | some p => if p.runnable then wh2 else switchPath wh2
  | none => switchPath wh2

/-- Writes a code to the destination of every thread of a path. -/
def waitCode (wh : Whorl) (p : Path) (dest code : Nat) : Whorl := wh.vputAll false dest (fun _ => code) (lanesOf p.lanes)

def dropWatch (s : State) (w : Wid) (pid : Nat) : State :=
  { s with mem := { s.mem with watches := s.mem.watches.filter fun x => x.2 != (w.core, w.slot, pid) } }

/-- The wait of a path, if it waits. -/
def waitOf (s : State) (w : Wid) (pid : Nat) : Option (Whorl × Path × WaitInfo) :=
  match whorlOf s w with
  | none => none
  | some wh =>
    match wh.path? pid with
    | none => none
    | some p =>
      match p.st with
      | .waiting i => some (wh, p, i)
      | _ => none

/-! ## The end of a wait -/

/-- Ends a wait with a code: the word is read with the given ordering, then the code is written to every thread (R63). -/
def finishWait (s : State) (w : Wid) (pid code : Nat) : State :=
  match waitOf s w pid with
  | none => s
  | some (wh, p, i) =>
    let timer := i.at_ == .timer
    let bad := !timer && homeAnswers s i.pa && (coreReads s w.core i.acq i.pa i.size).2
    if bad then
      faultWhorl (dropWatch s w pid) w i.pc { code := 4, lanes := p.lanes, kind := 16, addr := i.va, other := 0 }
    else
      let s1 := if i.acq then acquireL1 (checkAcquire s i.pa i.scope w.core) w.core i.scope else s
      let wh1 := (waitCode wh p i.dest code).setPath { p with pc := p.pc + 8, st := .run }
      dropWatch (putWhorl s1 w (rejoin wh1 pid)) w pid

/-- Every wait on words that satisfy a test ends with code 2 (R67). -/
def loseWaits (s : State) (p : WaitInfo → Bool) : State :=
  let all := s.cores.flatMap fun c => c.2.slots.flatMap fun e => e.2.paths.filterMap fun x =>
    match x.st with
    | .waiting i => if p i then some (c.1, e.1, x.pid) else none
    | _ => none
  all.foldl (fun t x => finishWait t ⟨x.1, x.2.1⟩ x.2.2 2) s

/-! ## Issue -/

/-- Where the watch of a word sits (R65). -/
def watchPlace (s : State) (pa : Nat) : WatchAt :=
  match regionOf pa with
  | .store => .store (storeCore pa)
  | .dram => .slice (homeSlice s (pa / 1024))
  | .scratch => .slice (scratchSlice pa)
  | _ => .poll

/-- Does a path that waits still await the read at issue of a polled word (R63, R65)? DEDUCED, log 24. -/
def firstRead (i : WaitInfo) : Bool := i.at_ == .poll && i.nextPoll == 0

/-- Watch slots of a core in use: one for each path that waits on a word, once its condition has been checked (R65).
DEDUCED, log 24. -/
def slotsUsed (s : State) (core : Nat) : Nat :=
  ((s.core core).slots.flatMap fun e => e.2.paths.filter fun p =>
    match p.st with
    | .waiting i => i.at_ != .timer && !firstRead i
    | _ => false).length

/-- Enters a watch in its slice's table of 64; a full table drops its oldest, whose path returns code 2 (R65). -/
def addWatch (s : State) (a : WatchAt) (w : Wid) (pid : Nat) : State :=
  match a with
  | .slice n =>
    let mine := s.mem.watches.filter fun x => x.1 == n
    let s1 := if mine.length < 64 then s
      else match mine with
        | (_, c, sl, q) :: _ => finishWait s ⟨c, sl⟩ q 2
        | [] => s
    { s1 with mem := { s1.mem with watches := s1.mem.watches ++ [(n, w.core, w.slot, pid)] } }
  | _ => s

/-- A path begins to wait. -/
def beginWait (s : State) (w : Wid) (p : Path) (i : WaitInfo) : State :=
  match whorlOf s w with
  | none => s
  | some wh => addWatch (putWhorl s w (wh.setPath { p with st := .waiting i })) i.at_ w p.pid

/-- The deadline register of WAIT.EQ and WAIT.NE (R105). -/
def deadlineReg (f : FMem) : Nat := f.off.toNat % 32

/-- Legality of WAIT.EQ and WAIT.NE (R105). -/
def legalWait (f : FMem) : Bool :=
  guardAll f.gn f.gp && ordOk f [0, 1] && (f.sz == 2#3 || f.sz == 3#3) && vOk f.d && uOk f.a && uOk f.b && f.cls == 0#3 &&
  f.off.extractLsb' 5 10 == 0#10

def waitKeys (f : FMem) : List Nat := regKeys 1 f.d ++ [regKey f.a, regKey f.b, 64 + deadlineReg f]

/-- WAIT.EQ and WAIT.NE: the condition is checked at issue, once the core's earlier messages to the place have arrived (R257), then the deadline, then
the path waits (R63, R65). DEDUCED, log 24. -/
def waitIssue (s : State) (w : Wid) (f : FMem) (ne : Bool) : State :=
  issueInstr s w true (memWord ⟨1, if ne then 1 else 0⟩ f) f.gn f.gp (legalWait f) (waitKeys f) fun s1 wh p =>
    if acquireOpen s1 w p then .stay
    else
      let ctx := whorlCtx s1 wh
      let va := wh.uget (regNo f.a)
      let size := memSize f
      match resolve s1 (.core w.core w.slot) ctx .read 16 size ((lanesOf p.lanes).map fun l => (l, va)) with
      | .fault i s2 => .fault i s2
      | .wait s2 => .held s2
      | .ok as s2 =>
        let pa := (as.head?.map (·.2.2)).getD 0
        if (ownStore w.core pa && (tileTouches s2 ctx w.core wh pa size || ownHeld s2 w.core pa size)) ||
           !turnOf s2 (.core w.core w.slot) s2.mem.nextReq pa then .stay
        else match placeAsk s2 (.core w.core w.slot) pa size with
        | some s3 => .held s3
        | none =>
          let cmp := wh.uget (regNo f.b) % 2 ^ (8 * size)
          let deadline := BitVec.ofNat 64 (wh.uget (deadlineReg f))
          let acq := f.ord.getLsbD 0
          let place := watchPlace s2 pa
          let answers := place != .poll
          let (value, bad) := if answers then coreReads s2 w.core acq pa size else (0, false)
          let code := fun (c : Nat) =>
            let s3 := if acq then acquireL1 (checkAcquire s2 pa f.sc.toNat w.core) w.core f.sc.toNat else s2
            Done.away (putWhorl s3 w (waitCode wh p (regNo f.d) c))
          if answers && bad then .fault { code := 4, lanes := p.lanes, kind := 16, addr := va, other := 0 } s2
          else if answers && waitMet ne value cmp then code 0
          else if answers && decide (deadline.toNat ≤ s2.now) && deadline != BitVec.allOnes 64 then code 1
          else if answers && decide (16 ≤ slotsUsed s2 w.core) then code 2
          else
            .jumped (beginWait s2 w p
              { ne := ne, va := va, pa := pa, size := size, cmp := BitVec.ofNat 64 cmp, deadline := deadline, acq := acq,
                scope := f.sc.toNat, dest := regNo f.d, pc := p.pc, at_ := place, nextPoll := 0 })

def execWaitEq (w : Wid) (f : FMem) (s : State) : Host.Outcome State Fault Refusal := .next (waitIssue s w f false)
def execWaitNe (w : Wid) (f : FMem) (s : State) : Host.Outcome State Fault Refusal := .next (waitIssue s w f true)

/-- Legality of WAIT.T: D of class v, A of class u. -/
def legalWaitT (f : FReg) : Bool :=
  usedOnly f { UseReg.none with d := true, a := true } && guardAll f.gn f.gp && vOk f.d && uOk f.a

/-- WAIT.T (R64): code 1 at once at or after the deadline, otherwise the path waits for it. DEDUCED, log 24. -/
def execWaitT (w : Wid) (f : FReg) (s : State) : Host.Outcome State Fault Refusal :=
  .next (issueInstr s w true (regWord ⟨0, 4⟩ f) f.gn f.gp (legalWaitT f) (regKeys 1 f.d ++ [regKey f.a]) fun s1 wh p =>
    let deadline := BitVec.ofNat 64 (wh.uget (regNo f.a))
    if deadline.toNat ≤ s1.now then .away (putWhorl s1 w (waitCode wh p (regNo f.d) 1))
    else
      .jumped (beginWait s1 w p
        { ne := false, va := 0, pa := 0, size := 0, cmp := 0#64, deadline := deadline, acq := false, scope := 0,
          dest := regNo f.d, pc := p.pc, at_ := .timer, nextPoll := 0 }))

/-! ## What ends a wait -/

/-- May a waiting path of a whorl resume now? -/
def mayResume (s : State) (w : Wid) (wh : Whorl) : Bool := coreRuns s w.core && !wh.stopped && kernelRuns s wh.kernel

/-- WAIT_CONDITION_MET: the watched word meets the condition after a write (R63, R66). -/
def execWaitConditionMet (w : Wid) (path : Nat) (s : State) : Host.Outcome State Fault Refusal :=
  .next (match waitOf s w path with
    | none => s
    | some (wh, _, i) =>
      if mayResume s w wh && i.at_ != .timer && i.at_ != .poll && homeAnswers s i.pa &&
          (waitMet i.ne (watchRead s i.pa i.size).1 i.cmp.toNat || (watchRead s i.pa i.size).2)
      then finishWait s w path 0 else s)

/-- WAIT_DEADLINE: device time has reached the deadline (R63, R64, R66). A polled word has been read at least once before. -/
def execWaitDeadline (w : Wid) (path : Nat) (s : State) : Host.Outcome State Fault Refusal :=
  .next (match waitOf s w path with
    | none => s
    | some (wh, _, i) =>
      if mayResume s w wh && decide (i.deadline.toNat ≤ s.now) && (i.at_ == .timer || i.deadline != BitVec.allOnes 64) &&
          (i.at_ != .poll || i.nextPoll != 0)
      then finishWait s w path 1 else s)

/-- Cells that lie in a range. -/
def cellsIn (hw : List Host.Cell) (pa len : Nat) : List Host.Cell :=
  hw.filter fun c => decide (pa ≤ c.1) && decide (c.1 < pa + len)

/-- Takes what the host or a peer answered for a range. DESIGN CHOICE, log 4, 12. -/
def hostLearn (s : State) (hw : List Host.Cell) (pa len : Nat) : State :=
  match regionOf pa with
  | .host => { s with mem := { s.mem with host := mmerge s.mem.host (cellsIn hw pa len) } }
  | .peer => { s with mem := { s.mem with host := mmerge s.mem.host (cellsIn hw pa len) } }
  | _ => s

/-- Can a word outside the device be read now: its home port is open (R342), or its window has an OPEN session (R363)? -/
def outsideOpen (s : State) (f pa : Nat) : Bool :=
  match regionOf pa with
  | .host => mayOriginate s f && portOpen s (homePort s f)
  | _ => true

/-- WATCH_REREAD: the core reads a polled word, first at issue and then every 1,000 ns of device time (R65); `hw` is what
the host or the peer answers. DEDUCED, log 24. -/
def execWatchReread (w : Wid) (path : Nat) (hw : List Host.Cell) (s : State) : Host.Outcome State Fault Refusal :=
  .next (match waitOf s w path with
    | none => s
    | some (wh, p, i) =>
      let f := (ctxFn s (whorlCtx s wh)).getD 0
      if mayResume s w wh && i.at_ == .poll && decide (i.nextPoll ≤ s.now) && outsideOpen s f i.pa then
        if regionOf i.pa = .peer ∧ windowSession s f i.pa = none then
          faultWhorl (dropWatch s w path) w i.pc { code := 4, lanes := p.lanes, kind := 16, addr := i.va, other := 0 }
        else
          let s1 := hostLearn s hw i.pa i.size
          if waitMet i.ne (watchRead s1 i.pa i.size).1 i.cmp.toNat then finishWait s1 w path 0
          else if firstRead i && decide (i.deadline.toNat ≤ s1.now) && i.deadline != BitVec.allOnes 64 then
            finishWait s1 w path 1
          else if firstRead i && decide (16 ≤ slotsUsed s1 w.core) then finishWait s1 w path 2
          else match whorlOf s1 w with
            | some wh1 => putWhorl s1 w (wh1.setPath { p with st := .waiting { i with nextPoll := s1.now + 1000 } })
            | none => s1
      else s)

end Sys2Proof.Machine
end

