-- ==== Sys2Proof/Machine/Chute.lean ====
section
/-! DEFINITION. Chutes (R296 to R301) and the instructions that read them (R102, R266), with the running state of a command
that a flush completes. -/

namespace Sys2Proof.Machine

/-! ## Commands that execute -/

/-- The execution of a command: a queue's, or a graph node's. -/
def execOf (s : State) (src : CmdSrc) : Option Exec :=
  match src with
  | .queue q =>
    match fget s.queues q with
    | some x => x.exec
    | none => none
  | .node l n =>
    match fget s.launches l with
    | some x => fget x.running n
    | none => none

def setExec (s : State) (src : CmdSrc) (e : Exec) : State :=
  match src with
  | .queue q =>
    match fget s.queues q with
    | some x => s.setQueue q { x with exec := some e }
    | none => s
  | .node l n =>
    match fget s.launches l with
    | some x => s.setLaunch l { x with running := fset x.running n e }
    | none => s

/-- The completion condition of a command is met now (R286). -/
def meetExec (s : State) (src : CmdSrc) (f : Exec → Exec) : State :=
  match execOf s src with
  | some e => setExec s src { f e with phase := .finished, metTime := s.mod.time }
  | none => s

/-- Rank of a status: the first of R441's list that applies is reported. -/
def statusRank (c : Nat) : Nat :=
  match c with
  | 0 => 0
  | 6 => 1
  | 4 => 2
  | 3 => 3
  | 9 => 4
  | 8 => 5
  | 2 => 6
  | 5 => 7
  | _ => 8

/-- Adds a condition to a command's status (R441). -/
def worsen (e : Exec) (c : Nat) : Exec := if statusRank e.status < statusRank c then { e with status := c } else e

/-- The status of a write that ended with an error: the peer's, or an unavailable home's (R241, R371). -/
def writeError (s : State) (r : Req) : Nat :=
  if r.lanes.any (·.err) then
    (match r.region with
     | .peer => if (windowSession s (reqFn s r) ((r.lanes.head?.map (·.pa)).getD 0)).isSome then 2 else 8
     | _ => 9)
  else match r.kind with
    | .atom _ => if r.lanes.any (·.pois) then 3 else 0
    | _ => 0

/-- A write of a command is acknowledged: it leaves the list of those awaited; the last one meets the command's condition. -/
def ackExec (s : State) (id code : Nat) (e : Exec) : Exec :=
  if e.writes.contains id then
    let e1 := worsen { e with writes := e.writes.filter (· != id) } code
    if e.phase = .finished ∧ e1.writes.isEmpty ∧ bits e.rec_.bits.toNat 19 18 ≠ 0 then { e1 with metTime := s.mod.time } else e1
  else e

/-- A queue hears of a write of its own. A completion record that is written sends CVEC (R263); one that met a completer error goes to the
shadow ring with those after it, and the queue stalls (Table 10.7). A HEAD write-back that met one is counted (R273). -/
def recordAcked (s : State) (q id : Nat) (bad : Bool) : State :=
  match fget s.queues q with
  | none => s
  | some x =>
    if x.heads.contains id then
      let s1 := s.setQueue q { x with heads := x.heads.filter (· != id) }
      if bad then sendMsi (odAdd s1 0x7000 6 1) x.f x.evec else s1
    else match x.recs.find? fun e => e.1 == id with
      | none => s
      | some (_, n, r) =>
        if bad then
          let late := x.recs.filter fun e => decide (n ≤ e.2.1)
          sendMsi (s.setQueue q { x with recs := x.recs.filter fun e => decide (e.2.1 < n), written := n,
                                         shadow := late.map (·.2.2) ++ x.shadow,
                                         st := if x.st = .faulted then .faulted else .stalled }) x.f x.evec
        else
          let s1 := s.setQueue q { x with recs := x.recs.filter fun e => e.1 != id }
          if r.irq then sendMsi (odAdd s1 (0x6010 + x.f) 0x13 1) x.f x.cvec else s1

/-- What an acknowledged write tells its command, its kernel, and the queue that waits to send CVEC (R260, R263). -/
def noteWriteDone (s : State) (r : Req) : State :=
  let code := writeError s r
  let s0 : State := if r.wt then (r.lanes.filter fun l => regionOf l.pa == .dram).foldl (fun t l => cleanLine t (l.pa / 1024)) s else s
  let s1 : State := { s0 with
    queues := s0.queues.map fun q => (q.1, { q.2 with exec := q.2.exec.map (ackExec s r.id code) }),
    launches := s0.launches.map fun l => (l.1, { l.2 with running := l.2.running.map fun n => (n.1, ackExec s r.id code n.2) }),
    kerns := s0.kerns.map fun k =>
      if k.2.ctx == r.ctx && (match reqCore r with
          | some c => k.2.cores.contains c
          | none => false)
      then (k.1, { k.2 with lastAck := s.now }) else k }
  (s1.queues.map (·.1)).foldl (fun t q => recordAcked t q r.id (code != 0)) s1

/-! ## A chute -/

/-- OD 0x7400 + c. -/
def chuteOd (c : Nat) : Nat := 0x7400 + c

/-- 8 B words that n data bytes came in. -/
def wordsIn (n : Nat) : Nat := (n + 7) / 8

/-- Counts dropped 8 B words (sub-index 05). -/
def chuteDrop (s : State) (c n : Nat) : State := odAdd s (chuteOd c) 5 n

/-- The configured producer's code (Table 10.19). -/
def srcCode : ChuteSrc → Nat
  | .hostPort p => 1 + p
  | .rafter n => 3 + n
  | .dma => 5

def isHost : ChuteSrc → Bool
  | .hostPort _ => true
  | _ => false

/-- A flush takes effect: every stored word is discarded, and the requests that asked for it complete (R301). -/
def flushNow (s : State) (c : Nat) : State :=
  let x := s.chute c
  let n := x.words.foldl (fun k w => k + wordsIn w.nbytes) 0
  let s1 := chuteDrop (s.setChute c { x with words := [], flush := [] }) c n
  x.flush.foldl (fun t r => match r with
    | some src => meetExec t src fun e => { e with aux := x.words.length }
    | none => t) s1

/-- A packet ends; a pending flush takes effect (R301). -/
def endPacket (s : State) (c : Nat) : State :=
  let x := s.chute c
  let s1 := s.setChute c { x with inPkt := false, cur := [], stored := false }
  if x.flush.isEmpty then s1 else flushNow s1 c

/-- Appends a stored word and counts it (Table 18.1). -/
def pushWord (s : State) (c : Nat) (w : CWord) : State :=
  let x := s.chute c
  count (count (s.setChute c { x with words := x.words ++ [w], stored := true, cur := [] }) (chuteBank c) 3 1) (chuteBank c) 0 1

/-- The word that a chute's packed bytes make, padded with zeros (R298). -/
def packed (x : Chute) (bytes : List Byte) (last : Bool) : CWord :=
  { bytes := bytes ++ List.replicate (64 - bytes.length) 0#8, first := !x.stored, last := last, trunc := false, pois := false,
    pkt := x.pkt, nbytes := bytes.length }

/-- The marker that ends a cut-off packet (R299). -/
def marker (x : Chute) : CWord :=
  { bytes := List.replicate 64 0#8, first := !x.stored, last := true, trunc := true, pois := false, pkt := x.pkt, nbytes := 0 }

/-- A word is to be stored (R299). -/
def storeWord (s : State) (c : Nat) (src : ChuteSrc) (bytes : List Byte) (last : Bool) : State :=
  let x := s.chute c
  let free := chuteSlots - x.words.length
  if 2 ≤ free then
    let s1 := pushWord s c (packed x bytes last)
    if last then endPacket s1 c else s1
  else if isHost src then
    let s1 := chuteDrop s c (wordsIn bytes.length)
    let s2 := if free = 1 then pushWord s1 c (marker x) else s1
    endPacket (s2.setChute c { s2.chute c with dropping := !last }) c
  else s.setChute c { x with waitSrc := some src, waitWord := bytes, waitLast := last, cur := [] }

/-- A packet's first data bytes open it and number it (R298). -/
def openPacket (x : Chute) : Chute :=
  if x.inPkt then x else { x with inPkt := true, stored := false, cur := [], pkt := (x.pkt + 1) % 65536 }

/-- The producer writes up to 8 data bytes; `last` ends the packet (R298, R299). While a producer waits for space its next
write waits with it. -/
def chutePut (s : State) (c : Nat) (src : ChuteSrc) (data : List Byte) (last : Bool) : State :=
  let x := s.chute c
  if x.waitSrc.isSome then s
  else if x.dropping then chuteDrop (s.setChute c { x with dropping := !last }) c 1
  else if x.stopped then
    chuteDrop (s.setChute c { x with dropping := !last, pkt := (x.pkt + 1) % 65536 }) c 1
  else
    let y := openPacket x
    let cur := y.cur ++ data
    let s1 := s.setChute c { y with cur := cur }
    if last ∨ 64 ≤ cur.length then storeWord s1 c src cur last else s1

/-- The producer waits no longer: there is space for its word beside the marker's slot (R299). -/
def producerGoesOn (s : State) (c : Nat) : State :=
  let x := s.chute c
  match x.waitSrc with
  | none => s
  | some src =>
    if 2 ≤ chuteSlots - x.words.length then
      storeWord (s.setChute c { x with waitSrc := none, waitWord := [], waitLast := false }) c src x.waitWord x.waitLast
    else s

/-- A flush is requested (R301): at once where no packet is open, otherwise at its end. DEDUCED, log 43. -/
def chuteFlush (s : State) (c : Nat) (r : Option CmdSrc) : State :=
  let x := s.chute c
  let s1 := s.setChute c { x with flush := x.flush ++ [r] }
  if x.inPkt then s1 else flushNow s1 c

/-- STOP (R301): a packet open at that moment ends as a cut-off packet. -/
def chuteStop (s : State) (c : Nat) : State :=
  let x := s.chute c
  let s1 := s.setChute c { x with stopped := true }
  if x.inPkt then
    let lost := wordsIn x.cur.length + wordsIn x.waitWord.length
    let s2 := chuteDrop s1 c lost
    let s3 := if 1 ≤ chuteSlots - x.words.length then pushWord s2 c (marker x) else s2
    let y := s3.chute c
    endPacket (s3.setChute c { y with dropping := !(x.waitSrc.isSome && x.waitLast), waitSrc := none, waitWord := [],
                                      waitLast := false }) c
  else s1

/-- START reopens the input (R301). -/
def chuteStart (s : State) (c : Nat) : State := s.setChute c { s.chute c with stopped := false }

/-- Is a write into the window from the configured producer (R297)? -/
def fromProducer (s : State) (c : Nat) (src : ChuteSrc) : Bool := odNat s (chuteOd c) 2 == srcCode src

/-- A write of up to 8 data bytes into a chute's window: one from another source is discarded and counted (R297). -/
def chuteWrite (s : State) (c : Nat) (src : ChuteSrc) (data : List Byte) (last : Bool) : State :=
  if fromProducer s c src then chutePut s c src data last else odAdd s (chuteOd c) 7 1

/-- Any write into chute space (R297, Table 10.20): an aligned 8 B write to WORD or LASTn, or a discarded one. -/
def chuteSpaceWrite (s : State) (pa : Nat) (src : Option ChuteSrc) (data : List Byte) : State :=
  let c := chuteOf pa
  let off := pa % 0x1000
  match src with
  | none => odAdd s (chuteOd c) 7 1
  | some p =>
    if data.length ≠ 8 ∨ off % 8 ≠ 0 then odAdd s (chuteOd c) 7 1
    else if off = 0 then chuteWrite s c p data false
    else if 0x100 ≤ off ∧ off < 0x140 then chuteWrite s c p (data.take ((off - 0x100) / 8 + 1)) true
    else odAdd s (chuteOd c) 7 1

/-- Are writes that a host port sent before a word still on their way? The word arrives after them, so that who takes it sees them (R266). -/
def hostBehind (s : State) (src : ChuteSrc) : Bool :=
  match src with
  | .hostPort p => deviceOpen s (portWrites s p)
  | _ => false

/-- WORD: 8 data bytes, the packet continues (Table 10.20). -/
def execWord (src : ChuteSrc) (chute : Nat) (data : W64) (s : State) : Host.Outcome State Fault Refusal :=
  .next (if hostBehind s src then s else chuteWrite s chute src (leBytes 8 data.toNat) false)

/-- LASTn: the first n bytes are data, and the packet ends (Table 10.20). -/
def execLastn (src : ChuteSrc) (chute : Nat) (n : Nat) (data : W64) (s : State) : Host.Outcome State Fault Refusal :=
  .next (if hostBehind s src then s else chuteWrite s chute src ((leBytes 8 data.toNat).take n) true)

/-- PRODUCER_RESUME: a waiting producer goes on (R299). -/
def execProducerResume (chute : Nat) (s : State) : Host.Outcome State Fault Refusal := .next (producerGoesOn s chute)

/-! ## Reading (R300, R102) -/

/-- The tag of a taken word (Table 10.21). -/
def chuteTag (w : CWord) (level : Nat) : Nat :=
  2 ^ 63 + (if w.first then 2 ^ 62 else 0) + (if w.last then 2 ^ 61 else 0) + (if w.trunc then 2 ^ 60 else 0) +
  (if w.pois then 2 ^ 59 else 0) + w.pkt % 65536 * 2 ^ 32 + level % 65536 * 2 ^ 16 + w.nbytes % 128

/-- Takes the oldest word: tag, 64 bytes, and the chute after it. What the word's code finds is a free value: nothing, an error it corrects,
or one it cannot (R300). DESIGN CHOICE, log 102. -/
def chuteTake (s : State) (c : Nat) : Nat × List Byte × State :=
  let x := s.chute c
  match x.words, x.flush with
  | w :: rest, [] =>
    let s1 := count (count (s.setChute c { x with words := rest }) (chuteBank c) 4 1) (chuteBank c) 0 1
    let (x0, s2) := s1.draw
    let flaw := x0.toNat % 3
    let v := { w with pois := w.pois || flaw == 2 }
    if v.pois then (chuteTag v rest.length, List.replicate 64 0#8, odAdd s2 (chuteOd c) 4 1)
    else (chuteTag v rest.length, v.bytes, if flaw = 1 then odAdd s2 (chuteOd c) 3 1 else s2)
  | _, _ => (0, List.replicate 64 0#8, count s (chuteBank c) 5 1)

/-- The chute that register A names, where the context's partition holds it (R102). -/
def chuteNamed (s : State) (ctx a : Nat) : Option Nat :=
  if a < 256 ∧ ctxFn s ctx = some (odNat s (chuteOd a) 1) then some a else none

/-- The TRANSLATION fault of a chute instruction, which has no virtual address: ADDR holds register A's value, KIND 0 and the path's
lanes (R78, R102). DESIGN CHOICE, log 92. -/
def chuteFault (p : Path) (a : Nat) : FaultInfo := { code := 3, lanes := p.lanes, kind := 0, addr := a, other := 0 }

/-- A kernel that took a valid word cannot be replayed (R316). -/
def noteTaken (s : State) (wh : Whorl) (tag : Nat) : State :=
  if tag = 0 then s
  else match fget s.kerns wh.kernel with
    | some k => s.setKern wh.kernel { k with chuteTaken := true }
    | none => s

/-- A taken word is an acquire of scope SYSTEM (R266). -/
def takenAcquire (s : State) (core tag : Nat) : State := if tag = 0 then s else acquireL1 s core 4

/-- CHUTE.RD: D v the data, C u the tag. DEDUCED, log 26. DESIGN CHOICE, log 102. -/
def execChuteRd (w : Wid) (f : FReg) (s : State) : Host.Outcome State Fault Refusal :=
  .next (issueInstr s w true (regWord ⟨0x30, 0⟩ f) f.gn f.gp
    (usedOnly f { UseReg.none with d := true, a := true, c := true } && guardAll f.gn f.gp && vOk f.d && uOk f.a && uOk f.c)
    (regKeys 1 f.d ++ [regKey f.a, regKey f.c]) fun s1 wh p =>
      let a := wh.uget (regNo f.a)
      if acquireOpen s1 w p then .stay
      else match chuteNamed s1 (whorlCtx s1 wh) a with
      | none => .fault (chuteFault p a) s1
      | some c =>
        let (tag, b, s3) := chuteTake s1 c
        let s2 := noteTaken s3 wh tag
        let wh1 := wh.vputAll false (regNo f.d) (fun l => leNat ((b.drop (4 * l)).take 4)) (lanesOf p.lanes)
        .next (putWhorl (takenAcquire s2 w.core tag) w (wh1.uset (regNo f.c) tag)))

/-- CHUTE.RDS: the word goes to an aligned 64 B block of the core's own store; D u the tag. -/
def execChuteRds (w : Wid) (f : FReg) (s : State) : Host.Outcome State Fault Refusal :=
  .next (issueInstr s w true (regWord ⟨0x30, 1⟩ f) f.gn f.gp
    (usedOnly f { UseReg.none with d := true, a := true, b := true } && guardAll f.gn f.gp && uOk f.d && uOk f.a && uOk f.b)
    [regKey f.d, regKey f.a, regKey f.b] fun s1 wh p =>
      let a := wh.uget (regNo f.a)
      let ctx := whorlCtx s1 wh
      if acquireOpen s1 w p then .stay
      else match chuteNamed s1 ctx a with
      | none => .fault (chuteFault p a) s1
      | some c =>
        match resolve s1 (.core w.core w.slot) ctx .write 1 64 [(lowLane p, wh.uget (regNo f.b))] with
        | .fault i s2 => .fault i s2
        | .wait s2 => .held s2
        | .ok as s2 =>
          let pa := (as.head?.map (·.2.2)).getD 0
          let va := wh.uget (regNo f.b)
          if !ownStore w.core pa then .fault (laneFault 3 1 [(lowLane p, va)]) s2
          else if tileTouches s2 ctx w.core wh pa 64 || ownHeld s2 w.core pa 64 then .stay
          else
            let (tag, b, s4) := chuteTake s2 c
            let s3 := noteTaken s4 wh tag
            .next (putWhorl (takenAcquire (storeWrite (l1Write s3 w.core false pa b) pa b false) w.core tag) w
              (wh.uset (regNo f.d) tag)))

/-- CHUTE.LVL: the count of words stored in the chute, those behind a pending flush too (R102, R300). DESIGN CHOICE, log 93. -/
def execChuteLvl (w : Wid) (f : FReg) (s : State) : Host.Outcome State Fault Refusal :=
  .next (issueInstr s w true (regWord ⟨0x30, 2⟩ f) f.gn f.gp
    (usedOnly f { UseReg.none with d := true, a := true } && guardAll f.gn f.gp && uOk f.d && uOk f.a)
    [regKey f.d, regKey f.a] fun s1 wh p =>
      let a := wh.uget (regNo f.a)
      match chuteNamed s1 (whorlCtx s1 wh) a with
      | none => .fault (chuteFault p a) s1
      | some c => .next (putWhorl s1 w (wh.uset (regNo f.d) (s1.chute c).words.length)))

end Sys2Proof.Machine
end

