-- ==== Sys2Proof/Machine/Pins.lean ====
section
/-! DEFINITION. Kerf and pins (R103, R104, R171, R172, R179 to R181). -/

namespace Sys2Proof.Machine

/-! ## Kerf -/

/-- A kerf of one line reaches its home (R179): after an open miss register of the line, else at once. -/
def kerfLine (s : State) (a : Agent) (line : Nat) : State :=
  homeArrive s { kind := .kf, agent := a, req := 0, seq := 0, tag := 0, pa := 1024 * line, len := 1024, op := 0, data := [],
                 cmp := [], pois := false, cls := 0, looked := false }

/-- Kerfs the lines that lie wholly in [va, va + len), where they are DRAM mapped with the W right (R103). DEDUCED, log 26. -/
def kerfRange (s : State) (a : Agent) (ctx va len : Nat) : State :=
  let first := (va + 1023) / 1024
  let last := (va + len) / 1024
  (List.range (last - first)).foldl (fun t i =>
    match translate t ctx .write ((first + i) * 1024) 1024 with
    | (.ok pa, t1) => if regionOf pa = .dram then kerfLine t1 a (pa / 1024) else t1
    | (_, t1) => t1) s

/-- Is a memory request of the whorl to a range still on its way (R103)? -/
def rangeBusy (s : State) (w : Wid) (va len : Nat) : Bool :=
  s.mem.reqs.any fun r => r.agent == .core w.core w.slot && r.lanes.any fun l => overlap va len l.va (max 1 l.data.length)

/-- KERF: A u the start, B u the length in bytes. -/
def execKerf (w : Wid) (f : FReg) (s : State) : Host.Outcome State Fault Refusal :=
  .next (issueInstr s w true (regWord ⟨0x31, 0⟩ f) f.gn f.gp
    (usedOnly f { UseReg.none with a := true, b := true } && guardAll f.gn f.gp && uOk f.a && uOk f.b)
    [regKey f.a, regKey f.b] fun s1 wh _ =>
      let va := wh.uget (regNo f.a)
      let len := wh.uget (regNo f.b)
      if len = 0 then .next s1
      else if rangeBusy s1 w va len then .stay
      else match (if 2 ^ 57 ≤ va + len then none else pagesNeed s1 (whorlCtx s1 wh) va len) with
      | some e => .held (callLine s1 e 8 (.core w.core w.slot))
      | none => .next (kerfRange s1 (.core w.core w.slot) (whorlCtx s1 wh) va len))

/-! ## Pins -/

/-- What a PIN or UNPIN at its home comes to: a status of R104, or a wait for a way or a register. -/
inductive PinDone where
  | status (n : Nat) (s : State)
  | waits (s : State)

/-- UNPIN of one line: it becomes the most recently used sapwood line of its set (R171). -/
def unpinHome (s : State) (line : Nat) : State :=
  match s.line? line with
  | some e => if e.pin.isSome then touch (s.setLine line { e with pin := none }) line else s
  | none => s

/-- Does a PIN of the line wait for a way or a register already? DESIGN CHOICE, log 91. -/
def pinWaits (s : State) (line : Nat) : Bool :=
  let mine := fun (r : HomeReq) => r.pa / 1024 == line && (match r.kind with
    | .pn _ => true
    | _ => false)
  s.mem.held.any mine || s.mem.miss.any fun m => m.waiters.any mine

/-- A PIN of one line as its home sees it. -/
def pinReq (f line : Nat) : HomeReq :=
  { kind := .pn f, agent := .framer, req := 0, seq := 0, tag := 0, pa := 1024 * line, len := 1024, op := 0, data := [], cmp := [],
    pois := false, cls := 0, looked := false }

/-- PIN of one line by partition f (R171, R172): in place, or allocated as a miss; a line in the overflow table leaves it first. -/
def pinHome (s : State) (f line : Nat) : PinDone :=
  let n := homeSlice s line
  match s.line? line with
  | some e =>
    if e.ovf then
      if pinWaits s line || (missOf s line).isSome || !freeMiss s n then .waits s else .waits (openEvict s n line [pinReq f line])
    else if e.pin.isSome then .status 0 s
    else if 12 ≤ pinnedIn s n (lineSet line) then .status 1 s
    else .status 0 (s.setLine line { e with pin := some f })
  | none =>
    if 12 ≤ pinnedIn s n (lineSet line) then .status 1 s
    else if pinWaits s line then .waits s
    else
      let s1 := homeArrive s (pinReq f line)
      if (s1.line? line).any fun x => x.pin.isSome then .status 0 s1 else .waits s1

/-- PIN or UNPIN of the line of a physical address by partition f, under its pin right (R104, OD 0x6010 + f:05). -/
def pinAt (s : State) (f pa : Nat) (unpin : Bool) : PinDone :=
  if odNat s (0x6010 + f) 5 = 0 then .status 3 s
  else if unpin then .status 0 (unpinHome s (pa / 1024))
  else pinHome s f (pa / 1024)

/-- PIN and UNPIN: D u the status, A u the address (R104). The spec gives statuses 2 and 3 no priority: an address without a usable
mapping answers 2, whatever the pin right says. DESIGN CHOICE, log 91. -/
def pinIssue (s : State) (w : Wid) (f : FReg) (unpin : Bool) : State :=
  issueInstr s w true (regWord ⟨0x32, if unpin then 1 else 0⟩ f) f.gn f.gp
    (usedOnly f { UseReg.none with d := true, a := true } && guardAll f.gn f.gp && uOk f.d && uOk f.a)
    [regKey f.d, regKey f.a] fun s1 wh p =>
      let va := wh.uget (regNo f.a)
      let put := fun (t : State) (n : Nat) => Done.next (putWhorl t w (wh.uset (regNo f.d) n))
      match translateAsk s1 (.core w.core w.slot) (whorlCtx s1 wh) .read va 1 with
      | (.wait, s2) => .held s2
      | (.poisoned, s2) => .fault { code := 4, lanes := p.lanes, kind := 32, addr := va, other := 0 } s2
      | (.ok pa, s2) =>
        if regionOf pa ≠ .dram then put s2 2
        else
          (match pinAt s2 ((ctxFn s2 (whorlCtx s2 wh)).getD 0) pa unpin with
           | .status n s3 => put s3 n
           | .waits s3 => .held s3)
      | (_, s2) => put s2 2

def execPin (w : Wid) (f : FReg) (s : State) : Host.Outcome State Fault Refusal := .next (pinIssue s w f false)
def execUnpin (w : Wid) (f : FReg) (s : State) : Host.Outcome State Fault Refusal := .next (pinIssue s w f true)

end Sys2Proof.Machine
end

