-- ==== Sys2Proof/Machine/Inbound.lean ====
section
/-! DEFINITION. The receiving side of a Rafter session: operations applied in PSN order (R368 to R370), their answers, what
APSN covers, and the end of a session's operations (R371). -/

namespace Sys2Proof.Machine

/-! ## Answers to requests of this device -/

/-- An answer reaches one lane of a request to a peer window. -/
def finishLane (s : State) (req lane : Nat) (got : List Byte) (pois err : Bool) : State :=
  match findReq s req with
  | none => s
  | some r =>
    let f := fun (l : LaneAcc) =>
      if l.lane = lane ∧ regionOf l.pa = .peer ∧ !l.done then
        { l with done := true, err := err, pois := l.pois || pois,
                 got := if r.kind.reads || (match r.kind with
                   | .atom _ => true
                   | _ => false) then some (sliceD got 0 l.data.length 0#8) else none }
      else l
    setReq s (settleReq { r with lanes := r.lanes.map f })

/-- Ends a session's operations (R371): outstanding reads and atomics return poison, writes are neither confirmed nor undone. -/
def endOps (s : State) (n : Nat) : State :=
  let x := s.session n
  let s1 := x.asked.foldl (fun t a => finishLane t a.2.1 a.2.2 [] true true) s
  let s2 := x.posted.foldl (fun t a => finishLane t a.2.1 a.2.2 [] false true) s1
  let y := s2.session n
  pumpPeers (s2.setSess n { y with kept := [], asked := [], posted := [], inbound := [], unacked := 0, retries := 0, held := false })

/-- A session fails or is refused, with a reason. -/
def endSession (s : State) (n st reason : Nat) : State :=
  endOps (s.setSess n { s.session n with st := st, reason := reason, synIn := false, synackIn := false }) n

/-- A session that was set up or open fails: CLOSE is sent, its operations end (Table 13.13). -/
def failSession (s : State) (n reason : Nat) : State := endSession (sendKind s n 5 0) n 4 reason

/-! ## Applying inbound operations -/

/-- Does a PSN come after another (serial arithmetic, R367)? -/
def psnAfter (a b : W32) : Bool := decide (0 < (b - a).toNat) && decide ((b - a).toNat < 2 ^ 31)

/-- The PSN of an inbound operation that a request carries. -/
def reqPsn (r : Req) : W32 := BitVec.ofNat 32 r.pc.toNat

def ofSession (n : Nat) (r : Req) : Bool := r.agent == .session n

/-- APSN: the PSN before the first operation that is not applied and acknowledged here (R365). -/
def settleApsn (s : State) (n : Nat) : State :=
  let x := s.session n
  let next := match x.inbound with
    | i :: _ => i.psn
    | [] => x.rpsn + 1
  let open_ := (s.mem.reqs.filter (ofSession n)).map reqPsn
  let first := open_.foldl (fun a b => if psnAfter b a then b else a) next
  s.setSess n { x with apsn := first - 1 }

/-- May an inbound operation of a function reach these bytes (R369)? -/
def inboundAllowed (s : State) (n : Nat) (u : Use) (pa len : Nat) : Bool :=
  let f := sessFunc s n
  match regionOf pa with
  | .dram => reachable s f u pa len
  | .scratch => scratchOf s f pa && scratchOf s f (pa + len - 1)
  | .chute => u == .write && odNat s (chuteOd (chuteOf pa)) 1 == f && fromProducer s (chuteOf pa) (.rafter (sessDie s n))
  | _ => false

/-- Lanes of at most 256 B, each within one line, in ascending address order. -/
def splitLanes : Nat → Nat → Nat → List Byte → Bool → List LaneAcc
  | 0, _, _, _, _ => []
  | n + 1, i, pa, b, pois =>
    if b.isEmpty then []
    else
      let k := min b.length (min 256 (1024 - pa % 1024))
      writeLane i pa pa (b.take k) pois :: splitLanes n (i + 1) (pa + k) (b.drop k) pois

/-- Sends an inbound operation on as a request from its session. -/
def inboundReq (s : State) (n : Nat) (i : Inbound) (k : ReqKind) (ls : List LaneAcc) : State :=
  (postReq s { id := 0, agent := .session n, kind := k, lanes := ls, size := i.len, dest := BitVec.ofNat 7 0,
               pc := BitVec.ofNat 64 i.psn.toNat, acq := false, rel := i.scope != 0, scope := if i.scope = 2 then 4 else if i.scope = 1 then 3 else 0,
               cls := 0, region := regionOf i.addr.toNat, ctx := 4096, once := false, phase := .sent, merged := none,
               age := i.tag, back := false, fills := [], noFill := false }).2

/-- A refused operation is answered with ERROR and counted (R369). -/
def refuseInbound (s : State) (n : Nat) (i : Inbound) : State :=
  sendAnswer (odAdd s 0x1500 5 1) n 7 i.tag i.psn.toNat [] 2 false

/-- The TAG of an answer finds the operation it answers. -/
def answerAsked (s : State) (n tag : Nat) (got : List Byte) (pois err : Bool) : State :=
  let x := s.session n
  match x.asked.find? (fun a => a.1 == tag) with
  | none => s
  | some a => finishLane (s.setSess n { x with asked := x.asked.filter fun b => b.1 != tag }) a.2.1 a.2.2 got pois err

/-- An ERROR frame: the operation with the PSN in ADDR, or the TAG, was refused (R369). -/
def errorAnswer (s : State) (n : Nat) (i : Inbound) : State :=
  let s1 := odAdd s 0x1500 6 1
  let x := s1.session n
  let psn := BitVec.ofNat 32 i.addr.toNat
  match x.posted.find? (fun a => a.1 == psn) with
  | some a => finishLane (s1.setSess n { x with posted := x.posted.filter fun b => b.1 != psn }) a.2.1 a.2.2 [] false true
  | none => answerAsked s1 n i.tag [] true true

/-- Applies one operation (Table 13.12). -/
def applyOne (s : State) (n : Nat) (i : Inbound) : State :=
  let pa := i.addr.toNat
  let ok := fun (u : Use) (len : Nat) => decide (0 < len) && decide (pa < 2 ^ 48) && inboundAllowed s n u pa len
  match i.op with
  | 1 =>
    if !ok .write i.len then refuseInbound s n i
    else if regionOf pa = .chute then chuteSpaceWrite s pa (some (.rafter (sessDie s n))) i.data
    else inboundReq s n i .fwrite (splitLanes (i.len + 1) 0 pa i.data i.pois)
  | 2 =>
    if ok .read i.len then inboundReq s n i .read (splitLanes (i.len + 1) 0 pa (blank i.len) false) else refuseInbound s n i
  | 3 => answerAsked s n i.tag i.data i.pois false
  | 4 =>
    let size := if i.sub = 9 then i.len / 2 else i.len
    if (size = 4 ∨ size = 8) ∧ pa % size = 0 ∧ ok .atomic size then
      inboundReq s n i (.atom i.sub) [{ writeLane 0 pa pa (i.data.take size) i.pois with cmp := i.data.drop size }]
    else refuseInbound s n i
  | 5 => answerAsked s n i.tag i.data i.pois false
  | 6 =>
    if i.len % 4 = 0 ∧ pa % 4 = 0 ∧ ok .acw i.len then
      inboundReq s n i (.acw i.sub) (splitLanes (i.len + 1) 0 pa i.data i.pois)
    else refuseInbound s n i
  | 7 => errorAnswer s n i
  | _ => s

/-- Must an operation wait: a release for every earlier one (R368), a chute word for space (R299) and for the session's earlier
writes (R266)? -/
def mustWait (s : State) (n : Nat) (i : Inbound) : Bool :=
  (i.scope != 0 && (s.session n).apsn + 1 != i.psn) ||
    (i.op == 1 && regionOf i.addr.toNat == .chute && ((s.chute (chuteOf i.addr.toNat)).waitSrc.isSome ||
      deviceOpen s ((s.mem.reqs.filter (ofSession n)).map (·.id))))

/-- Applies what may be applied, in PSN order (R368); nothing while the device is felled (R372). -/
def applyInbound (n : Nat) : Nat → State → State
  | 0, s => s
  | k + 1, s =>
    let x := s.session n
    match x.inbound with
    | [] => settleApsn s n
    | i :: rest =>
      if s.felled || mustWait s n i then s
      else applyInbound n k (settleApsn (applyOne (s.setSess n { x with inbound := rest }) n i) n)

def applyAll (s : State) (n : Nat) : State := applyInbound n ((s.session n).inbound.length + 1) s

/-! ## Completion of an inbound request -/

/-- The last 256 responses are kept (R367). -/
def keepAnswer (x : Sess) (psn : W32) (tag : Nat) (b : List Byte) (pois : Bool) : Sess :=
  { x with cache := ((psn.toNat, tag, b, pois) :: x.cache).take 256 }

/-- Every lane of a session's request is answered or applied: READ and ATOMIC are answered, and APSN moves on. -/
def sessionDone (s : State) (n : Nat) (r : Req) : State :=
  let b := r.lanes.flatMap fun l => l.got.getD []
  let pois := r.lanes.any fun l => l.pois || l.err
  let s0 := dropReq s r.id
  let s1 := match r.kind with
    | .read => sendAnswer (s0.setSess n (keepAnswer (s0.session n) (reqPsn r) r.age b pois)) n 3 r.age 0 b 0 pois
    | .atom _ => sendAnswer (s0.setSess n (keepAnswer (s0.session n) (reqPsn r) r.age b pois)) n 5 r.age 0 b 0 pois
    | _ => s0
  applyAll (settleApsn s1 n) n

end Sys2Proof.Machine
end

