-- ==== Sys2Proof/Machine/Returns.lean ====
section
/-! DEFINITION. Requests on their way: their arrival at home slices (R165, R225, R257, R258), the accesses of other agents to
core stores (R29, R155), returns to the whorl (R83), acknowledgements (R248), and granule zeroing (R156). -/

namespace Sys2Proof.Machine

/-! ## Arrival at a home slice -/

def markSent (s : State) (id : Nat) (p : LaneAcc → Bool) : State :=
  match findReq s id with
  | none => s
  | some r => setReq s { r with lanes := r.lanes.map fun l => if p l then { l with sent := true } else l }

/-- Does a core still have an unacknowledged write to a line (R258)? -/
def ownWriteOpen (s : State) (core line : Nat) : Bool :=
  s.mem.reqs.any fun q => reqCore q == some core && isWriteKind q.kind && q.phase != .acked &&
    q.lanes.any fun l => l.pa / 1024 == line

/-- The near copy that answers a core's read (R165): its half's, holding every sector named, under a policy that allows near
copies. DESIGN CHOICE, log 20. -/
def nearHit (s : State) (ctx core line : Nat) (named : BitVec 4) : Option Near :=
  if ownWriteOpen s core line || nearPolicy s ctx == 0 then none
  else s.mem.near.find? fun x => x.line == line && x.half == coreHalf s core && x.sectors &&& named == named

/-- A near copy answers: a lookup and a hit in its own half (R165, R186). DESIGN CHOICE, log 20. -/
def serveNear (s : State) (r : Req) (x : Near) : State :=
  let n := 16 * x.half + x.slice
  let s1 := count (count (classCount s x.half 2 r.cls true false) (sliceBank n) 3 1) (sliceBank n) 0 1
  let st := s1.mem.stamp + 1
  let near := s1.mem.near.map fun y => if y.line == x.line && y.half == x.half then { y with stamp := st } else y
  let s2 := { s1 with mem := { s1.mem with stamp := st, near := near } }
  serveLanes homeRead homeStore s2 r.id fun l => l.pa / 1024 == x.line

/-- A core's read that finds no near copy where its policy sends it to look: a lookup and a miss of class 2 (R165, R187). -/
def nearMiss (s : State) (r : Req) (core line : Nat) : State :=
  let x := coreHalf s core
  let home := homeSlice s line
  if ownWriteOpen s core line || !nearAllowed (nearPolicy s r.ctx) x (sliceHalf home) then s
  else
    let n := 16 * x + home % 16
    count (count (classCount s x 2 r.cls false false) (sliceBank n) 3 1) (sliceBank n) 0 1

/-- A request in flight as the home of one of its lines sees it. -/
def lineReq (r : Req) (kind : DirReq) (line : Nat) : HomeReq :=
  { kind := kind, agent := r.agent, req := r.id, seq := 0, tag := 0, pa := 1024 * line, len := 0, op := 0, data := [], cmp := [],
    pois := false, cls := r.cls, looked := false }

/-- A request takes the next of its lines that has not left yet to its home slice; `kind` says as what. DEDUCED, log 19. -/
def sendHome (s : State) (id : Nat) (ok : ReqKind → Bool) (kind : Req → DirReq) : State :=
  match findReq s id with
  | none => s
  | some r =>
    let place := fun (l : LaneAcc) => regionOf l.pa == .dram || regionOf l.pa == .scratch
    match (if ok r.kind && r.phase == .sent && r.merged.isNone then r.lanes.find? fun l => !l.sent && !l.done && place l
           else none) with
    | none => s
    | some l0 =>
      let line := l0.pa / 1024
      let mine := fun (l : LaneAcc) => l.pa / 1024 == line && !l.sent && !l.done
      let slice := laneDest s l0.pa
      if !inTurn s r l0.pa then s
      else
        match placeAnswers s l0.pa with
        | .asleep => wakeBay s (sliceBay slice)
        | .gone => failLanes s id mine
        | .up =>
          let s1 := noteReleases (markSent s id mine) r mine
          if regionOf l0.pa = .scratch then
            serveLanes scratchRead scratchWrite
              (count (count (classCount s1 (sliceHalf slice) 3 r.cls true false) (sliceBank slice) 3 1) (sliceBank slice) 0 1) id mine'
          else
            let named := (r.lanes.filter mine).foldl (fun m l => m ||| sectorsOf line l.pa l.data.length) 0#4
            let visitor := match r.kind with
              | .load _ => reqCore r
              | .pref _ => reqCore r
              | _ => none
            (match visitor.bind fun c => nearHit s r.ctx c line named with
             | some x => serveNear s1 r x
             | none =>
               homeArrive ((visitor.map (nearMiss s1 r · line)).getD s1) (lineReq r (kind r) line))
        where mine' (l : LaneAcc) : Bool := l.sent && !l.done && regionOf l.pa == .scratch

def isPref : ReqKind → Bool
  | .pref _ => true
  | _ => false

/-- A merged read takes a copy of the earlier read's reply (R169). -/
def copyReply (lead r : Req) : Req :=
  let take := fun (l : LaneAcc) =>
    if l.done then l
    else match lead.lanes.find? (fun x => x.pa == l.pa && x.data.length == l.data.length) with
      | some x => { l with got := x.got, pois := x.pois, sent := true, done := true, err := x.err }
      | none => l
  settleReq { r with lanes := r.lanes.map take, fills := lead.fills }

/-- Every read merged into a request takes its reply. -/
def followers (s : State) (lead : Req) : State :=
  s.setMem { s.mem with reqs := s.mem.reqs.map fun r => if r.merged == some lead.id then copyReply lead r else r }

/-- The same for a cache hint that has been served: hints merged into it end with it (R95, R169). -/
def endFollowers (s : State) (lead : Req) : State :=
  let s1 := followers s lead
  s1.setMem { s1.mem with reqs := s1.mem.reqs.filter fun r => !(r.merged == some lead.id && isPref r.kind && r.lanes.all (·.done)) }

/-- A cache hint that has been served leaves nothing (R95). -/
def dropServedPref (s : State) (id : Nat) : State :=
  match findReq s id with
  | some r => if isPref r.kind && r.lanes.all (·.done) then dropReq (endFollowers s r) id else s
  | none => s

/-- The request of Table 08.4 that a core's read is. -/
def rdKind (s : State) (r : Req) : DirReq :=
  match reqCore r with
  | some c => .rd (coreHalf s c) (r.kind == .pref true)
  | none => .nr

/-- RD: a core's load or hint reaches the home of one of its lines (R225). -/
def execRd (id : Nat) (s : State) : Host.Outcome State Fault Refusal :=
  .next (dropServedPref (sendHome s id (fun k => match k with
    | .load _ => true
    | .pref _ => true
    | _ => false) (rdKind s)) id)

/-- WR: a store, atomic, accumulating write or posted write reaches the home of one of its lines (R225). -/
def execWr (id : Nat) (s : State) : Host.Outcome State Fault Refusal :=
  .next (sendHome s id (fun k => !k.reads) fun _ => .wr)

/-- NR: a read that takes no copy reaches its home (R225). -/
def execNr (id : Nat) (s : State) : Host.Outcome State Fault Refusal :=
  .next (sendHome s id (fun k => k == .read) fun _ => .nr)

/-- DS: a read into the DMA cache reaches its home (R225). -/
def execDs (id : Nat) (s : State) : Host.Outcome State Fault Refusal :=
  .next (sendHome s id (fun k => k == .dread) fun _ => .ds)

/-! ## Requests to an unavailable home -/

/-- A request completes with HOME_UNAVAILABLE: a read returns poison, a write is discarded (R241). -/
def homeGone (s : State) (r : HomeReq) : State :=
  if r.req ≠ 0 then failLanes s r.req fun l => l.pa / 1024 == r.pa / 1024 && !l.done
  else
    match r.agent with
    | .cxl p =>
      (match r.kind with
       | .hw _ => s.emit (.cmp p r.pa)
       | .wr => s.emit (.cmp p r.pa)
       | .ha _ => if r.len = 0 then s.emit (.cmp p r.pa) else s.emit (.memData p r.tag (List.replicate 64 0#8) true)
       | _ => s.emit (.memData p r.tag (List.replicate 64 0#8) true))
    | .rafter n => s.emit (.joint n 0x12 r.tag 9 r.pa [] false)
    | _ => s

/-! ## Held requests (R168) -/

/-- HELD_REQUEST_RELEASE: lines in carved ways of a slice leave them (R177, R238), and the first held request whose home answers enters
again once nothing holds it (R168, R170); one whose home has become unavailable ends (R241). -/
def execHeldRequestRelease (slice : Nat) (s : State) : Host.Outcome State Fault Refusal :=
  .next (
    let s0 := leaveCarved s slice
    match s0.mem.held.find? (fun r => reqSlice s0 r == slice && lineAnswers s0 (r.pa / 1024) != .asleep) with
    | some r =>
      let s1 := s0.setMem { s0.mem with held := s0.mem.held.erase r }
      if lineAnswers s0 (r.pa / 1024) = .gone then homeGone s1 r
      else if mustHold s0 r || !turnOf s0 r.agent r.seq r.pa then s0
      else enterHome (countLookup s1 r) r
    | none => s0)

/-! ## Accesses to the stores of other cores (R69, R153, R155) -/

/-- Counts one port-B step for a request (Table 18.1, core DMA). -/
def countPortB (s : State) (core : Nat) (k : ReqKind) (n : Nat) : State :=
  let s1 := count s (coreBank core 3) 0 1
  match k with
  | .atom _ => count s1 (coreBank core 3) 5 1
  | _ => if k.reads then count s1 (coreBank core 3) 3 n else count s1 (coreBank core 3) 4 n

/-- Does the granule still belong to a context of the requester's partition as the access acts (R153)? The PF reaches any (R327). DEDUCED, log 19.
DESIGN CHOICE, log 95. -/
def granuleOpen (s : State) (r : Req) (pa : Nat) : Bool :=
  storeOf s (reqFn s r) pa || (match r.agent with
    | .bar _ f => f == 0
    | .dbg => true
    | _ => false)

/-- REMOTE_STORE_ACCESS: one port-B step serves the lanes of a request that lie in one 64 B block of a core's store. The store
of a gated core is powered first; that of a lost core or bay ends the lanes. -/
def execRemoteStoreAccess (id : Nat) (s : State) : Host.Outcome State Fault Refusal :=
  .next (match findReq s id with
    | none => s
    | some r =>
      match (if r.phase == .sent then r.lanes.find? fun l => !l.done && regionOf l.pa == .store else none) with
      | none => s
      | some l0 =>
        let core := storeCore l0.pa
        let mine := fun (l : LaneAcc) => l.pa / 64 == l0.pa / 64 && !l.done
        let g := coreDomain s core
        if !inTurn s r l0.pa then s
        else match placeAnswers s l0.pa with
          | .gone => failLanes s id mine
          | .asleep => wakeBay s (groveEnt s (coreGrove core)).bay
          | .up =>
            if (s.dom g).st ≠ .on then wakeDomain s g
            else if !granuleOpen s r l0.pa then failLanes s id mine
            else
              let n := (r.lanes.filter mine).foldl (fun k l => k + l.data.length) 0
              let s1 := countPortB (noteReleases s r mine) core r.kind n
              let s2 := serveLanes storeRead storeWrite s1 id mine
              s2.setCore core { s2.core core with yield := false })

/-- GRANULE_ZERO: a granule that passed on is zeroed, and can be reached by its new owner (R156). -/
def execGranuleZero (core : Nat) (granule : Nat) (s : State) : Host.Outcome State Fault Refusal :=
  .next (
    let c := s.core core
    if c.zeroing.contains granule then
      let a := storeAddr core (4096 * granule)
      let s1 := s.setMem { s.mem with store := mzero s.mem.store a 4096,
                                      wordPois := s.mem.wordPois.filter fun x => decide (4 * x < a) || decide (a + 4096 ≤ 4 * x) }
      s1.setCore core { c with zeroing := c.zeroing.filter (· != granule) }
    else s)

/-! ## Releases that wait (Table 09.3) -/

/-- Sends a blocked release whose earlier operations are done; its lanes in the core's own store act now. -/
def unblockOne (s : State) (id : Nat) : State :=
  match findReq s id with
  | none => s
  | some r =>
    match r.agent with
    | .core c slot =>
      if r.phase == .blocked && releaseReady s ⟨c, slot⟩ r.scope id then
        let s0 := noteReleases s r fun l => ownStore c l.pa
        let s1 := if isWriteKind r.kind then r.lanes.foldl (fun t l => l1Write t c (r.kind != .store) l.pa l.data) s0 else s0
        let (s2, ls) := actOwn s1 c r.kind r.lanes
        pumpPeer (setReq s2 (settleReq { r with lanes := ls, phase := .sent })) id
      else s
    | _ => s

/-- Tries every blocked release, in issue order. -/
def unblock (s : State) : State :=
  ((s.mem.reqs.filter fun r => r.phase == .blocked).map (·.id)).foldl unblockOne s

/-! ## Returns -/

/-- The line of host memory that the DMA cache holds in ownership (R93). -/
def ownsHost (s : State) (pa : Nat) : Bool := s.mem.hostLines.any fun h => h.own && decide (h.addr = pa / 64 * 64)

/-- An atomic on host memory: the line is taken in ownership by RdOwn, unless it is held so, and kept in M (R93). The DMA cache has
no size in the spec and evicts none of itself. DEDUCED, log 21. -/
def holdHost (s : State) (f pa : Nat) : State :=
  let a := pa / 64 * 64
  let h : HostLine := { addr := a, port := homePort s f, own := true, dirty := true, bytes := mread s.mem.host a 64 }
  let s1 := if ownsHost s pa then s else s.emit (.rdOwn (homePort s f) (a - hostBase))
  s1.setMem { s1.mem with hostLines := h :: s1.mem.hostLines.filter fun x => x.addr != a }

/-- Serves what a read or atomic asks of host memory and of control and chute space, once it is in turn; `hw` is what the
host delivers for the lines that the DMA cache does not own. DEDUCED, log 21. -/
def serveOutside (s : State) (r : Req) (hw : List Host.Cell) : State :=
  let f := reqFn s r
  let host := fun (l : LaneAcc) => regionOf l.pa == .host && !l.done && inTurn s r l.pa
  let ctl := fun (l : LaneAcc) => (regionOf l.pa == .ctl || regionOf l.pa == .chute) && !l.done
  let s1 :=
    if r.lanes.any host && outsideOpen s f hostBase then
      let s0 := (r.lanes.filter host).foldl (fun t l => if ownsHost t l.pa then t else hostLearn t hw (l.pa / 64 * 64) 64) s
      let s2 := serveLanes hostRead hostWrite s0 r.id host
      if isAtom r.kind then (r.lanes.filter host).foldl (fun t l => holdHost t f l.pa) s2 else s2
    else s
  if r.kind.reads && r.lanes.any ctl && r.lanes.all (fun l => !ctl l || inTurn s r l.pa) then
    serveLanes ctlRead (fun t _ _ _ => t) s1 r.id ctl
  else s1

/-- An atomic on host memory counts as having GO from the host as soon as it is applied (R93). DEDUCED, log 21. -/
def ackHostAtom (s : State) (id : Nat) : State :=
  match findReq s id with
  | none => s
  | some r =>
    if isAtom r.kind && r.phase == .served && r.lanes.all fun l => regionOf l.pa == .host then
      unblock (noteWriteDone (if (reqCore r).isSome then setReq s { r with phase := .acked } else dropReq s id) r)
    else s

/-- The fault of a request as its lanes return: TRANSLATION for a granule that is no longer the partition's (R153), else POISON. -/
def returnFault (s : State) (r : Req) : Option FaultInfo :=
  let closed := (r.lanes.filter fun l => l.err && regionOf l.pa == .store && !placeGone s l.pa).map fun l => (l.lane, l.va)
  if closed.isEmpty then poisonFault (kindBits r.kind) r.lanes else some (laneFault 3 (kindBits r.kind) closed)

/-- A read or atomic whose lanes are all answered reaches its whorl: poison faults, an acquire invalidates the L1, the
destination registers are written, and the L1 is filled (R71, R72, R74, R83, R249). -/
def returnTo (s : State) (r : Req) (w : Wid) : State :=
  let isOver := !isAtom r.kind || r.phase == .acked
  let leave := fun (t : State) => if isOver then dropReq t r.id else setReq t { r with back := true }
  match whorlOf s w with
  | none => leave s
  | some wh =>
    match returnFault s r with
    | some i => faultWhorl (leave s) w r.pc i
    | none =>
      let s1 := if r.acq then acquireL1 (checkAcquires s r.lanes r.scope w.core) w.core r.scope else s
      let s2 := if fillsL1 r then s1.setCore w.core (r.fills.foldl l1Put (s1.core w.core)) else s1
      leave (putWhorl s2 w (deliver wh (signedKind r.kind) r.dest r.lanes))

/-- LOAD_RETURN: the reply of a load or atomic reaches its core (R83); `hw` is what the host delivers. -/
def execLoadReturn (id : Nat) (hw : List Host.Cell) (s : State) : Host.Outcome State Fault Refusal :=
  .next (match findReq s id with
    | none => s
    | some r0 =>
      match r0.agent with
      | .core c slot =>
        if !hasDest r0.kind || r0.back || r0.phase == .blocked || (r0.merged.isSome && !r0.lanes.all (·.done)) then s
        else
          let s1 := ackHostAtom (serveOutside s r0 hw) id
          (match findReq s1 id with
           | none => s1
           | some r => if r.lanes.all (·.done) then unblock (returnTo (followers s1 r) r ⟨c, slot⟩) else s1)
      | .session n => if r0.kind == .read && r0.lanes.all (·.done) then sessionDone s n r0 else s
      | _ =>
        if r0.kind == .dread || isAtom r0.kind || r0.kind == .read then ackHostAtom (serveOutside s r0 hw) id else s)

/-! ## Acknowledgements (R248) -/

/-- Does a write to this address take its effect in a command of its own (doorbell, update, fault log, reset and tick
registers)? DEDUCED, log 22. -/
def ctlHasRow (pa : Nat) (data : List Byte) : Bool :=
  if inSlotBytes pa then true
  else if pa % 8 ≠ 0 ∨ data.length ≠ 8 then false
  else match bellQueue pa with
    | some _ => pa % 0x1000 == 0 || pa % 0x1000 == 8
    | none =>
      (pa == updCtlAddr && leNat data % 2 ^ 60 == 0 && decide (0 < leNat data / 2 ^ 60) && decide (leNat data / 2 ^ 60 ≤ 6)) ||
        pa == flogAckAddr || pa == bayResetAddr || pa == obsBase + 8

/-- A write to an observation register (Table 18.4); one that sets a bit marked 0 or a value out of range is discarded. DEDUCED, log 23. -/
def obsWrite (s : State) (off v : Nat) : State :=
  let o := s.obs
  let logOn := odNat s 0x8010 3 != 0
  match off with
  | 0x000 => if bits v 62 12 = 0 then { s with obs := { o with epen := v.testBit 63, epq := bits v 11 0 } } else s
  | 0x020 => if logOn ∨ v % 4096 ≠ 0 then s else { s with obs := { o with rlBase := BitVec.ofNat 64 v } }
  | 0x028 =>
    if logOn ∨ bits v 63 10 ≠ 0 ∨ bits v 7 5 ≠ 0 ∨ (bits v 4 0 ≠ 0 ∧ (bits v 4 0 < 10 ∨ 26 < bits v 4 0)) then s
    else { s with obs := { o with grain := v.testBit 9, stopFull := v.testBit 8, rlog := bits v 4 0 } }
  | 0x038 => if logOn then s else { s with obs := { o with rlRptr := BitVec.ofNat 64 v } }
  | 0x040 => if o.period ≠ 0 ∨ v % 4096 ≠ 0 then s else { s with obs := { o with smpBase := BitVec.ofNat 64 v } }
  | 0x048 =>
    let p := bits v 19 0
    if bits v 47 41 ≠ 0 ∨ bits v 31 20 ≠ 0 ∨ bits v 63 48 = 0 ∨ (p ≠ 0 ∧ (p < 10 ∨ 1000000 < p)) ∨ (o.period ≠ 0 ∧ p ≠ 0)
    then s
    else { s with obs := { o with smpN := bits v 63 48, sel := BitVec.ofNat 9 (bits v 40 32), period := p,
                                  nextSample := s.now + 1000 * p } }
  | _ => s

/-- A write of a reserved OP to UPD_CTL ends at once with result 3; one that sets a bit marked 0 is discarded (Table 16.3). -/
def updReserved (s : State) (v : Nat) : State :=
  if v % 2 ^ 60 ≠ 0 then s
  else if !s.trust.done then { s with trust := { s.trust with dropped := true } }
  else { s with trust := { s.trust with dropped := false, result := 3 } }

/-- A write to control space at an address without a command of its own: an observation register, or discarded. -/
def ctlOther (s : State) (pa : Nat) (data : List Byte) : State :=
  if pa = updCtlAddr ∧ data.length = 8 then updReserved s (leNat data)
  else if pa % 8 = 0 ∧ data.length = 8 ∧ obsBase ≤ pa ∧ pa < slotBase then obsWrite s (pa - obsBase) (leNat data) else s

/-- A core's write to control or chute space acts (R297: a core is no producer). -/
def writeCtlLane (a : Agent) (s : State) (l : LaneAcc) : State :=
  if regionOf l.pa = .chute then
    chuteSpaceWrite s l.pa (match a with
      | .dma _ => some .dma
      | _ => none) l.data
  else ctlOther s l.pa l.data

/-- Would a word for this address wait behind a producer that waits for space (R299)? -/
def chuteBusy (s : State) (pa : Nat) : Bool := regionOf pa == .chute && (s.chute (chuteOf pa)).waitSrc.isSome

/-- The control and chute writes of a request that need no command of their own act, in lane order. DEDUCED, log 22. -/
def writeCtl (s : State) (r : Req) : State :=
  let mine := fun (l : LaneAcc) =>
    !l.done && (regionOf l.pa == .chute || (regionOf l.pa == .ctl && !ctlHasRow l.pa l.data)) && inTurn s r l.pa &&
    !chuteBusy s l.pa
  if r.lanes.any mine then
    let s1 := (r.lanes.filter mine).foldl (writeCtlLane r.agent) s
    setReq s1 (settleReq { r with lanes := r.lanes.map fun l => if mine l then { l with sent := true, done := true } else l })
  else s

/-- WRITE_ACKNOWLEDGED: every lane of a write has taken effect, and its writer learns of it (R248). DEDUCED, log 19. -/
def execWriteAcknowledged (id : Nat) (s : State) : Host.Outcome State Fault Refusal :=
  .next (match findReq s id with
    | none => s
    | some r0 =>
      if r0.kind.reads || (r0.phase != .sent && r0.phase != .served) then s
      else
        let s1 := writeCtl s r0
        match findReq s1 id with
        | none => s1
        | some r =>
          if r.lanes.all (·.done) then
            match r.agent with
            | .session n => unblock (sessionDone s1 n r)
            | _ =>
            if isAtom r.kind && !r.back && (reqCore r).isSome then unblock (noteWriteDone (setReq s1 { r with phase := .acked }) r)
            else unblock (noteWriteDone (dropReq s1 id) r)
          else s1)

/-- GO: the host makes a write to its memory globally visible; the data goes to it (R248, R322). DEDUCED, log 21. -/
def execGo (id : Nat) (s : State) : Host.Outcome State Fault Refusal :=
  .next (match findReq s id with
    | none => s
    | some r =>
      let f := reqFn s r
      let host := fun (l : LaneAcc) => regionOf l.pa == .host && !l.done && inTurn s r l.pa
      if r.kind.reads || isAtom r.kind || r.phase == .blocked || !r.lanes.any host || !outsideOpen s f hostBase then s
      else
        let s1 := serveLanes hostRead hostWrite s id host
        unblock ((r.lanes.filter host).foldl (fun t l => t.emit (.d2h (homePort s f) (l.pa - hostBase) l.data)) s1))

end Sys2Proof.Machine
end

