-- ==== Sys2Proof/Machine/Reply.lean ====
section
/-! DEFINITION. The answers of dictionary operations (R403 to R405): data, or an abort code that changes nothing. -/

namespace Sys2Proof.Machine

/-- What an operation on the dictionary comes to: done, refused with nothing changed, or refused while a counter or the peg's
lease still moves. -/
inductive OdRes where
  | ok (s : State) (data : List Byte)
  | abort (code : Nat)
  | refuse (s : State) (code : Nat) (data : List Byte)

/-- Is the module powered and domain 76 released? -/
def moduleOn (s : State) : Bool := s.mod.switchClosed && s.mod.phase != .off

/-- Does only the boot ROM answer: before the MC has started, or in ROM recovery (R430, Table 19.5)? -/
def romOnly (s : State) : Bool := s.mod.phase == .released || s.mod.phase == .romRecovery

/-- Does a Scribe port work: Port F while domain 76 is on and OD 0x1100:06 is 1 (R407), Port H while domain 77 is on (R409)? -/
def portWorks (s : State) (p : Port) : Bool :=
  moduleOn s && (match p with
    | .f => odNat s 0x1100 6 == 1
    | .h => (s.dom 77).st == .on && !romOnly s)

/-- An operation that came in by a port is answered. -/
def answer (s : State) (p : Port) (r : OdRes) : State :=
  match r with
  | .ok s1 d => s1.emit (.scribe p none d)
  | .abort c => s.emit (.abort p (BitVec.ofNat 32 c) [])
  | .refuse s1 c d => s1.emit (.abort p (BitVec.ofNat 32 c) d)

/-- An operation that came in by a port is carried out and answered; the boot ROM alone refuses it (R430). -/
def viaPort (s : State) (p : Port) (op : State → OdRes) : State :=
  if !portWorks s p then s
  else answer s p (if romOnly s then .abort 0x05000001 else op s)

/-- An operation that always succeeds with no data. -/
def odOk (s : State) : OdRes := .ok s []

/-- Has the peg's owner staged an entry, so that a WRITE of it is refused (R413)? -/
def isStaged (s : State) (idx sub : Nat) : Bool := (fget s.dict.staged (odKey idx sub)).isSome

end Sys2Proof.Machine
end

