-- ==== Sys2Proof/Machine/Dram.lean ====
section
/-! DEFINITION. Stacked DRAM: errors and their counts (R196 to R199), map-out and relocation (R200 to R202), parity, rebuild and
stripe buffers (R203 to R209), and immutable and mirrored ranges (R212 to R216, R454). -/

namespace Sys2Proof.Machine

/-! ## Range records -/

/-- The immutable range whose mirror serves a sector: MIRROR and MSYNC set, the copy there and itself not poisoned (R216). -/
def mirrorServes (s : State) (pa : Nat) : Option Nat :=
  match immutableAt s pa with
  | some e =>
    if mirrored s e && (mirrorLine s e (pa / 1024)).isSome && !s.mem.mirrorPois.contains (pa / 256) then some e else none
  | none => none

/-- Sets or clears a status bit of a range record (Table 07.7). -/
def setRangeBit (s : State) (e bit : Nat) (v : Bool) : State :=
  let r := rangeRec s e
  let r1 := if v then r ||| 2 ^ bit else if r.testBit bit then r - 2 ^ bit else r
  odPut s (0x5200 + e) 0 (leBytes 32 r1)

/-- Is a sector of a range poisoned, in DRAM or at its home? -/
def rangePoisoned (s : State) (e : Nat) : Bool :=
  let r := rangeRec s e
  let inR := fun (a : Nat) => decide (rangeBase r ≤ a) && decide (a < rangeBase r + rangeSize r)
  (s.mem.dramPois.any fun k => inR (256 * k)) ||
    (s.mem.lines.any fun x => inR (1024 * x.1) && x.2.pois != 0#4)

/-- A sector of an unmirrored immutable range becomes poisoned (R454): logged, POISONED set, the functions told. -/
def immutablePoisoned (s : State) (e pa : Nat) : State :=
  let s1 := setRangeBit (logEvent s 0x000B e (pa / 256 * 256) 0) e 35 true
  (List.range 64).foldl (fun t f =>
    if inShare t f (pa / 256 * 256) 1 || (odNat t (0x6010 + f) 16).testBit e then raiseErr t f 2 else t) s1

/-- POISONED goes when no poisoned sector of the range remains (R216). -/
def clearPoisoned (s : State) : State :=
  (List.range 32).foldl (fun t e => if (rangeRec t e).testBit 35 && !rangePoisoned t e then setRangeBit t e 35 false else t) s

/-! ## Map-out (R200, R201, R205) -/

/-- The channels whose data leaves when a channel is lost: itself, or the member promoted in its place (R205). The loss of a stripe's
sole surviving member, its parity channel, takes no data channel. DESIGN CHOICE, log 98. -/
def dataLost (s : State) (out : List Nat) (ch : Nat) : List Nat :=
  let mode := parityMode s
  if parityChan mode out ch = some ch then
    match (stripeMembers mode ch).find? (fun m => !out.contains m && m != ch) with
    | some m => [m]
    | none => []
  else [ch]

/-- Bitmap and count of the mapped-out channels (OD 0x5002:01 and 03). -/
def publishOut (s : State) : State :=
  let out := s.mem.mappedOut
  odPut (odPutNat s 0x5002 1 out.length) 0x5002 3 (leBytes 128 (out.foldl (fun n ch => n ||| 2 ^ ch) 0))

/-- A range that reaches above the usable top, itself or with its mirror, is cut there (Table 07.7, CUT). DEDUCED, log 73. -/
def cutRanges (s : State) : State :=
  (List.range 32).foldl (fun t e =>
    let r := rangeRec t e
    let top := usableSize t
    if rangeSize r = 0 ∨ (rangeBase r + rangeSize r ≤ top ∧ (!r.testBit 2 ∨ rangeMbase r + rangeSize r ≤ top)) then t
    else
      let own := min (rangeSize r) (top - rangeBase r)
      let size := if r.testBit 2 then min own (top - rangeMbase r) else own
      let r1 := r % 2 ^ 128 + size * 2 ^ 128 + r / 2 ^ 192 * 2 ^ 192
      odPut t (0x5200 + e) 0 (leBytes 32 (r1 ||| 2 ^ 34))) s

/-- The contents of lines from a line up are discarded (R201). DEDUCED, log 73. -/
def dropTail (s : State) (top : Nat) : State :=
  let a := 1024 * top
  let m := s.mem
  { s with mem := { m with
      dram := m.dram.filter fun c => decide (c.1 < a), llc := m.llc.filter fun c => decide (c.1 < a),
      lines := m.lines.filter fun e => decide (e.1 < top), near := m.near.filter fun x => decide (x.line < top),
      orphans := m.orphans.filter fun e => decide (e.1 < top),
      dramPois := m.dramPois.filter fun k => decide (k < 4 * top), covered := m.covered.filter fun k => decide (k < 4 * top) } }

/-- Does a line of a mirrored range lie in one stack with its mirror (R215)? -/
def sameStack (s : State) (e : Nat) : Bool :=
  let r := rangeRec s e
  (List.range (rangeSize r / 1024)).any fun k =>
    let line := rangeBase r / 1024 + k
    match mirrorLine s e line with
    | some y => (curSlot s y).1 / 32 == (curSlot s line).1 / 32
    | none => false

/-- SAMESTACK of every mirrored range, after a relocation (R215). -/
def noteStacks (s : State) : State :=
  (List.range 32).foldl (fun t e => if mirrored t e && sameStack t e then setRangeBit t e 33 true else t) s

/-- Maps out channels lost at one time: their lines take over the slots of the tail (R201). `why` is the log's detail; 0 where
another entry reports the loss. DEDUCED, log 73. -/
def mapOutAll (s : State) (chs : List Nat) (why : Nat) : State :=
  let fresh := chs.filter fun ch => !s.mem.mappedOut.contains ch
  if fresh.isEmpty then s
  else
    let lost := fresh.foldl (fun (acc : List Nat × List Nat) ch =>
      let d := (dataLost s acc.2 ch).filter fun x => !acc.1.contains x
      (acc.1 ++ d, insAsc acc.2 ch)) ([], s.mem.mappedOut)
    let old := usableLines s
    let new := old - lost.1.length * 786432
    let mo : MapOut := { before := s.mem.mappedOut, lost := lost.1, oldLines := old, newLines := new, moved := [], done := false }
    let s1 := s.setMem { s.mem with mappedOut := lost.2, mapouts := mo :: s.mem.mapouts, rebuildBad := 0 }
    let s2 := noteStacks (cutRanges (publishOut (dropTail s1 new)))
    let s3 := (if why = 0 then [] else fresh).foldl (fun t ch => logEvent t 0x0009 ch 0 (why + flashBit s)) (writeSpareMap (bumpGeneration s2))
    if parityMode s = 0 ∨ lost.1.isEmpty then s3 else odPutNat s3 0x5040 3 1

/-! ## Errors (R196 to R200) -/

def corrIdx (ch : Nat) : Nat := 0x5800 + 8 * chanBay ch + chanStack ch
def failIdx (ch : Nat) : Nat := 0x5840 + 8 * chanBay ch + chanStack ch

/-- Times of a list that lie within a span before now, with now n times. -/
def recentTimes (s : State) (l : List Nat) (span n : Nat) : List Nat :=
  List.replicate n s.now ++ l.filter fun t => decide (s.now < t + span)

/-- Counts n corrected blocks of a channel and maps it out beyond its limit (R199, R200). DESIGN CHOICE, log 99. -/
def countCorrected (s : State) (ch n : Nat) : State :=
  if n = 0 then s
  else
    let s1 := count (odAdd s (corrIdx ch) (chanQ ch + 1) n) (ctrlBank (chanBay ch) (chanStack ch)) 5 n
    let l := recentTimes s (fgetD s.mem.correctedAt ch []) 3600000000000 n
    let s2 := s1.setMem { s1.mem with correctedAt := fset s1.mem.correctedAt ch l }
    if odNat s 0x5020 4 = 1 ∧ odNat s 0x5020 2 < l.length then mapOutAll s2 [ch] 2 else s2

/-- Counts n uncorrectable blocks of a channel and maps it out at its sixteenth in a day. -/
def countFailed (s : State) (ch n : Nat) : State :=
  if n = 0 then s
  else
    let s1 := odAdd s (failIdx ch) (chanQ ch + 1) n
    let l := recentTimes s (fgetD s.mem.failedAt ch []) 86400000000000 n
    let s2 := s1.setMem { s1.mem with failedAt := fset s1.mem.failedAt ch l }
    if odNat s 0x5020 4 = 1 ∧ 16 ≤ l.length then mapOutAll s2 [ch] 3 else s2

/-- The channels that a channel's stripe no longer counted on when it was lost, or now (R205). -/
def outBefore (s : State) (ch : Nat) : List Nat :=
  if s.mem.mappedOut.contains ch then
    match s.mem.mapouts.find? fun m => !m.before.contains ch with
    | some m => m.before
    | none => s.mem.setOut.filter (· != ch)
  else s.mem.mappedOut

/-- The other members of a channel's stripe, as its parity covers them (R205). -/
def stripeRest (s : State) (ch : Nat) : List Nat :=
  (stripeMembers (parityMode s) ch).filter fun m => m != ch && !(outBefore s ch).contains m

/-- Can a channel's sectors be rebuilt from its stripe: every other member is there and answers (R207)? -/
def canRebuild (s : State) (ch : Nat) : Bool :=
  parityMode s != 0 && !(stripeRest s ch).isEmpty &&
    (stripeRest s ch).all fun m => !s.mem.mappedOut.contains m && bayUp s (chanBay m)

/-- The reads that rebuild one sector (R207). DESIGN CHOICE, log 99. -/
def rebuildReads (s : State) (ch : Nat) : State := (stripeRest s ch).foldl (fun t m => chanUse t m 3 1) s

/-- Bytes of one sector of DRAM replaced. -/
def putSector (s : State) (line i : Nat) (b : List Byte) : State :=
  { s with mem := { s.mem with dram := mwrite s.mem.dram (1024 * line + 256 * i) b } }

/-- A sector that cannot be read from its channel nor rebuilt: the mirror serves it and the primary is rewritten, or it stays poisoned, and
an immutable range says so (R216, R454). The second value says that it is poisoned. -/
def lostSector (s : State) (ch line i : Nat) : State × Bool :=
  let a := 1024 * line + 256 * i
  match mirrorServes s a with
  | some e => (logEvent (chanUse (putSector s line i (mread s.mem.mirror a 256)) ch 4 1) 0x000C e a 0, false)
  | none =>
    match immutableAt s a with
    | some e => (immutablePoisoned (markDram s line i true) e a, true)
    | none => (s, true)

/-- The 64 B blocks of sector i that a mask over the line's blocks names. -/
def blocksOf (m : BitVec 16) (i : Nat) : Nat := countTo 4 fun k => m.getLsbD (4 * i + k)

/-- One sector read from DRAM, with what the code found in its blocks (R196, R197, R207, R216). A sector with the marker counts as no
error; one of a channel that is away, or with an uncorrectable block, is rebuilt where its stripe allows, which counts as one corrected block
of the channel itself. The second value says that it is delivered poisoned. DESIGN CHOICE, log 99. -/
def readSector (s : State) (ch line i : Nat) (corrected bad : BitVec 16) : State × Bool :=
  if dramPoisoned s line i then (chanUse s ch 3 1, true)
  else if !bayUp s (chanBay ch) then
    if canRebuild s ch ∧ blocksOf bad i = 0 then (countCorrected (rebuildReads s ch) ch 1, false) else lostSector s ch line i
  else
    let s1 := countCorrected (chanUse s ch 3 1) ch (blocksOf corrected i)
    if blocksOf bad i = 0 then (s1, false)
    else
      let s2 := countFailed s1 ch (blocksOf bad i)
      if canRebuild s ch then (countCorrected (rebuildReads s2 ch) ch 1, false) else lostSector s2 ch line i

/-- A sector that has arrived stands CLEAN in an allocated line, with its poison flag (Table 06.2); a line without a way has it in the
register. -/
def fillSector (s : State) (line i : Nat) (pois : Bool) : State :=
  match s.line? line with
  | none => s
  | some e =>
    if e.ovf || e.secAt i != .invalid then s
    else
      let e1 := e.setSec i .clean
      s.setLine line { e1 with pois := if pois then e.pois ||| bitN 4 i else e.pois &&& ~~~(bitN 4 i) }

/-- MISS_FILL: the sectors a register asked of DRAM arrive; the masks name the 64 B blocks of the line in which the code corrected, or
could not correct (R167, R207, R216). DESIGN CHOICE, log 12. -/
def execMissFill (line : Nat) (corrected uncorrectable : BitVec 16) (s : State) : Host.Outcome State Fault Refusal :=
  .next (match missOf s line with
    | none => s
    | some m =>
      if m.need = 0#4 ∨ !slicesWork s (sliceBay m.slice) then s
      else
        let ch := (servingSlot s line).1
        let (s1, bad) := [0, 1, 2, 3].foldl (fun (x : State × BitVec 4) i =>
          if m.need.getLsbD i then
            let (t, p) := readSector x.1 ch line i corrected uncorrectable
            (fillSector t line i p, if p then x.2 ||| bitN 4 i else x.2)
          else x) (s, m.bad)
        match missOf s1 line with
        | none => s1
        | some m1 =>
          let m2 := { m1 with need := 0#4, got := m1.got ||| m.need, bad := bad }
          if m2.snoops.isEmpty then closeMiss (setMiss s1 m2) m2 else setMiss s1 m2)

/-! ## Patrol scrub (R198) -/

/-- The first number from a start that satisfies a test, within a count. -/
def findUp (p : Nat → Bool) : Nat → Nat → Option Nat
  | 0, _ => none
  | n + 1, k => if p k then some k else findUp p n (k + 1)

/-- The line that a slot serves now, if it serves one. -/
def lineAt (s : State) (ch row : Nat) : Option Nat :=
  match lineInRegions s (dataSet s) ch row (regionTable s) 0 0 with
  | some x =>
    if servingSlot s x = (ch, row) ∧ x < usableLines s then some x
    else findUp (fun y => servingSlot s y == (ch, row)) (usableLines s) 0
  | none => none

/-- One sector of a line under the scrub: corrected or rebuilt, it is written back; a mirror copy is repaired from its primary; what is lost
carries the marker from now on (R198, R216). -/
def scrubSector (ch line : Nat) (corrected bad : BitVec 16) (s : State) (i : Nat) : State :=
  if dramPoisoned s line i then chanUse s ch 3 1
  else
    let (s1, lost) := readSector s ch line i corrected bad
    let wrote := if blocksOf corrected i = 0 ∧ blocksOf bad i = 0 then s1 else chanUse s1 ch 4 1
    if !lost then wrote
    else match mirrorOf s line with
      | some x =>
        let m := wrote.mem
        if dramPoisoned s x i then wrote.setMem { m with mirrorPois := insAsc m.mirrorPois (4 * x + i) }
        else wrote.setMem { m with mirror := mwrite m.mirror (1024 * x + 256 * i) (mread m.dram (1024 * x + 256 * i) 256) }
      | none => markDram wrote line i true

/-- PATROL_SCRUB: the scrub reads one row of a channel: a line, or a row of parity; the masks name its 64 B blocks (R198). The last full
pass is taken to have ended after row 786,431 of the highest channel that is not mapped out. DESIGN CHOICE, log 96. -/
def execPatrolScrub (channel row : Nat) (corrected uncorrectable : BitVec 16) (parityBad : BitVec 4) (s : State) :
    Host.Outcome State Fault Refusal :=
  .next (if s.mem.mappedOut.contains channel || !bayUp s (chanBay channel) then s
    else
      let s1 := match lineAt s channel row with
        | some line => [0, 1, 2, 3].foldl (scrubSector channel line corrected uncorrectable) s
        | none =>
          let c := countTo 16 corrected.getLsbD
          let u := countTo 16 uncorrectable.getLsbD
          let t := countFailed (countCorrected (chanUse s channel 3 4) channel c) channel u
          if c + u = 0 then t else chanUse t channel 4 (countTo 4 fun i => blocksOf corrected i + blocksOf uncorrectable i != 0)
      let bad := countTo 4 parityBad.getLsbD
      let s2 := if odNat s 0x5020 5 = 1 ∧ parityMode s ≠ 0 ∧ 0 < bad then odAdd s1 0x5020 6 bad else s1
      let s3 := clearPoisoned s2
      let last := ((List.range 1024).filter fun ch => !s.mem.mappedOut.contains ch).getLast?
      if some channel = last ∧ row = 786431 then odPutNat s3 0x5020 3 s.now else s3)

/-! ## Moving lines (R202, R209) -/

/-- Lines that are still to move. -/
def linesToMove (s : State) : Nat := countTo (usableLines s) (unmoved s)

/-- Nothing is left to move: the map-outs are done, a retired bay needs its substitute no more, and a rebuild ends, with result 2 when lines
were left poisoned (R209). -/
def endMoves (s : State) : State :=
  if linesToMove s ≠ 0 then s
  else
    let m := s.mem
    let s1 := s.setMem { m with mapouts := m.mapouts.map fun x => { x with done := true, moved := [] },
                                subst := m.subst.filter fun e => (s.bay e.1).st != .retired }
    if odNat s 0x5040 3 = 1 then
      logEvent (odPutNat s1 0x5040 3 (if s.mem.rebuildBad = 0 then 0 else 2)) 0x000A 0 0 s.mem.rebuildBad
    else s1

/-- One sector of a moving line that its old channel does not give: rebuilt, or served by its mirror, or written with the marker. -/
def moveSector (ch line : Nat) (x : State × Bool) (i : Nat) : State × Bool :=
  let (s, bad) := x
  if dramPoisoned s line i then (s, bad)
  else if canRebuild s ch then (rebuildReads s ch, bad)
  else
    let (s1, lost) := lostSector s ch line i
    if lost then (markDram s1 line i true, true) else (s1, bad)

/-- A line of F moves to its new slot (R202); `readable` says that its old channel gives it. Its home changes with its slot: its entry leaves
the old one first, its external copies recalled; a pinned line is pinned at the new one (R160, R171). -/
def moveLine (s : State) (line : Nat) (readable : Bool) : State :=
  if !unmoved s line then s
  else
    let old := (servingSlot s line).1
    let moved := fun (t : State) =>
      let (t1, bad) := if readable then (chanUse t old 3 4, false) else [0, 1, 2, 3].foldl (moveSector old line) (t, false)
      let pois := [0, 1, 2, 3].map fun i => dramPoisoned t1 line i
      let m := t1.mem
      let t2 := t1.setMem { m with mapouts := m.mapouts.map fun x => if x.done then x else { x with moved := line :: x.moved },
                                   rebuildBad := if bad then m.rebuildBad + 1 else m.rebuildBad }
      let t3 := [0, 1, 2, 3].foldl (fun t i => markDram t line i (pois.getD i false)) t2
      endMoves (dramWritten t3 line 4 false)
    match s.line? line with
    | none => moved s
    | some e =>
      if (missOf s line).isSome then s
      else if e.hasExt then (if freeMiss s e.slice then openEvict s e.slice line [] else s)
      else match e.pin with
        | none => moved (if e.ovf then s.dropLine line else evictLine s line)
        | some f =>
          let t := moved (evictLine s line)
          let n := homeSlice t line
          match makeRoom t n (lineSet line) with
          | .way w t1 => t1.setLine line { Line.fresh n w e.stamp false with pin := some f }
          | _ => s

/-- LINE_MOVE: one line of F moves (R202). -/
def execLineMove (line : Nat) (readable : Bool) (s : State) : Host.Outcome State Fault Refusal :=
  .next (moveLine s line readable)

/-- REBUILD: one step of a background rebuild (R209). -/
def execRebuild (line : Nat) (readable : Bool) (s : State) : Host.Outcome State Fault Refusal :=
  .next (if odNat s 0x5040 3 = 1 then moveLine s line readable else s)

/-- STRIPE_BUFFER_CLOSE: a stripe buffer ends after 2 µs; its lines are applied by delta (R206). -/
def execStripeBufferClose (channel row : Nat) (s : State) : Host.Outcome State Fault Refusal :=
  .next (
    let ends := fun (b : StripeBuf) => b.channel == channel && b.row == row && decide (b.opened + 2000 ≤ s.now)
    let s1 := s.setMem { s.mem with stripes := s.mem.stripes.filter fun b => !ends b }
    (s.mem.stripes.filter ends).foldl (fun t b => b.lines.foldl (fun u ch => parityWork u ch 4) t) s1)

/-- MIRROR_COPY: the device has copied a mirrored range into its mirror, poison with it, and sets MSYNC (R215). -/
def execMirrorCopy (e : Nat) (s : State) : Host.Outcome State Fault Refusal :=
  .next (
    let r := rangeRec s e
    if rangeSize r = 0 ∨ !r.testBit 1 ∨ !r.testBit 2 ∨ r.testBit 3 ∨ r.testBit 32 then s
    else
      let inR := fun (a : Nat) => decide (rangeBase r ≤ a) && decide (a < rangeBase r + rangeSize r)
      let addrs := ((s.mem.dram ++ s.mem.llc).map (·.1)).filter inR
      let mir := addrs.foldl (fun m a => mset m a (homeByte s a)) (mzero s.mem.mirror (rangeBase r) (rangeSize r))
      let marks := (s.mem.dramPois ++ s.mem.lines.flatMap fun (x : Nat × Line) => (List.range 4).map fun i => 4 * x.1 + i).filter fun k =>
        inR (256 * k) && homePoisoned s (k / 4) (k % 4)
      let pois := marks.foldl insAsc (s.mem.mirrorPois.filter fun k => !inR (256 * k))
      let s1 := setRangeBit (s.setMem { s.mem with mirror := mir, mirrorPois := pois }) e 32 true
      if !s.mem.mapouts.isEmpty && sameStack s1 e then setRangeBit s1 e 33 true else s1)

/-! ## The entry that maps a channel out -/

/-- A write to OD 0x5002:02 (R200). -/
def opMapOut (ch : Nat) (s : State) : OdRes :=
  if 1023 < ch ∨ s.mem.mappedOut.contains ch then .abort 0x02000065 else odOk (mapOutAll s [ch] 4)

/-- CHANNEL_MAP_OUT: a port writes OD 0x5002:02. -/
def execChannelMapOut (p : Port) (ch : W16) (s : State) : Host.Outcome State Fault Refusal :=
  .next (viaPort s p (opMapOut ch.toNat))

end Sys2Proof.Machine
end

