-- ==== Sys2Proof/Machine/HostMem.lean ====
section
/-! DEFINITION. The host's CXL.mem requests and answers (R221, R225 to R228, Table 08.5), its snoops of the DMA cache (R93,
R322), host bias (R231 to R236), and the periodic write-back of dirty sectors (R240). -/

namespace Sys2Proof.Machine

/-! ## Bias -/

/-- The bias of a page: 0 device-owned, 1 shared on port 0, 2 on port 1 (R231). -/
def pageBias (s : State) (page : Nat) : Nat := if odNat s 0x5060 1 = 0 then 0 else fgetD s.mem.bias page 0

/-- Looks a page up in the bias cache of 2,048 blocks, the most recent first; a miss is counted (R232). DESIGN CHOICE, log 30. -/
def biasLook (s : State) (page : Nat) : State :=
  let b := page / 256
  let hit := s.mem.biasCache.contains b
  let s1 := s.setMem { s.mem with biasCache := (b :: s.mem.biasCache.filter (· != b)).take 2048 }
  if hit then s1 else odAdd s1 0x5060 2 1

/-- The function whose memory share holds an address, or the PF (R233). -/
def shareOwner (s : State) (pa : Nat) : Nat := ((List.range 64).find? fun f => inShare s f pa 1).getD 0

/-- Is a flip of the page to device-owned under way (R236)? -/
def pageClosing (s : State) (page : Nat) : Bool := s.fns.any fun e => e.2.closing.contains page

/-- Counts a refusal and sets BREF (R233). -/
def biasRefused (s : State) (pa : Nat) : State := raiseErr (odAdd s 0x5060 3 1) (shareOwner s pa) 0

/-- What the device makes of a host request's address. -/
inductive HostAddr where
  | outside (s : State)     -- at or above the usable size (R323), or in the bias table (R231)
  | refused (s : State)     -- bias (R233)
  | served (s : State)

def hostAddr (s : State) (port pa : Nat) : HostAddr :=
  if usableSize s ≤ pa then .outside (odAdd s 0x6001 7 1)
  else if inBiasTable s pa 64 then .outside s
  else
    let page := pa / 65536
    let s1 := biasLook s page
    if pageBias s page = port + 1 ∧ !pageClosing s page then .served s1 else .refused (biasRefused s1 pa)

/-- Does a port carry CXL.mem traffic: its link is up, and secure where IDE is required (R341, R342)? -/
def cxlWorks (s : State) (port : Nat) : Bool := portOpen s port && s.mod.memActive

/-- A 64 B answer with poison. -/
def poisonData (s : State) (port tag : Nat) : State := s.emit (.memData port tag (List.replicate 64 0#8) true)

/-- A host request goes to its home, waits for a sleeping one, or finds it unavailable (R239, R241, R383). DEDUCED, log 28. -/
def hostToHome (s : State) (r : HomeReq) (gone : State → State) : State :=
  let line := r.pa / 1024
  let q := { r with seq := s.mem.nextReq }
  match lineAnswers s line with
  | .up => if turnOf s r.agent q.seq r.pa then homeArrive s q else parkReq s q
  | .asleep => parkReq (wakeBay s (sliceBay (homeSlice s line))) q
  | .gone => gone s

/-- A host request of Table 08.5. -/
def hostReq (kind : DirReq) (port tag pa len : Nat) (data : List Byte) (pois : Bool) : HomeReq :=
  { kind := kind, agent := .cxl port, req := 0, seq := 0, tag := tag, pa := pa, len := len, op := 0, data := data, cmp := [],
    pois := pois, cls := 0, looked := false }

def metaKind (m : Meta) (port : Nat) : DirReq :=
  match m with
  | .i => .nr
  | .s => .hs port
  | .a => .ha port

/-- MEMRD: a 64 B read by the host (R225, R233, R323). -/
def execMemrd (port : Nat) (meta_ : Meta) (addr : W48) (tag : Nat) (s : State) : Host.Outcome State Fault Refusal :=
  .next (
    let pa := addr.toNat / 64 * 64
    if !cxlWorks s port then s
    else match hostAddr s port pa with
      | .outside s1 => poisonData s1 port tag
      | .refused s1 => poisonData s1 port tag
      | .served s1 => hostToHome s1 (hostReq (metaKind meta_ port) port tag pa 64 [] false) fun t => poisonData t port tag)

/-- MEMINV: the host takes ownership without data (R225). DEDUCED, log 88. -/
def execMeminv (port : Nat) (addr : W48) (tag : Nat) (s : State) : Host.Outcome State Fault Refusal :=
  .next (
    let pa := addr.toNat / 64 * 64
    if !cxlWorks s port then s
    else match hostAddr s port pa with
      | .outside s1 => s1.emit (.cmp port pa)
      | .refused s1 => s1.emit (.cmp port pa)
      | .served s1 =>
        hostToHome s1 { hostReq (.ha port) port tag pa 0 [] false with len := 0 } fun t => t.emit (.cmp port pa))

/-- MEMCLNEVCT: the host drops a clean line; it clears no HSEC bit (R221). One of a page it may not reach is refused (R233).
DEDUCED, log 28. -/
def execMemclnevct (port : Nat) (addr : W48) (s : State) : Host.Outcome State Fault Refusal :=
  .next (
    let pa := addr.toNat / 64 * 64
    if !cxlWorks s port then s
    else match hostAddr s port pa with
      | .outside s1 => s1.emit (.cmp port pa)
      | .refused s1 => s1.emit (.cmp port pa)
      | .served s1 => s1.emit (.cmp port pa))

/-- Is a line's page shared on the port that a host message comes by? -/
def fromSharer (s : State) (port line : Nat) : Bool := pageBias s (line / 64) == port + 1

/-- Is a host write the data that a recall of the line waits for (R226)? DEDUCED, log 28. -/
def recallData (s : State) (line : Nat) : Bool :=
  match s.line? line, missOf s line with
  | some e, some m => e.extOwned && e.own == 8 && m.snoops.any (fun x => x.1 == 8)
  | _, _ => false

/-- Is the line of a host write recalled because its memory has been given up and zeroed (R334, R335)? DEDUCED, log 28, 68. -/
def recallGone (s : State) (line : Nat) : Bool :=
  match s.line? line, missOf s line with
  | none, some m => m.snoops.any (fun x => x.1 == 8)
  | _, _ => false

/-- MEMWR: a 64 B write by the host, of a line it owns or not (R225, R229, R233); one to an immutable or mirror range writes nothing
(R214). DEDUCED, log 28. -/
def execMemwr (port : Nat) (addr : W48) (data : List Byte) (poison : Bool) (s : State) : Host.Outcome State Fault Refusal :=
  .next (
    let pa := addr.toNat / 64 * 64
    let d := sliceD data 0 64 0#8
    if !cxlWorks s port then s
    else if decide (pa < usableSize s) && fromSharer s port (pa / 1024) && recallData s (pa / 1024) then
      (homeStore s pa d poison).emit (.cmp port pa)
    else if decide (pa < usableSize s) && recallGone s (pa / 1024) then s.emit (.cmp port pa)
    else match hostAddr s port pa with
      | .outside s1 => s1.emit (.cmp port pa)
      | .refused s1 => s1.emit (.cmp port pa)
      | .served s1 =>
        if writeRefused s1 pa 64 then s1.emit (.cmp port pa)
        else hostToHome s1 (hostReq (.hw port) port 0 pa 64 d poison) fun t => t.emit (.cmp port pa))

/-! ## Answers to back-invalidations -/

/-- The transaction of a line that waits for the host on a sector. -/
def hostSnoop (s : State) (line sector : Nat) : Option MissReg :=
  match missOf s line with
  | some m => if m.snoops.contains (8, sector) then some m else none
  | none => none

/-- One HSEC bit goes; PRES bit 8 with the last (R221). -/
def clearHsec (s : State) (line sector : Nat) : State :=
  match s.line? line with
  | some e =>
    let h := e.hsec &&& ~~~(bitN 4 sector)
    s.setLine line { e with hsec := h, pres := if h = 0#4 then e.pres &&& 0xEFF#12 else e.pres }
  | none => s

/-- BIRSPI: the host holds none of the sector's lines any more (R221, R226). -/
def execBirspi (port : Nat) (line : Nat) (sector : Nat) (s : State) : Host.Outcome State Fault Refusal :=
  .next (match hostSnoop s line sector with
    | some m => if portOpen s port then snoopAnswered (clearHsec s line sector) m 8 sector false false else s
    | none => s)

/-- BIRSPS: the host keeps a shared copy; it answers a recall with data only (R226). DEDUCED, log 26. -/
def execBirsps (port : Nat) (line : Nat) (sector : Nat) (s : State) : Host.Outcome State Fault Refusal :=
  .next (match hostSnoop s line sector with
    | some m => if portOpen s port && !m.inval then snoopAnswered s m 8 sector true false else s
    | none => s)

/-- BIRSPE: the host keeps the line exclusive. The spec lists the answer and gives it no effect: line and HSEC stay as they are, and the
request that waits is looked at again, which sends its snoops again (R226). DESIGN CHOICE, log 100. -/
def execBirspe (port : Nat) (line : Nat) (sector : Nat) (s : State) : Host.Outcome State Fault Refusal :=
  .next (match hostSnoop s line sector with
    | some m => if portOpen s port && !m.inval then snoopAnswered s m 8 sector false true else s
    | none => s)

/-- BICONFLICT: the device answers the handshake; the host's request is ordered after the snoop (R228). -/
def execBiconflict (port : Nat) (line : Nat) (s : State) : Host.Outcome State Fault Refusal :=
  .next (if portOpen s port then s.emit (.biConflictAck port line) else s)

/-- Sets the poison flag of a sector (R228, R237). -/
def poisonSector (s : State) (line sector : Nat) : State :=
  match s.line? line with
  | some e =>
    if e.ovf ∨ e.secAt sector = .invalid then markDram s line sector true
    else s.setLine line { e with pois := e.pois ||| bitN 4 sector }
  | none => markDram s line sector true

/-- Flips of a line's page end with result 5 (Table 08.7). -/
def flipsPoisoned (s : State) (line : Nat) : State :=
  { s with fns := s.fns.map fun e =>
      (e.1, { e.2 with flips := e.2.flips.map fun x => if x.page = line / 64 then { x with result := 5 } else x }) }

/-- BI_TIMEOUT: the host has not answered in the time of OD 0x5060:05 (R228). -/
def execBiTimeout (line : Nat) (sector : Nat) (s : State) : Host.Outcome State Fault Refusal :=
  .next (match hostSnoop s line sector with
    | none => s
    | some m =>
      if s.now < m.since + 1000 * odNat s 0x5060 5 then s
      else
        let s1 := flipsPoisoned (clearHsec (poisonSector (odAdd s 0x5060 6 1) line sector) line sector) line
        snoopAnswered s1 m 8 sector false false)

/-! ## Snoops of the DMA cache (R93, R322) -/

/-- The host snoops one line; what the DMA cache keeps of it is `keep`. -/
def hostSnoops? (s : State) (port haddr : Nat) (keep : HostLine → Option HostLine) : State :=
  let a := hostBase + haddr / 64 * 64
  match s.mem.hostLines.find? (fun h => h.addr == a && h.port == port) with
  | none => s.emit (.snpRsp port haddr [])
  | some h =>
    let rest := s.mem.hostLines.filter fun x => x.addr != a
    let lines := match keep h with
      | some k => k :: rest
      | none => rest
    (s.setMem { s.mem with hostLines := lines }).emit (.snpRsp port haddr (if h.dirty then mread s.mem.host a 64 else []))

/-- SNPDATA: the line falls to shared; a modified one is handed over. -/
def execSnpdata (port : Nat) (haddr : Nat) (s : State) : Host.Outcome State Fault Refusal :=
  .next (hostSnoops? s port haddr fun h => some { h with own := false, dirty := false })

/-- SNPINV: the line is given up. -/
def execSnpinv (port : Nat) (haddr : Nat) (s : State) : Host.Outcome State Fault Refusal :=
  .next (hostSnoops? s port haddr fun _ => none)

/-- SNPCUR: the present contents are handed over, and the line stays as it is. -/
def execSnpcur (port : Nat) (haddr : Nat) (s : State) : Host.Outcome State Fault Refusal :=
  .next (hostSnoops? s port haddr fun h => some h)

/-! ## Bias flips (R234 to R236) -/

/-- A BIAS_DONE record (Table 08.7). -/
def biasRecord (page tag result : Nat) : W64 := BitVec.ofNat 64 (2 ^ 63 + page % 2 ^ 32 * 65536 + tag % 256 * 256 + result)

/-- A flip produces its record, or loses it to a full queue, which sets BLOST; IRQ raises BVEC (R235, Table 08.6). -/
def biasFinish (s : State) (f page tag result : Nat) (irq : Bool) : State :=
  let x := s.fn f
  let s1 := if x.biasQ.length < 32 then s.setFn f { x with biasQ := x.biasQ ++ [biasRecord page tag result] }
    else raiseErr (odAdd s 0x5060 7 1) f 1
  if irq then sendMsi s1 f x.bvec else s1

/-- The result that refuses a flip, the first that applies of 4, 3, 1, 2, 6 (R235). DEDUCED, log 27. -/
def flipRefusal (s : State) (f port page dir : Nat) (reserved : Bool) : Option Nat :=
  if reserved ∨ 2 ≤ dir then some 4
  else if odNat s 0x5060 1 = 0 then some 3
  else if usableSize s < 65536 * (page + 1) ∨ (f ≠ 0 ∧ !inShare s f (65536 * page) 65536) then some 1
  else if dir = 1 ∧ pageBias s page ≠ 0 ∧ pageBias s page ≠ port + 1 then some 2
  else if 16 ≤ (s.fn f).flips.length then some 6
  else none

/-- Every line of a page. -/
def pageLines (page : Nat) : List Nat := (List.range 64).map fun i => 64 * page + i

/-- The recall of the host from one line, as its home sees it. -/
def recallReq (line : Nat) : HomeReq :=
  { kind := .rc true, agent := .framer, req := 0, seq := 0, tag := 0, pa := 1024 * line, len := 1024, op := 0, data := [], cmp := [],
    pois := false, cls := 0, looked := true }

/-- A request of the host, or a recall of it, that waits for a line. DEDUCED, log 31. -/
def hostWaits (s : State) (line : Nat) : Bool :=
  let mine := fun (r : HomeReq) => r.pa / 1024 == line && (r.kind == .rc true || (match r.agent with
    | .cxl _ => true
    | _ => false))
  s.mem.held.any mine || s.mem.miss.any fun m => m.line == line && m.waiters.any mine

/-- Does the host hold, or may it hold, a line? DEDUCED, log 31. -/
def hostHas (s : State) (line : Nat) : Bool := lineUnsure s line || (s.line? line).any fun e => e.hsec != 0#4

/-- Starts the recall of the host from one line of a page: behind the requests that its home has accepted (R236). DEDUCED, log 31. -/
def recallHost (s : State) (line : Nat) : State :=
  if s.mem.held.any (fun r => r.kind == .rc true && r.pa / 1024 == line) ||
     s.mem.miss.any (fun m => m.waiters.any fun r => r.kind == .rc true && r.pa / 1024 == line) then s
  else if (hostHas s line || hostWaits s line) && lineAnswers s line == .up then homeArrive s (recallReq line)
  else s

def recallPage (s : State) (page : Nat) : State := (pageLines page).foldl recallHost s

/-- Has the host given up every line of a page, and does no request accepted from it wait (R236)? -/
def pageFree (s : State) (page : Nat) : Bool :=
  (pageLines page).all fun l => !hostHas s l && !hostWaits s l && (match missOf s l with
    | some m => !m.snoops.any (fun x => x.1 == 8)
    | none => true)

/-- A write to BIAS_FLIP (R234). DEDUCED, log 27. -/
def biasFlip (s : State) (f port : Nat) (word : W64) : State :=
  let w := word.toNat
  let page := bits w 47 16
  let tag := bits w 15 8
  let irq := w.testBit 2
  let dir := bits w 1 0
  match flipRefusal s f port page dir (bits w 63 48 != 0 || bits w 7 3 != 0) with
  | some r => biasFinish s f page tag r irq
  | none =>
    let want := if dir = 0 then 0 else port + 1
    if pageBias s page = want then biasFinish s f page tag 0 irq
    else
      let x := s.fn f
      let fl : Flip := { page := page, tag := BitVec.ofNat 8 tag, irq := irq, result := 0, toShared := want }
      if dir = 0 then
        recallPage (s.setFn f { x with flips := x.flips ++ [fl], closing := addNew x.closing page }) page
      else
        let s1 := s.setFn f { x with flips := x.flips ++ [fl] }
        s1.setMem { s1.mem with bias := fset s1.mem.bias page want }

/-- BIAS_FLIP_SHARED: a write of a word whose TO is not 00 (Table 08.6). -/
def execBiasFlipShared (f port : Nat) (word : W64) (s : State) : Host.Outcome State Fault Refusal :=
  .next (if word.toNat % 4 = 0 then s else biasFlip s f port word)

/-- BIAS_FLIP_DEVICE_OWNED: a write of a word whose TO is 00 (Table 08.6). -/
def execBiasFlipDeviceOwned (f port : Nat) (word : W64) (s : State) : Host.Outcome State Fault Refusal :=
  .next (if word.toNat % 4 = 0 then biasFlip s f port word else s)

/-- BIAS_FLIP_DONE: the oldest flip of a function that is complete ends: a flip to shared, or one whose page the host has given
up; recalls that found no register are sent (R236). -/
def execBiasFlipDone (f : Nat) (s : State) : Host.Outcome State Fault Refusal :=
  .next (
    let s0 := ((s.fn f).closing).foldl recallPage s
    let x := s0.fn f
    match x.flips.find? (fun l => l.toShared != 0 || pageFree s0 l.page) with
    | none => s0
    | some l =>
      let s1 := s0.setFn f { x with flips := x.flips.erase l,
                                    closing := if l.toShared = 0 then x.closing.filter (· != l.page) else x.closing }
      let s2 := if l.toShared = 0 then s1.setMem { s1.mem with bias := fdel s1.mem.bias l.page } else s1
      biasFinish s2 f l.page l.tag.toNat l.result l.irq)

/-- BIAS_DONE: a read removes the oldest record; an empty queue reads 0 (R235). The word goes to the reader. -/
def execBiasDone (f : Nat) (s : State) : Host.Outcome State Fault Refusal :=
  .next (
    let x := s.fn f
    match x.biasQ with
    | [] => s.emit (.barData (homePort s f) f (leBytes 8 0) 0)
    | w :: rest => (s.setFn f { x with biasQ := rest }).emit (.barData (homePort s f) f (leBytes 8 w.toNat) 0))

/-! ## Periodic write-back and marks (R240) -/

/-- Home lines of a half. -/
def halfLines (s : State) (half : Nat) : List Nat := (s.mem.lines.filter fun e => e.2.slice / 16 == half).map (·.1)

/-- DIRTY_WRITEBACK_PERIOD: one pass of a half, once in each period of OD 0x5070:01, in ms, while it is not 0. -/
def execDirtyWritebackPeriod (half : Nat) (s : State) : Host.Outcome State Fault Refusal :=
  .next (if odNat s 0x5070 1 = 0 ∨ !bayUp s (half / 2) ∨ s.now < fgetD s.mem.passAt half 0 + 1000000 * odNat s 0x5070 1 then s
    else
      let s1 := s.setMem { s.mem with passAt := fset s.mem.passAt half s.now }
      ((halfLines s1 half).filter fun l => (missOf s1 l).isNone).foldl cleanLine s1)

/-- The bands that hold a mark: a home line with a DIRTY sector or an external owner, or the marks of a bay lost abruptly, until it has
returned (R240, R243). -/
def markedBands (s : State) : List Nat :=
  s.mem.lines.foldl (fun acc e => if e.2.hasDirty || e.2.extOwned then insAsc acc (lineBand s e.1) else acc)
    (s.bays.foldl (fun acc b => b.2.marked.foldl insAsc acc) [])

end Sys2Proof.Machine
end

