-- ==== Sys2Proof/Machine/Engine.lean ====
section
/-! DEFINITION. The Framer and the girt DMA: their reads and writes of memory (R229, R277), command records and their validity
(R276, R277, Tables 10.8 to 10.14), and the completion condition (Table 09.5). -/

namespace Sys2Proof.Machine

/-! ## Reads and writes -/

/-- What a read by an engine brings: bytes, poison, a status to report; or it waits. -/
inductive ERead where
  | data (b : List Byte) (pois : Bool) (bad : Nat) (s : State)
  | wait (s : State)

/-- A read of an engine that its home or a peer must answer first: sent once, then taken when it is done. DESIGN CHOICE, log 25. -/
def engineAsk (s : State) (agent : Agent) (ctx pa len : Nat) (k : ReqKind) (cls : Nat) : ERead :=
  match s.mem.reqs.find? (fun r => r.agent == agent && r.kind == k && r.lanes.any fun l => l.pa == pa && l.data.length == len) with
  | some r =>
    match r.lanes with
    | l :: _ =>
      if l.done then
        let bad := if l.err then (if r.region = .peer then writeError s r else 9) else 0
        .data (l.got.getD (blank len)) l.pois bad (dropReq s r.id)
      else .wait s
    | [] => .wait (dropReq s r.id)
  | none =>
    .wait (postReq s { id := 0, agent := agent, kind := k, lanes := [writeLane 0 pa pa (blank len) false], size := len, dest := 0#7,
                       pc := 0#64, acq := false, rel := false, scope := 0, cls := cls, region := regionOf pa, ctx := ctx,
                       once := false, phase := .sent, merged := none, age := s.now, back := false, fills := [],
                       noFill := false }).2

/-- Has an engine asked for these bytes already? -/
def engineAsked (s : State) (agent : Agent) (pa len : Nat) : Bool :=
  s.mem.reqs.any fun r => r.agent == agent && (r.kind == .dread || r.kind == .read) &&
    r.lanes.any fun l => l.pa == pa && l.data.length == len

/-- A read of an engine that has been answered. -/
def answeredRead (r : Req) : Bool := (r.kind == .dread || r.kind == .read) && r.lanes.all (·.done)

/-- Drops a context's answered reads that no command takes any more. -/
def dropAnswered (s : State) (ctx : Nat) : State :=
  let stale := fun (r : Req) => answeredRead r && r.ctx == ctx && (match r.agent with
    | .framer => true
    | .dma _ => true
    | _ => false)
  { s with mem := { s.mem with reqs := s.mem.reqs.filter fun r => !stale r } }

/-- A read of bytes that lie in one line, block or window, by an engine; `dc` fills the DMA cache (DS) or takes no copy; `cls` is the
command's class tag (R187). It waits for the engine's earlier messages to the place (R257). DESIGN CHOICE, log 25. -/
def engineRead (s : State) (agent : Agent) (ctx f : Nat) (dc : Bool) (pa len cls : Nat) (hw : List Host.Cell) : ERead :=
  if !engineAsked s agent pa len && !turnOf s agent s.mem.nextReq pa then .wait s
  else match regionOf pa with
  | .dram =>
    (match lineAnswers s (pa / 1024) with
     | .asleep => .wait (wakeBay s (sliceBay (homeSlice s (pa / 1024))))
     | .gone => .data (blank len) true 9 s
     | .up =>
       if homeHas s pa len && !engineAsked s agent pa len then
         let (d, p) := homeRead s pa len
         .data d p 0 (hitHome s pa len dc cls)
       else engineAsk s agent ctx pa len (if dc then .dread else .read) cls)
  | .scratch =>
    (match placeAnswers s pa with
     | .asleep => .wait (wakeBay s (sliceBay (scratchSlice pa)))
     | .gone => .data (blank len) true 9 s
     | .up => let (d, p) := scratchRead s pa len; .data d p 0 (countScratch s pa cls))
  | .store =>
    let c := storeCore pa
    (match placeAnswers s pa with
     | .asleep => .wait (wakeBay s (groveEnt s (coreGrove c)).bay)
     | .gone => .data (blank len) true 9 s
     | .up =>
       if (s.dom (coreDomain s c)).st ≠ .on then .wait (wakeDomain s (coreDomain s c))
       else let (d, p) := storeRead s pa len; .data d p 0 s)
  | .host =>
    if outsideOpen s f pa then
      let s1 := if ownsHost s pa then s else hostLearn s hw pa len
      .data (hostRead s1 pa len).1 false 0 s1
    else .wait s
  | .peer => engineAsk s agent ctx pa len .read cls
  | .unmapped => .data (blank len) true 2 s
  | _ => let (d, _) := ctlRead s pa len; .data d false 0 s

/-- How long a piece at an address may be: to the end of its line, block or word. -/
def pieceRoom (pa : Nat) : Nat :=
  match regionOf pa with
  | .dram => 1024 - pa % 1024
  | .scratch => 1024 - pa % 1024
  | .peer => 4096 - pa % 4096
  | .ctl => if inSlotBytes pa then 64 - pa % 64 else 8 - pa % 8
  | .chute => 8 - pa % 8
  | _ => 64 - pa % 64

/-- Posts writes piece after piece; answers the ids of those to be acknowledged. -/
def enginePosts (agent : Agent) (ctx : Nat) : Nat → State → Nat → List Byte → Bool → List Nat × State
  | 0, s, _, _, _ => ([], s)
  | n + 1, s, pa, b, pois =>
    if b.isEmpty then ([], s)
    else
      let k := min b.length (pieceRoom pa)
      let (id, s1) := postWrite s agent ctx pa (b.take k) pois
      let (ids, s2) := enginePosts agent ctx n s1 (pa + k) (b.drop k) pois
      (id :: ids, s2)

def engineWrite (s : State) (agent : Agent) (ctx pa : Nat) (b : List Byte) (pois : Bool) : List Nat × State :=
  enginePosts agent ctx b.length s pa b pois

/-! ## Command records (Tables 10.8 to 10.14) -/

def recGet (r : Rec) (hi lo : Nat) : Nat := bits r.bits.toNat hi lo
def recTyp (r : Rec) : Nat := if r.bad = 0 ∨ r.bad = 3 then recGet r 3 0 else 0
def recScope (r : Rec) : Nat := recGet r 19 18
def recIrq (r : Rec) : Bool := r.bits.getLsbD 20
def recNcr (r : Rec) : Bool := r.bits.getLsbD 16
def recCls (r : Rec) : Nat := recGet r 23 21

/-- The header's fixed zeros and codes; `node` says a graph node's record (R277, R290). -/
def headerOk (r : Rec) (node : Bool) : Bool :=
  recGet r 63 48 == 0 && recGet r 47 32 == 0 && recGet r 31 24 == 0 && (recScope r) != 3 && recGet r 17 17 == 0 && recGet r 15 4 == 0 &&
  (node || !(recNcr r))

/-- The payload of a type (Tables 10.9 to 10.14): bits marked 0, ranges and reserved codes. -/
def payloadOk (r : Rec) : Bool :=
  match recGet r 3 0 with
  | 1 =>
    recGet r 511 448 % 8 == 0 && decide (recGet r 319 298 ≤ 3600000) && decide (recGet r 284 279 ≤ 32) && recGet r 278 276 == 0 &&
    decide (recGet r 275 256 ≤ 98303) && recGet r 255 64 == 0
  | 2 =>
    recGet r 343 72 == 0 && decide (recGet r 71 69 < 6) && recGet r 66 64 == 0 &&
    (recGet r 71 69 == 0 || (recGet r 511 448 % 4 == 0 && recGet r 447 384 % 4 == 0 && recGet r 383 344 % 4 == 0))
  | 3 => recGet r 343 64 == 0
  | 4 => recGet r 511 448 % 8 == 0 && recGet r 351 66 == 0 && recGet r 65 64 != 3
  | 5 => recGet r 511 448 % 8 == 0 && recGet r 383 352 == 0 && recGet r 351 66 == 0 && recGet r 65 64 != 3
  | 6 => recGet r 511 448 % 4 == 0 && recGet r 447 416 == 0 && recGet r 415 411 == 0 && recGet r 410 401 == 0 && recGet r 400 74 == 0
  | 7 => decide (recGet r 410 401 ≤ 768) && recGet r 400 74 == 0 && recGet r 73 64 == 0
  | 8 => recGet r 511 448 == 0 && recGet r 415 411 == 0 && recGet r 410 401 == 0 && recGet r 400 74 == 0 && recGet r 73 64 == 0
  | 9 => recGet r 511 408 == 0 && recGet r 407 80 == 0 && recGet r 79 74 == 0 && recGet r 73 72 != 3
  | 10 => recGet r 407 80 == 0 && recGet r 79 65 == 0
  | 11 => recGet r 407 80 == 0 && recGet r 79 64 == 0
  | 12 => recGet r 511 408 == 0 && recGet r 407 80 == 0
  | _ => false

/-- Types that a graph node may have (R290). -/
def nodeType (t : Nat) : Bool := decide (1 ≤ t) && decide (t ≤ 5) || t == 9 || t == 10 || t == 11

def recordOk (r : Rec) (node : Bool) : Bool :=
  r.bad == 0 && headerOk r node && payloadOk r && (!node || nodeType (recGet r 3 0))

/-- The status that an unexecutable record completes with (R277). DEDUCED, log 32. -/
def recordStatus (r : Rec) : Nat :=
  if r.bad = 2 then 2 else if r.bad = 3 then 3 else 1

/-- Is a ring entry with IND set a valid indirect entry (R276, R277)? -/
def indirectOk (n : Nat) : Bool :=
  bits n 511 128 == 0 && bits n 127 64 % 64 == 0 && bits n 63 48 == 0 && decide (1 ≤ bits n 47 32) &&
  decide (bits n 47 32 ≤ 1024) && bits n 31 18 == 0 && bits n 16 0 == 0

/-! ## Commands: where they come from and what they wait for -/

def srcQueue (s : State) (src : CmdSrc) : Nat :=
  match src with
  | .queue q => q
  | .node l _ => ((fget s.launches l).map (·.q)).getD 4096

def queueOf (s : State) (src : CmdSrc) : Option Queue := fget s.queues (srcQueue s src)

def srcNode (src : CmdSrc) : Nat :=
  match src with
  | .queue _ => 0
  | .node _ n => n

/-- A fresh execution of a record. -/
def newExec (s : State) (r : Rec) (seq : Nat) : Exec :=
  { rec_ := r, seq := seq, typ := (recTyp r), phase := .running, status := 0, fault := 0, aux := 0, progress := 0,
    began := s.mod.time, metTime := 0#64, deadline := 0, energy := 0, repl := 0, kernel := 0, launch := 0, writes := [] }

/-- The Framer's ring-log record of a command (Table 18.5). -/
def framerRecord (s : State) (src : CmdSrc) (e : Exec) (kind time : Nat) : State :=
  match queueOf s src with
  | none => s
  | some q =>
    ringRecord s time { seq := e.seq, unit := 0, queue := srcQueue s src, ctx := q.ctx, typ := e.typ, kind := kind, engine := 0,
                        repl := e.repl, status := if kind = 1 then e.status else 0, aux := srcNode src }

/-- The girt DMA's record of a COPY or FILL. -/
def dmaRecord (s : State) (src : CmdSrc) (e : Exec) (kind : Nat) : State :=
  match queueOf s src with
  | none => s
  | some q =>
    ringRecord s s.now { seq := e.seq, unit := 0, queue := srcQueue s src, ctx := q.ctx, typ := e.typ, kind := kind, engine := 1,
                         repl := 0, status := 0, aux := 0 }

/-- Counts a command's start, and raises a shared epoch tick for the queue of EPQ (R471, Table 18.1). -/
def countStart (s : State) (q : Nat) : State :=
  let s1 := count (count s framerBank 3 1) framerBank 0 1
  if s.obs.epen ∧ s.obs.epq = q then epochTick s1 else s1

/-- Do the engines of the girt die work at all: domain 77 on, device not felled (R461)? -/
def girtRuns (s : State) : Bool := (s.dom 77).st == .on && !s.felled

/-- Does the Framer execute commands: the engines work, and contexts run (Table 00.3)? DEDUCED, log 59. -/
def framerRuns (s : State) : Bool := girtRuns s && contextsRun s

/-- The memory scope that a completion scope names (Table 09.2): DEVICE 3, SYSTEM 4, QUEUE none. -/
def cmdScope (e : Exec) : Nat :=
  match recScope e.rec_ with
  | 1 => 3
  | 2 => 4
  | _ => 0

/-- The completion record of a command (R261, R286). -/
def cmdRecord (e : Exec) (b : Nat) : CRec := { bits := BitVec.ofNat 256 b, irq := recIrq e.rec_, scope := cmdScope e }

/-- May the next command of a queue start (R274)? The writes of the commands before it come first (R260). DESIGN CHOICE, log 33. -/
def mayStart (s : State) (x : Queue) : Bool :=
  framerRuns s && x.st == .ready && x.exec.isNone && !deviceOpen s x.prior &&
  (match fget s.ctxs x.ctx with
   | some c => !c.stopping
   | none => false)

/-- A HEAD write-back that fails is dropped, counted, and raises EVEC (R273). -/
def headFailed (s : State) (x : Queue) : State := sendMsi (odAdd s 0x7000 6 1) x.f x.evec

/-- HEAD goes to HEADWB, a release of scope SYSTEM, once its translation is there (R273). -/
def headPost (s : State) (q : Nat) : State :=
  match fget s.queues q with
  | none => s
  | some x =>
    if !x.headDue then s
    else
      let over_ := fun (t : State) => t.setQueue q { x with headDue := false, heads := stillOpen t x.heads }
      match translateAsk s .framer x.ctx .write x.headwb.toNat 8 with
      | (.wait, s1) => s1
      | (.ats a b c, s1) => askAts s1 x.f a b c
      | (.ok pa, s1) =>
        if placeGone s1 pa then headFailed (over_ s1) x
        else
          let (id, s2) := postRelease s1 x.ctx pa (leBytes 8 x.head.toNat) 4
          s2.setQueue q { x with headDue := false, heads := stillOpen s1 x.heads ++ [id] }
      | (_, s1) => headFailed (over_ s1) x

/-- HEAD is to be written back (R273). -/
def headWriteback (s : State) (q : Nat) : State :=
  match fget s.queues q with
  | none => s
  | some x =>
    if x.headwb = 0#64 then s.setQueue q { x with released := 0 }
    else headPost (s.setQueue q { x with released := 0, headDue := true }) q

/-- A slot is released: HEAD advances, and is written back at every 16th and at TAIL (R273). DEDUCED, log 32. -/
def releaseSlot (s : State) (q : Nat) : State :=
  match fget s.queues q with
  | none => s
  | some x =>
    let y := { x with head := x.head + 1, released := x.released + 1 }
    let s1 := s.setQueue q y
    if 16 ≤ y.released ∨ y.head = y.tail then headWriteback s1 q else s1

/-- Starts the next command of a queue when its record satisfies a test: numbered, logged, its slot released (R274, R279). -/
def beginQueue (s : State) (q : Nat) (ok : Rec → Bool) : Option State :=
  match fget s.queues q with
  | none => none
  | some x =>
    match x.ahead with
    | r :: rest =>
      if mayStart s x && ok r then
        let e := newExec s r x.seq
        let s1 := s.setQueue q { x with ahead := rest, exec := some e, seq := x.seq + 1 }
        let s2 := framerRecord (countStart s1 q) (.queue q) e 0 s.now
        some (if r.last then releaseSlot s2 q else s2)
      else none
    | [] => none

/-- A command step of a type: the running execution, begun now if it is a queue's next record. A context that stops runs no
command on. -/
def takeExec (s : State) (src : CmdSrc) (typ : Nat) (p : Rec → Bool) : Option (Exec × State) :=
  let good := fun (r : Rec) (node : Bool) => recordOk r node && (recTyp r) == typ && p r
  let runs := fun (t : State) => framerRuns t && (match queueOf t src with
    | some x => (match fget t.ctxs x.ctx with
      | some c => !c.stopping
      | none => false)
    | none => false)
  match execOf s src with
  | some e =>
    if runs s && e.phase != .finished && good e.rec_ (match src with
      | .queue _ => false
      | .node _ _ => true) then some (e, s) else none
  | none =>
    match src with
    | .queue q =>
      (match beginQueue s q (fun r => good r false) with
       | some s1 => (execOf s1 src).map fun e => (e, s1)
       | none => none)
    | .node _ _ => none

/-- A command of a queue or node ends its work with a status. -/
def finishExec (s : State) (src : CmdSrc) (e : Exec) (status : Nat) : State :=
  dropAnswered (setExec s src { worsen e status with phase := .finished, metTime := s.mod.time })
    (((queueOf s src).map (·.ctx)).getD 4096)

/-! ## The completion condition (Table 09.5) -/

/-- Writes that the ended nodes of a launch left on their way. -/
def launchWrites (s : State) (e : Exec) : List Nat :=
  if e.typ = 6 ∧ e.launch ≠ 0 then ((fget s.launches (e.launch - 1)).map fun l => l.prior.flatMap (·.2)).getD [] else []

/-- The writes of a command that are still on their way, a launch's with those of its nodes (R261). DESIGN CHOICE, log 33. -/
def openWrites (s : State) (src : CmdSrc) (e : Exec) : List Req :=
  let ctx := ((queueOf s src).map (·.ctx)).getD 4096
  let ids := e.writes ++ launchWrites s e
  s.mem.reqs.filter fun r => ids.contains r.id ||
    (isWriteKind r.kind && r.ctx == ctx && (match reqCore r with
      | some c =>
        if e.typ = 1 then (match fget s.kerns e.kernel with
          | some k => k.cores.contains c
          | none => false)
        else e.typ == 6
      | none => false))

/-- Has a write gone to its port or rafter die, where it leaves the device (Table 09.5, DEVICE)? -/
def handedWrite (r : Req) : Bool :=
  r.phase != .blocked && r.lanes.all fun l => regionOf l.pa == .host || (regionOf l.pa == .peer && (l.sent || l.done))

/-- Is the condition of the command's scope met? -/
def scopeMet (s : State) (src : CmdSrc) (e : Exec) : Bool :=
  let ws := openWrites s src e
  match recScope e.rec_ with
  | 0 => true
  | 1 => ws.all handedWrite
  | _ => ws.isEmpty

end Sys2Proof.Machine
end

