-- ==== Sys2Proof/Machine/QueueOps.lean ====
section
/-! DEFINITION. Queues: doorbells (R271, R272), record fetch (R276 to R279), the completion ring and its shadow (R274, R286,
R288), and what queue states allow (Table 10.7). -/

namespace Sys2Proof.Machine

/-! ## Reads of virtual ranges by an engine -/

/-- What a range read comes to. -/
inductive VRead where
  | data (b : List Byte) (pois : Bool) (bad : Nat) (s : State)
  | refused (s : State)       -- no mapping with the R right, or not reachable (R277)
  | wait (s : State)

/-- Reads [va, va + len) of a context piece after piece; a piece stays in its line or block. DESIGN CHOICE, log 25. -/
def readVirt (agent : Agent) (ctx f : Nat) (dc : Bool) (cls : Nat) (hw : List Host.Cell) : Nat → State → Nat → Nat → VRead
  | 0, s, _, _ => .data [] false 0 s
  | n + 1, s, va, len =>
    if len = 0 then .data [] false 0 s
    else
      let k := min len (64 - va % 64)
      match translateAsk s agent ctx .read va k with
      | (.wait, s1) => .wait s1
      | (.fault, s1) => .refused s1
      | (.poisoned, s1) => .data (blank len) true 0 s1
      | (.ats a b c, s1) => .wait (askAts s1 f a b c)
      | (.ok pa, s1) =>
        match engineRead s1 agent ctx f dc pa k cls hw with
        | .wait s2 => .wait s2
        | .data b p bad s2 =>
          match readVirt agent ctx f dc cls hw n s2 (va + k) (len - k) with
          | .data b2 p2 bad2 s3 => .data (b ++ b2) (p || p2) (max bad bad2) s3
          | r => r

/-- A read of a range of at most 64 n bytes by the Framer. -/
def framerRead (s : State) (ctx f va len : Nat) (hw : List Host.Cell) : VRead :=
  readVirt .framer ctx f true 0 hw (len / 64 + 2) s va len

/-! ## Completion records (R286 to R288) -/

/-- The bits of a record less PHASE (Table 10.15). -/
def recordBits (e : Exec) (q node time : Nat) : Nat :=
  let energy := if e.typ = 1 ∨ e.typ = 2 ∨ e.typ = 3 ∨ e.typ = 6 ∨ e.typ = 8 then min (2 ^ 48 - 1) (e.energy / 1000) else 0
  energy * 2 ^ 208 + min 0xFFFF e.aux * 2 ^ 192 + time % 2 ^ 64 * 2 ^ 128 + e.seq % 2 ^ 64 * 2 ^ 64 + e.status * 2 ^ 48 +
  e.fault * 2 ^ 32 + q * 2 ^ 20 + e.typ * 2 ^ 16 + min 15 e.repl * 2 ^ 12 + node * 2 ^ 11

/-- What an attempt to write one record to the ring comes to. -/
inductive RecordTry where
  | done (s : State)
  | full
  | failed (s : State)
  | wait (s : State)

/-- Tries to write the next record of a queue, a release of its command's scope (R261, R286). -/
def tryRecord (s : State) (q : Nat) (r : CRec) : RecordTry :=
  match fget s.queues q with
  | none => .full
  | some x =>
    if 2 ^ x.clog ≤ (BitVec.ofNat 32 x.written - x.chead).toNat then .full
    else
      match translateAsk s .framer x.ctx .write (x.cring.toNat + 32 * (x.written % 2 ^ x.clog)) 32 with
      | (.wait, s1) => .wait s1
      | (.ats a b c, s1) => .wait (askAts s1 x.f a b c)
      | (.ok pa, s1) =>
        if placeGone s1 pa = true then .failed s1
        else
          let phase := if x.written / 2 ^ x.clog % 2 = 0 then 1 else 0
          let (id, s2) := postRelease s1 x.ctx pa (leBytes 32 (r.bits.toNat + phase)) r.scope
          let s3 := count (count s2 framerBank 4 1) framerBank 0 1
          .done (s3.setQueue q { x with written := x.written + 1, recs := x.recs ++ [(id, x.written, r)] })
      | (_, s1) => .failed s1

/-- The queue's state once its shadow ring is empty: a pause beneath shows again. -/
def settledState (x : Queue) : QSt := if x.paused then .paused else .ready

def toShadow (s : State) (q : Nat) (r : CRec) (st : QSt) : State :=
  match fget s.queues q with
  | some x => s.setQueue q { x with shadow := x.shadow ++ [r], st := if x.st = .faulted then .faulted else st }
  | none => s

/-- EVEC of a queue. -/
def raiseEvec (s : State) (q : Nat) : State :=
  match fget s.queues q with
  | some x => sendMsi s x.f x.evec
  | none => s

/-- A record is written, or goes to the shadow ring (Table 10.7). The first value is false where it waits for a translation. -/
def putRecord (s : State) (q : Nat) (r : CRec) : Bool × State :=
  match fget s.queues q with
  | none => (true, s)
  | some x =>
    if !x.shadow.isEmpty ∨ x.st = .stalled ∨ x.st = .cqWait then (true, toShadow s q r x.st)
    else
      match tryRecord s q r with
      | .done s1 => (true, s1)
      | .full => (true, toShadow s q r .cqWait)
      | .failed s1 => (true, raiseEvec (toShadow s1 q r .stalled) q)
      | .wait s1 => (false, s1)

/-- Writes shadow records in order as space allows (Table 10.7). DEDUCED, log 18. -/
def drainShadow (q : Nat) : Nat → State → State
  | 0, s => s
  | n + 1, s =>
    match fget s.queues q with
    | none => s
    | some x =>
      match x.shadow with
      | [] => s.setQueue q { x with st := if x.st = .faulted then .faulted else settledState x, drainDue := false }
      | r :: rest =>
        match tryRecord s q r with
        | .done s1 =>
          (match fget s1.queues q with
           | some y => drainShadow q n (s1.setQueue q { y with shadow := rest })
           | none => s1)
        | .full => s.setQueue q { x with st := if x.st = .faulted then .faulted else .cqWait, drainDue := false }
        | .failed s1 =>
          raiseEvec (match fget s1.queues q with
            | some y => s1.setQueue q { y with st := if y.st = .faulted then .faulted else .stalled, drainDue := false }
            | none => s1) q
        | .wait s1 =>
          (match fget s1.queues q with
           | some y => s1.setQueue q { y with drainDue := true }
           | none => s1)

def drainAll (s : State) (q : Nat) : State :=
  match fget s.queues q with
  | some x => drainShadow q (x.shadow.length + 1) s
  | none => s

/-! ## Records that complete without effect (R277) -/

/-- The next record of a queue, where it cannot be executed, completes at once with its status. DEDUCED, log 32. -/
def startInvalid (s : State) (q : Nat) : State :=
  match beginQueue s q (fun r => !recordOk r false) with
  | some s1 =>
    (match execOf s1 (.queue q) with
     | some e => finishExec s1 (.queue q) e (recordStatus e.rec_)
     | none => s1)
  | none => s

/-! ## Doorbells (R271, R272) -/

/-- The first lane in flight that writes these bytes to a control address for a context has taken effect. DEDUCED, log 22. -/
def ctlLaneDone (s : State) (ctx pa : Nat) (data : List Byte) : State :=
  let hit := fun (l : LaneAcc) => !l.done && l.pa == pa && l.data == data
  match s.mem.reqs.find? (fun r => r.ctx == ctx && isWriteKind r.kind && r.phase != .blocked && r.lanes.any hit) with
  | none => s
  | some r =>
    let ls := (r.lanes.span fun l => !hit l)
    let lanes := ls.1 ++ (match ls.2 with
      | l :: rest => { l with sent := true, done := true } :: rest
      | [] => [])
    setReq s (settleReq { r with lanes := lanes })

/-- A core's write to control space has taken effect; others leave no trace. -/
def bellDone (s : State) (a : BellAgent) (pa : Nat) (value : W64) : State :=
  match a with
  | .core ctx => ctlLaneDone s ctx pa (leBytes 8 value.toNat)
  | .host _ _ => s

/-- May the agent write the queue's doorbell: a host through its function's window, a core of the function's contexts? DEDUCED, log 35. -/
def bellAllowed (s : State) (a : BellAgent) (x : Queue) : Bool :=
  match a with
  | .host f p => decide (x.f = f) && portOpen s p
  | .core ctx => ctxFn s ctx == some x.f

/-- A doorbell write that is discarded is counted and raises EVEC (R272). DEDUCED, log 35. -/
def badBell (s : State) (q : Nat) : State := raiseEvec (odAdd s 0x7000 4 1) q

/-- Learns what a host wrote to its memory before a doorbell (R264). -/
def learnHost (s : State) (hw : List Host.Cell) : State :=
  { s with mem := { s.mem with host := mmerge s.mem.host (hw.filter fun c =>
      regionOf c.1 == .host && !ownsHost s c.1) } }

/-- The writes that a host sent through a doorbell's port before it and that are still on their way (R264). -/
def hostWrites (s : State) : BellAgent → List Nat
  | .host _ p => portWrites s p
  | .core _ => []

/-- TAIL: slots up to TAIL - 1 become available (R272); the Framer's reads of them see what the port's earlier writes brought (R264).
DEDUCED, log 35. -/
def execTail (agent : BellAgent) (q : Nat) (value : W64) (hw : List Host.Cell) (s : State) :
    Host.Outcome State Fault Refusal :=
  .next (match fget s.queues q with
    | none => bellDone s agent (bellBase + 0x1000 * q) value
    | some x =>
      if !bellAllowed s agent x then s
      else
        let s1 := bellDone (learnHost s hw) agent (bellBase + 0x1000 * q) value
        let t := BitVec.ofNat 32 value.toNat
        if 2 ^ 32 ≤ value.toNat ∨ 2 ^ x.rlog < (t - x.head).toNat then badBell s1 q
        else s1.setQueue q { x with tail := t, bells := stillOpen s1 x.bells ++ hostWrites s1 agent })

/-- CHEAD: the count of records consumed; CQ_WAIT writes shadow records as space allows (R272, Table 10.7). A CHEAD below the one
written before is discarded and counted like one ahead of the records. DESIGN CHOICE, log 101. -/
def execChead (agent : BellAgent) (q : Nat) (value : W64) (s : State) : Host.Outcome State Fault Refusal :=
  .next (match fget s.queues q with
    | none => bellDone s agent (bellBase + 0x1000 * q + 8) value
    | some x =>
      if !bellAllowed s agent x then s
      else
        let s1 := bellDone s agent (bellBase + 0x1000 * q + 8) value
        let t := BitVec.ofNat 32 value.toNat
        if 2 ^ 32 ≤ value.toNat ∨ (BitVec.ofNat 32 x.written - x.chead).toNat < (t - x.chead).toNat then badBell s1 q
        else
          let s2 := s1.setQueue q { x with chead := t }
          if x.st = .cqWait then startInvalid (drainAll s2 q) q else s2)

/-! ## Fetching records (R276 to R279) -/

/-- The record that a read of 64 bytes gives. -/
def readRecord (b : List Byte) (pois : Bool) (bad : Nat) (last : Bool) : Rec :=
  { bits := BitVec.ofNat 512 (leNat b), bad := if bad != 0 && bad != 3 then 2 else if pois then 3 else 0, last := last }

/-- Takes a slot of the ring that has been read: a record, or a valid indirect entry (R276). -/
def takeSlot (x : Queue) (r : Rec) : Queue :=
  let n := r.bits.toNat
  let y := { x with fetched := x.fetched + 1 }
  if r.bad = 0 ∧ n.testBit 17 then
    if indirectOk n then { y with indLeft := bits n 47 32, indAddr := BitVec.ofNat 64 (bits n 127 64) }
    else { y with ahead := y.ahead ++ [{ r with bad := 1 }] }
  else { y with ahead := y.ahead ++ [r] }

/-- Takes a record of the current indirect buffer; an indirect entry in it cannot be executed (R276, R277). -/
def takeIndirect (x : Queue) (r : Rec) : Queue :=
  let r1 := if r.bad = 0 ∧ r.bits.getLsbD 17 then { r with bad := 1 } else r
  { x with indLeft := x.indLeft - 1, indAddr := x.indAddr + 64, ahead := x.ahead ++ [r1] }

/-- The virtual address of the next record to read, if there is one: indirect records first, then slots below TAIL. -/
def nextRecord (x : Queue) : Option Nat :=
  if 16 ≤ x.ahead.length then none
  else if 0 < x.indLeft then some x.indAddr.toNat
  else if x.fetched ≠ x.tail then some (x.ring.toNat + 64 * (x.fetched.toNat % 2 ^ x.rlog))
  else none

/-- SLOT_FETCH: the Framer reads the next record of a READY queue (R272, R278); a record that cannot be executed completes. -/
def execSlotFetch (q : Nat) (hw : List Host.Cell) (s : State) : Host.Outcome State Fault Refusal :=
  .next (match fget s.queues q with
    | none => s
    | some x =>
      if !framerRuns s ∨ x.st ≠ .ready ∨ deviceOpen s x.bells then s
      else match nextRecord x with
        | none => startInvalid s q
        | some va =>
          let ind := decide (0 < x.indLeft)
          let put := fun (t : State) (r : Rec) =>
            match fget t.queues q with
            | some y => startInvalid (t.setQueue q (if ind then takeIndirect y r else takeSlot y r)) q
            | none => t
          let last := !ind || x.indLeft == 1
          match framerRead s x.ctx x.f va 64 hw with
          | .wait s1 => s1
          | .refused s1 => put s1 { bits := 0#512, bad := 2, last := last }
          | .data b p bad s1 => put s1 (readRecord b p bad last))

/-! ## Resuming a queue (R274, R275) -/

def queueResume (s : State) (q : Nat) : State := startInvalid (drainAll s q) q

/-- A write to OD 0x7010:01 (R275). -/
def opQueueResume (q : Nat) (s : State) : OdRes :=
  match fget s.queues q with
  | none => .abort 0x02000091
  | some x => if x.st = .stalled then odOk (queueResume s q) else .abort 0x03000094

def execQueueResumeWrite (p : Port) (q : W16) (s : State) : Host.Outcome State Fault Refusal :=
  .next (viaPort s p (opQueueResume q.toNat))

end Sys2Proof.Machine
end

