-- ==== Sys2Proof/Machine/Graphs.lean ====
section
/-! DEFINITION. Graphs and launches (R289 to R295), the residency map (R310), and the writing of completion records
(R286, R290). -/

namespace Sys2Proof.Machine

/-! ## Versions (Table 10.18) -/

def setGraph (s : State) (g : Nat) (x : Graph) : State := { s with graphs := fset s.graphs g x }

/-- A version's number goes to its RET, a release of SYSTEM scope, once its translation is there (R293). -/
def retPost (s : State) (x : Nat × Nat × Nat) : State :=
  let gone := fun (t : State) => { t with rets := t.rets.filter (· != x) }
  match fget s.ctxs x.1 with
  | none => gone s
  | some c =>
    match translateAsk s .framer x.1 .write x.2.1 8 with
    | (.wait, s1) => s1
    | (.ats p pasid page, s1) => askAts s1 c.f p pasid page
    | (.ok pa, s1) => (postRelease (gone s1) x.1 pa (leBytes 8 x.2.2) 4).2
    | (_, s1) => gone s1

def writeRet (s : State) (ctx : Nat) (v : Version) : State :=
  let x := (ctx, v.ret.toNat, v.num)
  retPost { s with rets := s.rets ++ [x] } x

/-- What the Framer has still to write, and could not for want of a translation, is tried again: HEAD write-backs, shadow records, RET. -/
def framerDues (s : State) : State :=
  let s1 := ((s.queues.filter fun e => e.2.headDue).map (·.1)).foldl headPost s
  let s2 := ((s1.queues.filter fun e => e.2.drainDue).map (·.1)).foldl drainAll s1
  s2.rets.foldl retPost s2

/-- Retires the versions that are not CURRENT and that no launch pins. -/
def retireFree (s : State) (g : Nat) : State :=
  match fget s.graphs g with
  | none => s
  | some x =>
    let gone := x.versions.filter fun v => !v.current && v.pins == 0
    let s1 := setGraph s g { x with versions := x.versions.filter fun v => v.current || v.pins != 0 }
    gone.foldl (fun t v => writeRet t x.ctx v) s1

/-- Changes the pin count of a version. -/
def pinVersion (s : State) (g num : Nat) (f : Nat → Nat) : State :=
  match fget s.graphs g with
  | none => s
  | some x => setGraph s g { x with versions := x.versions.map fun v => if v.num = num then { v with pins := f v.pins } else v }

/-- The version a launch runs. -/
def launchVersion (s : State) (l : Launch) : Option (Nat × Version) :=
  match fget s.graphs l.graph with
  | none => none
  | some x => (x.versions.find? fun v => v.num == l.version).map fun v => (x.ctx, v)

/-! ## Reading a graph's arrays (R289, R291) -/

/-- Do every 4 KiB of a range translate, for a use, to DRAM or LLC scratch? -/
def inDramOrScratch (s : State) (ctx : Nat) (u : Use) (va len : Nat) : Bool :=
  decide (0 < len) && (List.range ((va + len - 1) / 4096 + 1 - va / 4096)).all fun i =>
    let a := max va ((va / 4096 + i) * 4096)
    match (translate s ctx u a 1).1 with
    | .ok pa => regionOf pa == .dram || regionOf pa == .scratch
    | _ => false

/-- The walk of a range's pages waits for an entry from its home: the state that has asked for it. -/
def pagesAsk (s : State) (ctx va len : Nat) : Option State :=
  if len = 0 then none else (pagesNeed s ctx va len).map fun a => callLine s a 8 .framer

/-- The records of an array as numbers. -/
def splitRecords (n size : Nat) (b : List Byte) : List Nat :=
  (List.range n).map fun i => leNat ((b.drop (i * size)).take size)

/-- An edge as (FROM, TO) (Table 10.17). -/
def edgeOf (n : Nat) : Nat × Nat := (n % 65536, n / 65536)

/-- Strictly ascending order of FROM, then TO. -/
def edgesAscend : List (Nat × Nat) → Bool
  | a :: b :: r => (decide (a.1 < b.1) || (a.1 == b.1 && decide (a.2 < b.2))) && edgesAscend (b :: r)
  | _ => true

/-- Nodes left after taking away, again and again, those without an incoming edge from a node left. -/
def peel (edges : List (Nat × Nat)) : Nat → List Nat → List Nat
  | 0, left => left
  | n + 1, left =>
    let next := left.filter fun v => edges.any fun e => e.2 == v && left.contains e.1
    if next.length = left.length then left else peel edges n next

/-- A graph without a cycle peels away whole (R291). -/
def acyclic (nn : Nat) (edges : List (Nat × Nat)) : Bool := (peel edges nn (List.range nn)).isEmpty

/-- R291's conditions on the two arrays. -/
def graphOk (nn : Nat) (nodes : List Nat) (edges : List (Nat × Nat)) : Bool :=
  (nodes.all fun n => recordOk { bits := BitVec.ofNat 512 n, bad := 0, last := false } true) &&
  (edges.all fun e => decide (e.1 < nn) && decide (e.2 < nn) && e.1 != e.2) && edgesAscend edges && acyclic nn edges

/-- The index of each node's first outgoing edge, with NE in the last entry (R291). -/
def graphIndex (nn : Nat) (edges : List (Nat × Nat)) : List Byte :=
  (List.range (nn + 1)).flatMap fun n => leBytes 4 (edges.filter fun e => decide (e.1 < n)).length

/-! ## Launches (R294, R295) -/

/-- The edges of a launch's version as the Framer reads them now; none where the read waits or fails. -/
def launchEdges (s : State) (q : Queue) (v : Version) : Option (List (Nat × Nat)) × State :=
  if v.ne = 0 then (some [], s)
  else match framerRead s q.ctx q.f v.edges.toNat (4 * v.ne) [] with
    | .data b _ _ s1 => (some ((splitRecords v.ne 4 b).map edgeOf), s1)
    | .wait s1 => (none, s1)
    | .refused s1 => (none, s1)

/-- May a node with a node record start beside the shadow ring (R288)? -/
def shadowRoom (x : Queue) (l : Launch) : Bool :=
  (x.st != .stalled && x.st != .cqWait) ||
  decide (x.shadow.length + (l.running.filter fun e => recNcr e.2.rec_).length < 64)

/-- Starts one node: its record is read, and a record that cannot be executed completes at once (R292, R277). DESIGN CHOICE, log 33. -/
def startNode (s : State) (id n : Nat) : State :=
  match fget s.launches id with
  | none => s
  | some l =>
    match fget s.queues l.q, launchVersion s l with
    | some x, some (_, v) =>
      match framerRead s x.ctx x.f (v.nodes.toNat + 64 * n) 64 [] with
      | .wait s1 => s1
      | res =>
        let (r, s1) := match res with
          | .data b p bad t => (readRecord b p bad false, t)
          | .refused t => (({ bits := 0#512, bad := 2, last := false } : Rec), t)
          | .wait t => (({ bits := 0#512, bad := 2, last := false } : Rec), t)
        if recNcr r && !shadowRoom x l then s1
        else
          let seq := ((x.exec).map (·.seq)).getD 0
          let e := newExec s1 r seq
          let s2 := s1.setLaunch id { l with started := n :: l.started, running := fset l.running n e }
          let s3 := framerRecord (countStart s2 l.q) (.node id n) e 0 s2.now
          if recordOk r true then s3 else finishExec s3 (.node id n) e (recordStatus r)
    | _, _ => s

/-- Starts the nodes of a launch that are ready, in ascending order, once the writes of those before them have arrived (R260, R295).
DESIGN CHOICE, log 33. -/
def pumpLaunch (s : State) (id : Nat) : State :=
  match fget s.launches id with
  | none => s
  | some l =>
    match fget s.queues l.q, launchVersion s l with
    | some x, some (_, v) =>
      if l.failed ≠ 0 ∨ !framerRuns s then s
      else match launchEdges s x v with
        | (none, s1) => s1
        | (some edges, s1) =>
          ((List.range v.nn).filter fun n => !l.started.contains n && edges.all fun e =>
            e.2 != n || (l.done.contains e.1 && !deviceOpen s1 (fgetD l.prior e.1 []))).foldl
            (fun t n => startNode t id n) s1
    | _, _ => s

/-- A launch whose nodes have all completed, or that failed and has none running, ends its command (R295). -/
def endLaunch (s : State) (id : Nat) : State :=
  match fget s.launches id with
  | none => s
  | some l =>
    match launchVersion s l with
    | none => s
    | some (_, v) =>
      if l.running.isEmpty ∧ (l.failed ≠ 0 ∨ l.done.length = v.nn) then
        match execOf s (.queue l.q) with
        | some e => if e.phase = .finished then s else finishExec s (.queue l.q) { e with energy := l.energy } l.failed
        | none => s
      else s

/-- GRAPH_LAUNCH: pins the CURRENT version and starts its ready nodes; sent again, it starts nodes that waited (R294). -/
def execGraphLaunch (q : Nat) (s : State) : Host.Outcome State Fault Refusal :=
  .next (match (match execOf s (.queue q) with
      | some e => if e.launch = 0 ∧ e.typ = 6 ∧ (lowestFree s.launches 256).isNone then none else takeExec s (.queue q) 6 fun _ => true
      | none => if (lowestFree s.launches 256).isNone then none else takeExec s (.queue q) 6 fun _ => true) with
    | none => s
    | some (e, s1) =>
      if e.launch ≠ 0 then endLaunch (pumpLaunch s1 (e.launch - 1)) (e.launch - 1)
      else
        match fget s1.queues q, lowestFree s1.launches 256 with
        | some x, some id =>
          let h := recGet e.rec_ 73 64
          let st := recGet e.rec_ 511 448
          (match fget s1.graphs h with
           | none => finishExec s1 (.queue q) e 2
           | some g =>
             match g.versions.find? (·.current) with
             | none => finishExec s1 (.queue q) e 2
             | some v =>
               match (if g.ctx = x.ctx then pagesAsk s1 x.ctx st (4 * v.nn) else none) with
               | some s2 => setExec s2 (.queue q) { e with phase := .waiting }
               | none =>
               if g.ctx ≠ x.ctx ∨ !inDramOrScratch s1 x.ctx .write st (4 * v.nn) then finishExec s1 (.queue q) e 2
               else
                 let l : Launch := { q := q, graph := h, version := v.num, state := BitVec.ofNat 64 st, done := [],
                                     started := [], running := [], failed := 0, energy := 0, prior := [] }
                 let s2 := pinVersion (s1.setLaunch id l) h v.num (· + 1)
                 let s3 := setExec s2 (.queue q) { e with launch := id + 1, aux := v.num % 65536, phase := .waiting }
                 endLaunch (pumpLaunch s3 id) id)
        | _, _ => s1)

/-! ## The residency map (R310) -/

/-- Enters or refreshes one block; the least recently refreshed of 1,024 goes. -/
def residPut (s : State) (ctx block : Nat) (mask : Byte) : State :=
  let rest := s.resid.filter fun r => !(r.ctx == ctx && r.block == block)
  let rest := if 1024 ≤ rest.length then rest.drop 1 else rest
  { s with resid := rest ++ [{ ctx := ctx, block := block, mask := mask }] }

/-- The halves of the groves a kernel ran on. -/
def kernHalves (s : State) (k : Kern) : Byte :=
  k.cores.foldl (fun m c => m ||| BitVec.ofNat 8 (2 ^ (coreHalf s c % 8))) 0#8

/-- A hinted kernel's end refreshes every block of its hint range. -/
def residUpdate (s : State) (k : Kern) : State :=
  if k.hint = 0#64 then s
  else
    let a := k.hint.toNat
    let n := 2 ^ k.hlog * 1024
    let first := a / 2097152
    let last := (a + n - 1) / 2097152
    let mask := kernHalves s k
    (List.range (min 1024 (last + 1 - first))).foldl (fun t i => residPut t k.ctx (last + 1 - min 1024 (last + 1 - first) + i) mask) s

/-! ## Completion -/

/-- A kernel that has ended meets its command's condition: its last whorl's exit, or the last acknowledgement (Table 09.5).
DEDUCED, log 34. -/
def settledExec (s : State) (src : CmdSrc) : Option Exec :=
  match execOf s src with
  | none => none
  | some e =>
    if e.phase = .finished then some e
    else if e.typ = 1 then
      match fget s.kerns e.kernel with
      | some k =>
        if k.st = .ended then
          some { e with phase := .finished, repl := k.repl,
                        metTime := BitVec.ofNat 64 (if recScope e.rec_ = 0 then k.endAt else max k.endAt k.lastAck) }
        else none
      | none => none
    else none

/-- A kernel instance is over: its map entries are made and it is forgotten. -/
def dropKernel (s : State) (e : Exec) : State :=
  if e.typ ≠ 1 then s
  else match fget s.kerns e.kernel with
    | some k => { residUpdate s k with kerns := fdel s.kerns e.kernel }
    | none => s

/-- A launch is over: its version is unpinned, and retires if it is not CURRENT (R293). -/
def dropLaunch (s : State) (e : Exec) : State :=
  if e.typ ≠ 6 ∨ e.launch = 0 then s
  else match fget s.launches (e.launch - 1) with
    | some l =>
      let s1 := { s with launches := fdel s.launches (e.launch - 1) }
      retireFree (pinVersion s1 l.graph l.version (· - 1)) l.graph
    | none => s

/-- Energy of a command in a job's total (R283), and the end of a job and its claim at JOB_END (R305). -/
def jobAfter (x : Queue) (e : Exec) : Queue :=
  match x.job with
  | none => x
  | some j => if e.typ = 8 ∧ e.status = 0 then { x with job := none }
    else { x with job := some { j with energy := j.energy + e.energy } }

/-- The queue's command has its record: the next may start. -/
def finishQueueCmd (s : State) (q : Nat) (e : Exec) : State :=
  let left := (openWrites s (.queue q) e).map (·.id)
  let s1 := dropLaunch (dropKernel s e) e
  match fget s1.queues q with
  | some x => startInvalid (s1.setQueue q { jobAfter x e with exec := none, prior := stillOpen s1 x.prior ++ left }) q
  | none => s1

/-- A node has completed: its record is written if it asked for one, and successors start (R290, R295). -/
def finishNode (s : State) (id n : Nat) (e : Exec) : State :=
  match fget s.launches id with
  | none => s
  | some l =>
    let left := (openWrites s (.node id n) e).map (·.id)
    let s1 := dropKernel (s.setLaunch id { l with
      prior := fset l.prior n left,
      running := fdel l.running n, done := n :: l.done, energy := l.energy + e.energy,
      failed := if l.failed = 0 then e.status else l.failed }) e
    endLaunch (pumpLaunch s1 id) id

/-- A record whose slot has no translation yet asks for it, and nothing else happens. -/
def recordAsk (s : State) (q : Nat) (r : CRec) : State := (putRecord s q r).2

/-- COMPLETION_RECORD_WRITE: the condition of the command's scope is met, and its record is written (R261, R286). -/
def execCompletionRecordWrite (src : CmdSrc) (s : State) : Host.Outcome State Fault Refusal :=
  .next (match settledExec s src, queueOf s src with
    | some e, some x =>
      if !framerRuns s ∨ x.st = .faulted ∨ !scopeMet s src e then s
      else
        let q := srcQueue s src
        let s1 := framerRecord s src e 1 e.metTime.toNat
        (match src with
         | .queue _ =>
           let r := cmdRecord e (recordBits e q 0 e.metTime.toNat)
           let (put, s2) := putRecord s1 q r
           if put then finishQueueCmd s2 q e else recordAsk s q r
         | .node id n =>
           if recNcr e.rec_ then
             let r := cmdRecord e (recordBits { e with aux := n } q 1 e.metTime.toNat)
             let (put, s2) := putRecord s1 q r
             if put then finishNode s2 id n e else recordAsk s q r
           else finishNode s1 id n e)
    | _, _ => s)

end Sys2Proof.Machine
end

