-- ==== Sys2Proof/Machine/Commands.lean ====
section
/-! DEFINITION. The commands COPY, FILL, WAIT, SIGNAL, CHUTE_CTL, PIN and KERF (R281, R282, R284). -/

namespace Sys2Proof.Machine

/-! ## Writes of the girt DMA and the Framer for a command -/

/-- A write of a command with its class tag: plain, atomic or accumulating; a release carries its scope. -/
def cmdPost (s : State) (agent : Agent) (ctx pa : Nat) (k : ReqKind) (b : List Byte) (pois wt rel : Bool) (scope cls : Nat) :
    Nat × State :=
  postReq s { id := 0, agent := agent, kind := k, lanes := [writeLane 0 pa pa b pois], size := b.length, dest := 0#7,
              pc := 0#64, acq := false, rel := rel, scope := scope, cls := cls, region := regionOf pa, ctx := ctx, once := false,
              phase := .sent, merged := none, age := s.now, back := false, fills := [], noFill := false, wt := wt }

/-- Where a command's bytes go: an address, or nowhere, for a page-table entry that is poisoned. -/
inductive DmaDest where
  | at_ (pa : Nat) (s : State)
  | lost (s : State)
  | refused (s : State)
  | wait (s : State)

def dmaDest (s : State) (x : Queue) (u : Use) (va : Nat) : DmaDest :=
  match translateAsk s (.dma x.ctx) x.ctx u va 1 with
  | (.wait, s1) => .wait s1
  | (.fault, s1) => .refused s1
  | (.ats a b c, s1) => .wait (askAts s1 x.f a b c)
  | (.poisoned, s1) => .lost s1
  | (.ok pa, s1) => .at_ pa s1

/-- The most data a Rafter frame carries (OD 0x1500:07). -/
def maxPayload (s : State) : Nat :=
  match odNat s 0x1500 7 with
  | 0 => 256
  | 1 => 1024
  | _ => 4096

/-- Bytes from an address to the end of the largest piece that may go there at once. -/
def destRoom (s : State) : DmaDest → Nat → Nat
  | .at_ pa _, _ => if regionOf pa = .peer then min (maxPayload s) (pieceRoom pa) else pieceRoom pa
  | _, va => 64 - va % 64

/-- Poison is written as poison to DRAM and scratch, as zeros elsewhere (R281). -/
def keepsPoison (pa : Nat) : Bool := regionOf pa == .dram || regionOf pa == .scratch

/-- What one piece of a COPY or FILL comes to. -/
inductive PieceDone where
  | went (n : Nat) (e : Exec) (s : State)
  | wait (s : State)
  | stop (code : Nat) (s : State)

/-- Sends one piece to its place. -/
def sendPiece (s : State) (x : Queue) (e : Exec) (d : DmaDest) (k : ReqKind) (b : List Byte) (pois wt : Bool) : PieceDone :=
  match d with
  | .at_ pa _ =>
    let (id, s1) := cmdPost s (.dma x.ctx) x.ctx pa k b (pois && keepsPoison pa) (wt && regionOf pa == .dram) false 0 (recCls e.rec_)
    .went b.length { e with writes := e.writes ++ [id] } s1
  | _ => .went b.length (worsen e 3) s

/-! ## COPY and FILL -/

/-- The chute that a COPY's destination opens a packet for: offset 0 of a chute window (R281). -/
def copyChute (s : State) (x : Queue) (dst : Nat) : Option Nat :=
  match (translate s x.ctx .write dst 1).1 with
  | .ok pa => if regionOf pa = .chute ∧ pa % 0x1000 = 0 then some (chuteOf pa) else none
  | _ => none

/-- A source read that ends the command, by its status (R441). -/
def readEnds (bad : Nat) : Bool := bad == 2 || bad == 8

/-- Notes the statuses a source read brings without ending the command. -/
def noteRead (e : Exec) (pois : Bool) (bad : Nat) : Exec :=
  let e1 := if bad = 0 then e else worsen e bad
  if pois && bad == 0 then worsen e1 3 else e1

/-- Sends the next bytes of a packet to a chute; while the producer waits for space the command waits. -/
def chutePiece (s : State) (x : Queue) (e : Exec) (hw : List Host.Cell) (c len : Nat) : PieceDone :=
  let mine := fromProducer s c .dma
  if mine && ((s.chute c).waitSrc.isSome || (e.progress == 0 && (s.chute c).inPkt)) then .wait s
  else
    let k := min 8 (len - e.progress)
    match readVirt (.dma x.ctx) x.ctx x.f (e.rec_.bits.getLsbD 67) (recCls e.rec_) hw 3 s (recGet e.rec_ 511 448 + e.progress) k with
    | .refused s1 => .stop 2 s1
    | .wait s1 => .wait s1
    | .data b p bad s1 =>
      if readEnds bad then .stop bad s1
      else .went k (noteRead e p bad) (chuteWrite s1 c .dma (if p then blank k else b) (e.progress + k == len))

/-- Reads a source range sector after sector; where the destination keeps no poison, a poisoned sector reads as zeros. -/
def readSectors (x : Queue) (e : Exec) (hw : List Host.Cell) (keep : Bool) : Nat → State → Nat → Nat → VRead
  | 0, s, _, _ => .data [] false 0 s
  | n + 1, s, va, len =>
    if len = 0 then .data [] false 0 s
    else
      let k := min len (256 - va % 256)
      match readVirt (.dma x.ctx) x.ctx x.f (e.rec_.bits.getLsbD 67) (recCls e.rec_) hw 6 s va k with
      | .data b p bad s1 =>
        (match readSectors x e hw keep n s1 (va + k) (len - k) with
         | .data b2 p2 bad2 s2 => .data ((if p && !keep then blank k else b) ++ b2) (p || p2) (max bad bad2) s2
         | r => r)
      | r => r

/-- Bytes to the end of the source sector, where the destination keeps poison, and none of it may spread. -/
def sourceRoom (d : DmaDest) (sva : Nat) : Nat :=
  match d with
  | .at_ pa _ => if regionOf pa = .peer then 4096 else 256 - sva % 256
  | _ => 256 - sva % 256

/-- One piece of a COPY: it stays in a source sector and in a destination line or block. -/
def copyPiece (s : State) (x : Queue) (e : Exec) (hw : List Host.Cell) : PieceDone :=
  let op := recGet e.rec_ 71 69
  let sva := recGet e.rec_ 511 448 + e.progress
  let dva := recGet e.rec_ 447 384 + e.progress
  let len := recGet e.rec_ 383 344
  match (if op = 0 then copyChute s x (recGet e.rec_ 447 384) else none) with
  | some c => chutePiece s x e hw c len
  | none =>
    match dmaDest s x (if op = 0 then .write else .acw) dva with
    | .refused s1 => .stop 2 s1
    | .wait s1 => .wait s1
    | d =>
      let s1 := match d with
        | .at_ _ t => t
        | .lost t => t
        | .refused t => t
        | .wait t => t
      let k := min (len - e.progress) (min (destRoom s d dva) (sourceRoom d sva))
      let keep := match d with
        | .at_ pa _ => keepsPoison pa
        | _ => false
      match readSectors x e hw keep 20 s1 sva k with
      | .refused s2 => .stop 2 s2
      | .wait s2 => .wait s2
      | .data b p bad s2 =>
        if readEnds bad then .stop bad s2
        else sendPiece s2 x (noteRead e p bad) d (if op = 0 then .fwrite else .acw (op - 1)) b p (e.rec_.bits.getLsbD 68)

/-- One piece of a FILL: byte i of the range is byte (DST + i) mod 8 of PATTERN (Table 10.11). -/
def fillPiece (s : State) (x : Queue) (e : Exec) : PieceDone :=
  let dva := recGet e.rec_ 511 448 + e.progress
  let pat := leBytes 8 (recGet e.rec_ 447 384)
  match dmaDest s x .write dva with
  | .refused s1 => .stop 2 s1
  | .wait s1 => .wait s1
  | d =>
    let s1 := match d with
      | .at_ _ t => t
      | .lost t => t
      | .refused t => t
      | .wait t => t
    let k := min (recGet e.rec_ 383 344 - e.progress) (destRoom s d dva)
    sendPiece s1 x e d .fwrite ((List.range k).map fun i => pat.getD ((dva + i) % 8) 0#8) false false

/-- Does a producer still wait for space with the last word of the command's packet? -/
def packetWaits (s : State) (x : Queue) (e : Exec) : Bool :=
  e.typ == 2 && recGet e.rec_ 71 69 == 0 && decide (0 < e.progress) &&
  (match copyChute s x (recGet e.rec_ 447 384) with
   | some c => fromProducer s c .dma && (s.chute c).waitSrc.isSome
   | none => false)

/-- Moves piece after piece until the range is done, a piece waits, or one ends the command (R281, R441). -/
def moveRun (src : CmdSrc) (x : Queue) (piece : State → Exec → PieceDone) : Nat → State → Exec → State
  | 0, s, e => setExec s src e
  | n + 1, s, e =>
    if recGet e.rec_ 383 344 ≤ e.progress then
      if packetWaits s x e then setExec s src { e with phase := .waiting }
      else
        let s1 := if 0 < e.progress then dmaRecord s src e 1 else s
        finishExec s1 src e 0
    else
      match piece s e with
      | .wait s1 => setExec s1 src { e with phase := .waiting }
      | .stop code s1 => finishExec (if 0 < e.progress then dmaRecord s1 src e 1 else s1) src e code
      | .went k e1 s1 =>
        let s2 := if e.progress = 0 then dmaRecord s1 src e 0 else s1
        moveRun src x piece n s2 { e1 with progress := e.progress + k, phase := .running }

/-- COPY (R281): the girt DMA moves or accumulates the bytes; sent again, it goes on where it waited. -/
def execCopy (src : CmdSrc) (hw : List Host.Cell) (s : State) : Host.Outcome State Fault Refusal :=
  .next (match takeExec s src 2 (fun _ => true) with
    | none => s
    | some (e, s1) =>
      match queueOf s1 src with
      | none => s1
      | some x => moveRun src x (fun t y => copyPiece t x y hw) (recGet e.rec_ 383 344 + 1) s1 e)

/-- FILL (Table 10.11). -/
def execFill (src : CmdSrc) (s : State) : Host.Outcome State Fault Refusal :=
  .next (match takeExec s src 3 (fun _ => true) with
    | none => s
    | some (e, s1) =>
      match queueOf s1 src with
      | none => s1
      | some x => moveRun src x (fun t y => fillPiece t x y) (recGet e.rec_ 383 344 + 1) s1 e)

/-! ## WAIT and SIGNAL (R282) -/

/-- Is COND met (Table 10.12)? -/
def condMet (cond value cmp : Nat) : Bool := if cond = 0 then value == cmp else if cond = 1 then value != cmp else decide (cmp ≤ value)

/-- A word outside the homes is polled every 1,000 ns, as R65 states. -/
def isPolled (pa : Nat) : Bool := watchPlaceOf pa
where watchPlaceOf (pa : Nat) : Bool :=
  match regionOf pa with
  | .dram => false
  | .scratch => false
  | .store => false
  | _ => true

/-- The command waits on: its deadline is fixed at its first read; a polled word is read next after 1,000 ns. -/
def waitsOn (s : State) (src : CmdSrc) (e : Exec) (next : Nat) : State :=
  let limit := recGet e.rec_ 383 352
  setExec s src { e with phase := .waiting, progress := next,
                         deadline := if limit = 0 then 0 else e.began.toNat + 1000 * limit }

/-- WAIT: the Framer reads the word; the command completes when it meets COND, else it goes on waiting. -/
def execWaitCommand (src : CmdSrc) (hw : List Host.Cell) (s : State) : Host.Outcome State Fault Refusal :=
  .next (match takeExec s src 4 (fun _ => true) with
    | none => s
    | some (e, s1) =>
      match queueOf s1 src with
      | none => s1
      | some x =>
        let va := recGet e.rec_ 511 448
        match translateAsk s1 .framer x.ctx .read va 8 with
        | (.wait, s2) => waitsOn s2 src e e.progress
        | (.fault, s2) => finishExec s2 src e 2
        | (.poisoned, s2) => finishExec s2 src e 3
        | (.ats a b c, s2) => waitsOn (askAts s2 x.f a b c) src e e.progress
        | (.ok pa, s2) =>
          if isPolled pa && decide (s2.now < e.progress) then s2
          else
            match engineRead s2 .framer x.ctx x.f true pa 8 (recCls e.rec_) hw with
            | .wait s3 => waitsOn s3 src e e.progress
            | .data b p bad s3 =>
              if bad ≠ 0 then finishExec s3 src e bad
              else if p then finishExec s3 src e 3
              else if condMet (recGet e.rec_ 65 64) (leNat b) (recGet e.rec_ 447 384) then
                finishExec (checkFramerAcquire s3 pa) src { e with progress := 0 } 0
              else waitsOn s3 src e (if isPolled pa then s3.now + 1000 else 0))

/-- WAIT_COMMAND_TIMEOUT: TIMEOUT has elapsed first (R282). -/
def execWaitCommandTimeout (src : CmdSrc) (s : State) : Host.Outcome State Fault Refusal :=
  .next (match execOf s src with
    | some e =>
      if e.typ = 4 ∧ e.phase = .waiting ∧ e.deadline ≠ 0 ∧ e.deadline ≤ s.now ∧ framerRuns s then
        finishExec s src { e with progress := 0 } 4
      else s
    | none => s)

/-- SIGNAL: one 8 B write or atomic, a release of the command's completion scope (R282). -/
def execSignal (src : CmdSrc) (s : State) : Host.Outcome State Fault Refusal :=
  .next (match takeExec s src 5 (fun _ => true) with
    | none => s
    | some (e, s1) =>
      match queueOf s1 src with
      | none => s1
      | some x =>
        let op := recGet e.rec_ 65 64
        match dmaDest s1 x (if op = 0 then .write else .atomic) (recGet e.rec_ 511 448) with
        | .refused s2 => finishExec s2 src e 2
        | .lost s2 => finishExec s2 src e 3
        | .wait s2 => setExec s2 src { e with phase := .waiting }
        | .at_ pa s2 =>
          let k := if op = 0 then ReqKind.fwrite else if op = 1 then .atom 0 else .atom 4
          let (id, s3) := cmdPost s2 .framer x.ctx pa k (leBytes 8 (recGet e.rec_ 447 384)) false false true (cmdScope e)
            (recCls e.rec_)
          finishExec s3 src { e with writes := [id] } 0)

/-! ## CHUTE_CTL (R284, R301) -/

/-- A CHUTE_CTL of an operation: a chute that is not the partition's ends it with ADDRESS_ERROR (R284). -/
def chuteCtl (s : State) (src : CmdSrc) (op : Nat) (act : State → Exec → Nat → State) : State :=
  match takeExec s src 9 (fun r => recGet r 73 72 == op) with
  | none => s
  | some (e, s1) =>
    match queueOf s1 src with
    | none => s1
    | some x =>
      let c := recGet e.rec_ 71 64
      if e.phase = .flushWait then s1
      else if odNat s1 (chuteOd c) 1 ≠ x.f then finishExec s1 src e 2
      else act s1 e c

/-- FLUSH, by a CHUTE_CTL or by a write of 1 to OD 0x7400 + c:08. DEDUCED, log 43. -/
def execFlush (src : Option CmdSrc) (chute : Nat) (s : State) : Host.Outcome State Fault Refusal :=
  .next (match src with
    | some q => chuteCtl s q 0 fun t e c => chuteFlush (setExec t q { e with phase := .flushWait }) c (some q)
    | none => if chute < 256 then chuteFlush s chute none else s)

def execStop (src : CmdSrc) (s : State) : Host.Outcome State Fault Refusal :=
  .next (chuteCtl s src 1 fun t e c => finishExec (chuteStop t c) src e 0)

def execStart (src : CmdSrc) (s : State) : Host.Outcome State Fault Refusal :=
  .next (chuteCtl s src 2 fun t e c => finishExec (chuteStart t c) src e 0)

/-! ## PIN and KERF (R284) -/

/-- Lines that a range overlaps. -/
def rangeLines (va len : Nat) : Nat := if len = 0 then 0 else (va + len - 1) / 1024 + 1 - va / 1024

/-- Pins or unpins line after line; `progress` counts the lines done, `aux` the refusals. -/
def pinRun (src : CmdSrc) (x : Queue) (unpin : Bool) : Nat → State → Exec → State
  | 0, s, e => setExec s src e
  | n + 1, s, e =>
    let va := recGet e.rec_ 511 448
    if rangeLines va (recGet e.rec_ 447 408) ≤ e.progress then finishExec s src e (if e.aux = 0 then 0 else 6)
    else
      let go := fun (t : State) (bad : Bool) =>
        pinRun src x unpin n t { e with progress := e.progress + 1, aux := if bad then e.aux + 1 else e.aux }
      match translateAsk s .framer x.ctx .read ((va / 1024 + e.progress) * 1024) 1 with
      | (.wait, s1) => setExec s1 src { e with phase := .waiting }
      | (.ok pa, s1) =>
        if regionOf pa ≠ .dram then go s1 true
        else
          (match pinAt s1 x.f pa unpin with
           | .status k s2 => go s2 (k != 0)
           | .waits s2 => setExec s2 src { e with phase := .waiting })
      | (_, s1) => go s1 true

def pinCmd (s : State) (src : CmdSrc) (unpin : Bool) : State :=
  match takeExec s src 10 (fun r => r.bits.getLsbD 64 == unpin) with
  | none => s
  | some (e, s1) =>
    match queueOf s1 src with
    | none => s1
    | some x => pinRun src x unpin (rangeLines (recGet e.rec_ 511 448) (recGet e.rec_ 447 408) + 1) s1 e

def execPinCommand (src : CmdSrc) (s : State) : Host.Outcome State Fault Refusal := .next (pinCmd s src false)
def execUnpinCommand (src : CmdSrc) (s : State) : Host.Outcome State Fault Refusal := .next (pinCmd s src true)

/-- Has a DRAM line that a kerf would reach a transaction open, after which alone it is processed (R179)? DEDUCED, log 44. -/
def kerfBusy (s : State) (ctx va len : Nat) : Bool :=
  let first := (va + 1023) / 1024
  (List.range ((va + len) / 1024 - first)).any fun i =>
    match (translate s ctx .write ((first + i) * 1024) 1024).1 with
    | .ok pa => regionOf pa == .dram && (missOf s (pa / 1024)).isSome
    | _ => false

/-- KERF: every DRAM line wholly in the range that is mapped with the W right; the rest is skipped (R284). -/
def execKerfCommand (src : CmdSrc) (s : State) : Host.Outcome State Fault Refusal :=
  .next (match takeExec s src 11 (fun _ => true) with
    | none => s
    | some (e, s1) =>
      match queueOf s1 src with
      | none => s1
      | some x =>
        let va := recGet e.rec_ 511 448
        let len := recGet e.rec_ 447 408
        match pagesAsk s1 x.ctx va len with
        | some s2 => setExec s2 src { e with phase := .waiting }
        | none =>
        if kerfBusy s1 x.ctx va len then setExec s1 src { e with phase := .waiting }
        else finishExec (kerfRange s1 (.dma x.ctx) x.ctx va len) src e 0)

end Sys2Proof.Machine
end

