-- ==== Sys2Proof/Machine/Place.lean ====
section
/-! DEFINITION. Shares (R306 to R308), jobs and claims (R283, R303 to R305), and the placement of kernels (R309, Table 02.2). -/

namespace Sys2Proof.Machine

/-! ## Shares (R308) -/

def classKey (part cls : Nat) : Nat := 64 * part + cls
def classWeight (s : State) (cls : Nat) : Nat := max 1 (odNat s (0x7100 + cls) 1)
def classSteps (s : State) (part cls : Nat) : Nat := fgetD s.classC (classKey part cls) 0

/-- Has class a a lower virtual time than class b in a partition? -/
def lowerV (s : State) (part a b : Nat) : Bool :=
  decide (classSteps s part a * classWeight s b < classSteps s part b * classWeight s a)

/-- Does a kernel wait for cores: not placed yet, with whorls left to place, or switched out? -/
def kernReady (k : Kern) : Bool :=
  k.st == .waiting || k.st == .saved || (k.st == .resident && decide (k.next < k.nwh))

/-- Kernels of a partition that have not ended. -/
def liveKerns (s : State) (part : Nat) : List (Nat × Kern) := s.kerns.filter fun e => e.2.part == part && e.2.st != .ended

/-- Raises a class that becomes ready to the lowest virtual time among the ready ones (R308): a class is ready while a kernel of
it waits for cores. DEDUCED, log 104. -/
def raiseClass (s : State) (part cls : Nat) : State :=
  let others := ((liveKerns s part).filter fun e => kernReady e.2).map (·.2.cls)
  if others.contains cls then s
  else match others with
    | [] => s
    | c :: rest =>
      let low := rest.foldl (fun a b => if lowerV s part b a then b else a) c
      let w := classWeight s low
      let need := (classSteps s part low * classWeight s cls + w - 1) / w
      { s with classC := fset s.classC (classKey part cls) (max need (classSteps s part cls)) }

/-- Is a kernel placed ahead of the others: a replay that stands before its first wave (R317)? -/
def kernFirst (k : Kern) : Bool := decide (0 < k.repl) && k.st == .waiting

/-- A queue's turn within its class. -/
def queueTurn (s : State) (k : Kern) : Nat := (k.q + 4096 - (fgetD s.rr (classKey k.part k.cls) 4095 + 1) % 4096) % 4096

/-- Does kernel a come before kernel b in its partition (R308, R317)? -/
def comesBefore (s : State) (a b : Nat × Kern) : Bool :=
  if kernFirst a.2 != kernFirst b.2 then kernFirst a.2
  else if lowerV s a.2.part a.2.cls b.2.cls then true
  else if lowerV s a.2.part b.2.cls a.2.cls then false
  else if a.2.cls ≠ b.2.cls then decide (a.2.cls < b.2.cls)
  else if queueTurn s a.2 ≠ queueTurn s b.2 then decide (queueTurn s a.2 < queueTurn s b.2)
  else decide (a.1 < b.1)

/-! ## Claims (R304, R305) -/

/-- Is a partition in whole-job mode (OD 0x6010 + f:0A)? -/
def jobMode (s : State) (f : Nat) : Bool := odNat s (0x6010 + f) 10 == 1

/-- The open job of a queue, unless its context has faulted. -/
def openJob (s : State) (q : Nat) : Option Job :=
  match fget s.queues q with
  | some x => if x.st = .faulted then none else x.job
  | none => none

/-- Is a grove in a job's choice of another queue that satisfies a test? -/
def claimedBy (s : State) (q g : Nat) (p : Queue → Job → Bool) : Bool :=
  s.queues.any fun e => e.1 != q && e.2.st != .faulted && (match e.2.job with
    | some j => j.claim.contains g && p e.2 j
    | none => false)

/-- The groves a kernel may be placed on (R305); one of another class starts on no grove that a waiting claim has chosen. -/
def kernGroves (s : State) (k : Kern) : List Nat :=
  let mine := (s.fn k.part).groves
  if jobMode s k.part then
    match openJob s k.q with
    | some j => if j.held then mine.filter j.claim.contains else []
    | none => mine.filter fun g => !claimedBy s k.q g fun x j => j.held || (k.next == 0 && x.cls != k.cls)
  else mine

/-! ## Eligible cores (R309) -/

/-- Granules of a context on a core. -/
def ctxGranules (c : Core) (ctx : Nat) : List Nat := (c.granules.filter fun e => e.2 == ctx).map (·.1)

/-- Does a core await the restore of another context's kernel that is first in class order (R313)? -/
def awaitsRestore (s : State) (k : Kern) (c : Nat) : Bool :=
  s.kerns.any fun e => e.2.st == .saved && e.2.ctx != k.ctx && (e.2.saved.any fun w => w.core == c) &&
    !((liveKerns s e.2.part).any fun o => o.1 != e.1 && kernReady o.2 && comesBefore s o e)

/-- Is a core one that the placement may use, in a bay that runs or in one asleep (R309, R383)? -/
def eligibleIn (s : State) (k : Kern) (bay : BaySt) (c : Nat) : Bool :=
  let x := s.core c
  let e := groveEnt s (coreGrove c)
  let have_ := (ctxGranules x k.ctx).length
  coreUsed s c && !x.failed && (s.bay e.bay).st == bay && !(s.bay e.bay).draining &&
  (bay == .asleep || (s.dom (coreDomain s c)).st != .off) &&
  (lowestFree x.slots 8).isSome && (decide (k.gran ≤ have_) || decide (k.gran ≤ have_ + (32 - x.granules.length - x.zeroing.length))) &&
  !awaitsRestore s k c

def eligible (s : State) (k : Kern) (c : Nat) : Bool := eligibleIn s k .running c

def groveCores (g : Nat) : List Nat := (List.range 16).map fun i => 16 * g + i

/-- Cores a kernel may use now. -/
def eligibleCores (s : State) (k : Kern) (bay : BaySt) : List Nat :=
  ((kernGroves s k).flatMap groveCores).filter (eligibleIn s k bay)

/-- Has another kernel of the partition the first call on a core that this one could use? -/
def othersFirst (s : State) (id : Nat) (k : Kern) : Bool :=
  let mine := eligibleCores s k .running
  (liveKerns s k.part).any fun o => o.1 != id && o.2.st != .saved && kernReady o.2 && comesBefore s o (id, k) &&
    (eligibleCores s o.2 .running).any mine.contains

/-! ## Scores (R309) -/

/-- Bytes of the hint range by where they lie: grove stores, homes by half, and residency marks by half. -/
structure HintBytes where
  grove : FMap Nat
  half : FMap Nat
  mark : FMap Nat

def HintBytes.none : HintBytes := { grove := [], half := [], mark := [] }

def bump (m : FMap Nat) (k n : Nat) : FMap Nat := fset m k (fgetD m k 0 + n)

/-- Adds the bytes of one 1 KiB chunk of virtual space. -/
def hintChunk (s : State) (ctx va n : Nat) (h : HintBytes) : HintBytes :=
  let mask := match s.resid.find? (fun r => r.ctx == ctx && r.block == va / 2097152) with
    | some r => r.mask
    | none => 0#8
  let h1 := { h with mark := (List.range 8).foldl (fun m i => if mask.getLsbD i then bump m i n else m) h.mark }
  match (translate s ctx .read va 1).1 with
  | .ok pa =>
    (match regionOf pa with
     | .dram => { h1 with half := bump h1.half (sliceHalf (homeSlice s (pa / 1024))) n }
     | .store =>
       let c := storeCore pa
       if fget (s.core c).granules (storeGranule pa) = some ctx then { h1 with grove := bump h1.grove (coreGrove c) n } else h1
     | _ => h1)
  | _ => h1

/-- The bytes of H = [hint, hint + 2^hlog KiB); none when the hint is 0. -/
def hintBytes (s : State) (ctx hint hlog : Nat) : HintBytes :=
  if hint = 0 then HintBytes.none
  else
    let stop := hint + 2 ^ hlog * 1024
    (List.range ((stop + 1023) / 1024 - hint / 1024)).foldl (fun h i =>
      let a := max hint ((hint / 1024 + i) * 1024)
      hintChunk s ctx a (min stop ((hint / 1024 + i + 1) * 1024) - a) h) HintBytes.none

/-- The half of a grove (R162). -/
def groveHalf (s : State) (g : Nat) : Nat := coreHalf s (16 * g)

def groveScore (s : State) (h : HintBytes) (g : Nat) : Nat :=
  let x := groveHalf s g
  4 * fgetD h.grove g 0 + 2 * fgetD h.half x 0 + 2 * fgetD h.mark x 0 + fgetD h.half (if x % 2 = 0 then x + 1 else x - 1) 0

/-- Inserts by an order. -/
def insertBy {α : Type} (le : α → α → Bool) (a : α) : List α → List α
  | [] => [a]
  | b :: r => if le a b then a :: b :: r else b :: insertBy le a r

def sortBy {α : Type} (le : α → α → Bool) (l : List α) : List α := l.foldr (insertBy le) []

/-- The order of groves: score descending, hops to the first grove, logical number ascending. -/
def groveOrder (s : State) (h : HintBytes) (gs : List Nat) : List Nat :=
  let byScore := fun (a b : Nat) => decide (groveScore s h b < groveScore s h a) || (groveScore s h a == groveScore s h b && decide (a ≤ b))
  match sortBy byScore gs with
  | [] => []
  | first :: _ =>
    sortBy (fun a b =>
      decide (groveScore s h b < groveScore s h a) || (groveScore s h a == groveScore s h b &&
        (decide (groveHops s a first < groveHops s b first) || (groveHops s a first == groveHops s b first && decide (a ≤ b))))) gs

/-! ## Launching whorls (Table 02.2, R49, R107, R148, R152, R260) -/

/-- A whorl at launch. -/
def newWhorl (id : Nat) (k : Kern) (core slot : Nat) : Whorl :=
  let mask := BitVec.ofNat 16 (2 ^ k.tpw - 1)
  { kernel := id, index := k.next, launched := mask,
    v := (List.range 16).map fun l => (64 * l, BitVec.ofNat 32 l),
    u := [(0, k.args), (1, BitVec.ofNat 64 k.next), (2, BitVec.ofNat 64 core), (3, BitVec.ofNat 64 slot),
          (4, BitVec.ofNat 64 k.nwh), (5, BitVec.ofNat 64 mask.toNat)],
    p := [], acc := [], accInt := 0#4, liveV := [], liveT := 0#4,
    paths := [{ pid := 0, lanes := mask, pc := k.pc, joins := [], st := .run }],
    cur := 0, nextPid := 1, nextSplit := 0, issues := 0, curIssues := 0, colls := [], tileQ := [], stopped := false }

/-- Granules that the kernel's context takes on a core, lowest free first. DEDUCED, log 44. -/
def takeGranules (x : Core) (k : Kern) : List Nat :=
  let need := k.gran - (ctxGranules x k.ctx).length
  ((List.range 32).filter fun g => (fget x.granules g).isNone && !x.zeroing.contains g).take need

/-- Raises a context's granule high-water mark. -/
def noteHigh (s : State) (ctx n : Nat) : State :=
  match fget s.ctxs ctx with
  | some c => s.setCtx ctx { c with resv := max c.resv (4096 * n) }
  | none => s

/-- Launches the next whorl of a kernel on a core. DEDUCED, log 44. -/
def launchOn (s : State) (id c : Nat) : State :=
  match fget s.kerns id with
  | none => s
  | some k =>
    let s0 := if k.cores.contains c then s else swapCore s c
    let x := s0.core c
    match lowestFree x.slots 8 with
    | none => s
    | some slot =>
      let new := takeGranules x k
      let x1 := { x with slots := fset x.slots slot (newWhorl id k c slot),
                         granules := new.foldl (fun m g => fset m g k.ctx) x.granules,
                         icache := if k.cores.contains c then x.icache else [] }
      let s1 := setGen (l1Clear (wakeDomain (s0.setCore c x1) (coreDomain s0 c)) c) c k.ctx (genOf s0 c k.ctx)
      let s2 := noteHigh s1 k.ctx (ctxGranules x1 k.ctx).length
      s2.setKern id { k with next := k.next + 1, left := k.left + 1, cores := if k.cores.contains c then k.cores else k.cores ++ [c],
                             startAt := if k.cores.contains c then k.startAt else fset k.startAt c s.now,
                             first := k.first ++ new.map fun g => (c, g) }

/-- Whorls of a kernel on a core. -/
def whorlsOn (s : State) (id c : Nat) : Nat := ((s.core c).slots.filter fun e => e.2.kernel == id).length

/-- Launches on one core while it is eligible and may take more. -/
def fillCore (id c : Nat) : Nat → State → State
  | 0, s => s
  | n + 1, s =>
    match fget s.kerns id with
    | none => s
    | some k =>
      if k.next < k.nwh && eligible s k c && decide (whorlsOn s id c < k.wpc) then fillCore id c n (launchOn s id c) else s

/-- Cores of a unit's BEGIN record: the units in which the kernel had no whorl and has some now. -/
def beginRecords (before after : State) (id : Nat) (cores : List Nat) (flag : Nat) : State :=
  let units := cores.foldl (fun (l : List Nat) c => if l.any fun d => ringUnit after d == ringUnit after c then l else l ++ [c]) []
  units.foldl (fun t c =>
    let n := unitWhorls after id c
    if unitWhorls before id c = 0 ∧ n ≠ 0 then unitRecord t id c 0 (n + flag) else t) after

/-- Places one wave of a kernel on the groves in order. DEDUCED, log 44. -/
def placeWave (s : State) (id : Nat) (k : Kern) : State :=
  let gs := (kernGroves s k).filter fun g => (groveCores g).any (eligible s k)
  let order := groveOrder s (hintBytes s k.ctx k.hint.toNat k.hlog) gs
  let s1 := (order.flatMap groveCores).foldl (fun t c => fillCore id c 8 t) s
  match fget s1.kerns id with
  | none => s1
  | some k1 =>
    let st := if k1.next = k.next then k1.st else .resident
    let s2 := s1.setKern id { k1 with st := st, placedAt := if k1.st = .waiting ∧ st = .resident then s.now else k1.placedAt }
    beginRecords s { s2 with rr := fset s2.rr (classKey k.part k.cls) k.q } id k1.cores 0

/-- May the Framer place whorls for a kernel: its context runs, the device is not felled? -/
def ctxRuns (s : State) (ctx : Nat) : Bool :=
  framerRuns s && (match fget s.ctxs ctx with
    | some c => !c.stopping
    | none => false)

/-- The same, but a switch-out under way goes on while the cut is taken (Table 17.15). -/
def ctxLive (s : State) (ctx : Nat) : Bool :=
  (s.dom 77).st == .on && (match fget s.ctxs ctx with
    | some c => !c.stopping
    | none => false)

/-- PLACE_WAVE: the first kernel in class order takes the cores it can use; one that finds none but in a sleeping bay wakes it
(R308, R309, R383). -/
def execPlaceWave (kernel : Nat) (s : State) : Host.Outcome State Fault Refusal :=
  .next (match fget s.kerns kernel with
    | none => s
    | some k =>
      if !ctxRuns s k.ctx || !kernReady k || k.st == .saved || k.pending.isSome then s
      else if (eligibleCores s k .running).isEmpty then
        match eligibleCores s k .asleep with
        | c :: _ => wakeBay s (groveEnt s (coreGrove c)).bay
        | [] => s
      else if othersFirst s kernel k then s
      else placeWave s kernel k)

/-! ## KERNEL -/

/-- KERNEL (R280): its whorls wait for placement. -/
def execKernel (src : CmdSrc) (s : State) : Host.Outcome State Fault Refusal :=
  .next (match takeExec s src 1 (fun _ => true) with
    | none => s
    | some (e, s1) =>
      match queueOf s1 src with
      | none => s1
      | some x =>
        if e.phase ≠ .running then s1
        else
          let id := s1.nextKern
          let r := e.rec_
          let k : Kern :=
            { src := src, q := srcQueue s1 src, seq := e.seq, ctx := x.ctx, part := x.f, cls := x.cls,
              pc := BitVec.ofNat 64 (recGet r 511 448), args := BitVec.ofNat 64 (recGet r 447 384),
              hint := BitVec.ofNat 64 (recGet r 383 320), hlog := recGet r 297 293, tlim := recGet r 319 298,
              rsafe := r.bits.getLsbD 292, tpw := recGet r 291 288 + 1, wpc := recGet r 287 285 + 1, gran := recGet r 284 279,
              nwh := recGet r 275 256 + 1, next := 0, left := 0, st := .waiting, repl := 0, chuteTaken := false, first := [],
              cores := [], charged := 0, placedAt := 0, startAt := [], readySince := s1.now, ranFor := 0, saved := [],
              savedStore := [], pending := none, endAt := 0, lastAck := 0 }
          let s2 := raiseClass s1 x.f x.cls
          setExec ({ s2 with nextKern := id + 1 }.setKern id k) src { e with kernel := id, phase := .waiting })

/-! ## Jobs (R283, R304, R305) -/

/-- Is any whorl resident on a grove? -/
def groveBusy (s : State) (g : Nat) : Bool := (groveCores g).any fun c => !(s.core c).slots.isEmpty

/-- The groves a waiting claim chooses: those it has, then free ones, then others, in placement order. -/
def chooseClaim (s : State) (q : Nat) (x : Queue) (have_ : List Nat) (want hint hlog : Nat) : List Nat :=
  let mine := (s.fn x.f).groves
  let keep := have_.filter mine.contains
  let order := groveOrder s (hintBytes s x.ctx hint hlog) (mine.filter fun g => !keep.contains g && !claimedBy s q g fun _ _ => true)
  (keep ++ order.filter (fun g => !groveBusy s g) ++ order.filter (groveBusy s)).take want

/-- JOB_BEGIN: opens a job; in whole-job mode it waits for its claim. -/
def execJobBegin (q : Nat) (s : State) : Host.Outcome State Fault Refusal :=
  .next (match takeExec s (.queue q) 7 (fun _ => true) with
    | none => s
    | some (e, s1) =>
      match fget s1.queues q with
      | none => s1
      | some x =>
        if e.phase ≠ .running then s1
        else
          let src := CmdSrc.queue q
          let n := (s1.fn x.f).groves.length
          let groves := recGet e.rec_ 410 401
          let num := BitVec.ofNat 32 (recGet e.rec_ 447 416)
          if x.job.isSome ∨ (jobMode s1 x.f ∧ n < groves) then finishExec s1 src e 1
          else if !jobMode s1 x.f then
            finishExec (s1.setQueue q { x with job := some { num := num, energy := 0, claim := [], want := 0, held := true } }) src e 0
          else
            let want := if groves = 0 then n else groves
            let claim := chooseClaim s1 q x [] want (recGet e.rec_ 511 448) (recGet e.rec_ 415 411)
            setExec (s1.setQueue q { x with job := some { num := num, energy := 0, claim := claim, want := want, held := false } })
              src { e with phase := .waiting })

/-- CLAIM_HELD: no whorl is resident on any grove of the whole claim; the JOB_BEGIN completes. -/
def execClaimHeld (q : Nat) (s : State) : Host.Outcome State Fault Refusal :=
  .next (match fget s.queues q, execOf s (.queue q) with
    | some x, some e =>
      (match x.job with
       | some j =>
         if e.typ ≠ 7 ∨ e.phase ≠ .waiting ∨ j.held ∨ !ctxRuns s x.ctx then s
         else
           let claim := chooseClaim s q x j.claim j.want (recGet e.rec_ 511 448) (recGet e.rec_ 415 411)
           let whole := decide (claim.length = j.want) && claim.all fun g => !groveBusy s g
           let s1 := s.setQueue q { x with job := some { j with claim := claim, held := whole } }
           if whole then finishExec s1 (.queue q) e 0 else s1
       | none => s)
    | _, _ => s)

/-- JOB_END: reports the job's energy; the job and its claim end when the record is written. -/
def execJobEnd (q : Nat) (s : State) : Host.Outcome State Fault Refusal :=
  .next (match takeExec s (.queue q) 8 (fun _ => true) with
    | none => s
    | some (e, s1) =>
      match fget s1.queues q with
      | none => s1
      | some x =>
        (match x.job with
         | some j =>
           if j.num.toNat = recGet e.rec_ 447 416 then finishExec s1 (.queue q) { e with energy := j.energy } 0
           else finishExec s1 (.queue q) e 1
         | none => finishExec s1 (.queue q) e 1))

end Sys2Proof.Machine
end

