-- ==== Sys2Proof/Machine/Sched.lean ====
section
/-! DEFINITION. Switching kernels (R311 to R315), time limits (R75), the end of a context's stop (R77, R287), and the division
of energy (R320). -/

namespace Sys2Proof.Machine

/-! ## Whorls of a kernel -/

/-- Every resident whorl of a kernel as (core, slot, whorl). -/
def kernWhorls (s : State) (id : Nat) : List (Nat × Nat × Whorl) :=
  s.cores.flatMap fun c => (c.2.slots.filter fun e => e.2.kernel == id).map fun e => (c.1, e.1, e.2)

/-- Has a whorl a request that has not come back? -/
def whorlBusy (s : State) (core slot : Nat) : Bool := s.mem.reqs.any (readOpen ⟨core, slot⟩)

/-- Removes a kernel's whorls from their slots, and their watches; replies on their way find no whorl. -/
def removeWhorls (s : State) (id : Nat) : State :=
  let ws := kernWhorls s id
  let gone := fun (c sl : Nat) => ws.any fun w => w.1 == c && w.2.1 == sl
  let s0 := orphan s gone
  let s1 := s0.setMem { s0.mem with watches := s0.mem.watches.filter fun x => !gone x.2.1 x.2.2.1 }
  { s1 with cores := s1.cores.map fun c => (c.1, { c.2 with slots := c.2.slots.filter fun e => e.2.kernel != id }) }

/-- END records of a kernel in every unit where it has whorls (Table 18.5). -/
def endRecords (s : State) (id flag : Nat) : State :=
  let cores := ((kernWhorls s id).map (·.1)).foldl
    (fun (l : List Nat) c => if l.any fun d => ringUnit s d == ringUnit s c then l else l ++ [c]) []
  cores.foldl (fun t c => unitRecord t id c 1 flag) s

/-- Returns granules of a context on a core to the free pool, to be zeroed (R156). -/
def freeGranules (s : State) (core ctx : Nat) (p : Nat → Bool) : State :=
  let x := s.core core
  let gone := (ctxGranules x ctx).filter p
  if gone.isEmpty then s
  else s.setCore core { x with granules := x.granules.filter fun e => !(e.2 == ctx && p e.1),
                               zeroing := gone.foldl insAsc x.zeroing }

/-! ## Switching out (R311 to R315) -/

/-- The quantum in ns (OD 0x7020:01). -/
def quantum (s : State) : Nat := 1000 * odNat s 0x7020 1

/-- What one whorl adds to L_c: its live v registers and tiles (R315). -/
def whorlBytes (w : Whorl) : Nat :=
  4 * w.liveV.length * (lanesOf (unionLanes w.paths)).length + 256 * (countTo 4 fun t => w.liveT.getLsbD t)

/-- Sum of L_c over the cores of a kernel (R315). -/
def kernBytes (s : State) (id ctx : Nat) : Nat :=
  let ws := kernWhorls s id
  let cores := ws.foldl (fun l w => addNew l w.1) []
  ws.foldl (fun n w => n + whorlBytes w.2.2) 0 +
    cores.foldl (fun n c => n + 4096 * (ctxGranules (s.core c) ctx).length) 0

/-- Bytes that a saved kernel takes of its partition's save area. -/
def savedBytes (k : Kern) : Nat :=
  k.saved.foldl (fun n w => n + whorlBytes w.whorl) 0 + k.savedStore.foldl (fun n x => n + x.2.2.length) 0

/-- The size of a partition's save area (R314). -/
def saveArea (s : State) (f : Nat) : Nat :=
  if odNat s (0x6010 + f) 11 = 1 then 0x100000 * (s.fn f).units.length else 0x100000 * odNat s (0x6010 + f) 13

/-- Has a kernel room in its save area (R311)? -/
def saveRoom (s : State) (id : Nat) (k : Kern) : Bool :=
  let used := (s.kerns.filter fun e => e.2.part == k.part && e.1 != id).foldl
    (fun n e => n + (if e.2.st == .saving then kernBytes s e.1 e.2.ctx else savedBytes e.2)) 0
  decide (used + kernBytes s id k.ctx ≤ saveArea s k.part)

/-- Have the cores a saved kernel left room for it: slots, and the same granules free or its context's? -/
def restoreFits (s : State) (k : Kern) : Bool :=
  (k.saved.all fun w =>
    let x := s.core w.core
    coreUsed s w.core && !x.failed && bayUp s (groveEnt s (coreGrove w.core)).bay && (s.dom (coreDomain s w.core)).st != .off &&
    decide ((k.saved.filter fun v => v.core == w.core).length + x.slots.length ≤ 8)) &&
  k.savedStore.all fun g => match fget (s.core g.1).granules g.2.1 with
    | none => !(s.core g.1).zeroing.contains g.2.1
    | some c => c == k.ctx

/-- Has a command of a lower virtual time waited for a quantum with none of its whorls placed: before its first wave, or switched
out, where the kernel is on one of its cores (R311)? DEDUCED, log 104. -/
def starved (s : State) (k : Kern) : Bool :=
  (liveKerns s k.part).any fun o => decide (o.2.readySince + quantum s ≤ s.now) && lowerV s k.part o.2.cls k.cls &&
    ((o.2.st == .waiting && o.2.next == 0 && (eligibleCores s o.2 .running).isEmpty) ||
     (o.2.st == .saved && !restoreFits s o.2 && o.2.saved.any fun w => k.cores.contains w.core))

/-- Does a claim that has waited for a quantum want a grove of the kernel (R304)? -/
def claimWants (s : State) (k : Kern) : Bool :=
  s.queues.any fun e => e.2.f == k.part && (match e.2.job, e.2.exec with
    | some j, some x => !j.held && x.phase == .waiting && decide (x.began.toNat + quantum s ≤ s.now) &&
        k.cores.any fun c => j.claim.contains (coreGrove c)
    | _, _ => false)

/-- May a resident kernel be switched out (R305, R311)? DEDUCED, log 104. -/
def mayEvict (s : State) (id : Nat) (k : Kern) : Bool :=
  k.st == .resident && decide (k.placedAt + quantum s ≤ s.now) && saveRoom s id k && ctxRuns s k.ctx &&
  (if jobMode s k.part then (openJob s k.q).isNone && (starved s k || claimWants s k) else starved s k)

/-- Is there a kernel to take before this one: of a class with a higher virtual time, or resident longer (R311)? -/
def betterVictim (s : State) (id : Nat) (k : Kern) : Bool :=
  (liveKerns s k.part).any fun o => o.1 != id && mayEvict s o.1 o.2 &&
    (lowerV s k.part k.cls o.2.cls || (!lowerV s k.part o.2.cls k.cls && decide (o.2.placedAt < k.placedAt)))

/-- Holds the watchdogs of a kernel's open collectives: `opened` keeps the time that has run (R60, R313). DEDUCED, log 47. -/
def holdColls (s : State) (id : Nat) : State :=
  mapWhorls s (fun w => w.kernel == id) fun w => { w with colls := w.colls.map fun c => { c with opened := s.now - c.opened } }

/-- Lets them run on from where they stopped. DEDUCED, log 47. -/
def runColls (s : State) (id : Nat) : State :=
  mapWhorls s (fun w => w.kernel == id) fun w => { w with colls := w.colls.map fun c => { c with opened := s.now - c.opened } }

/-- SWITCH_OUT: the kernel's whorls stop, and their save begins. -/
def execSwitchOut (kernel : Nat) (s : State) : Host.Outcome State Fault Refusal :=
  .next (match fget s.kerns kernel with
    | none => s
    | some k =>
      if mayEvict s kernel k && !betterVictim s kernel k then
        holdColls (s.setKern kernel { k with st := .saving, ranFor := k.ranFor + (s.now - k.placedAt) }) kernel
      else s)

/-- Does another kernel of the context keep a core? DEDUCED, log 42. -/
def ctxStays (s : State) (id ctx core : Nat) : Bool :=
  (s.core core).slots.any fun e => e.2.kernel != id && whorlCtx s e.2 == ctx

/-- SWITCH_OUT_DONE: registers, paths, tiles, granules are saved, and the generator state stays with the context (R148); the cores are free (R312). DEDUCED, log 42. -/
def execSwitchOutDone (kernel : Nat) (s : State) : Host.Outcome State Fault Refusal :=
  .next (match fget s.kerns kernel with
    | none => s
    | some k =>
      let ws := kernWhorls s kernel
      if k.st ≠ .saving ∨ !ctxLive s k.ctx ∨ ws.any (fun w => whorlBusy s w.1 w.2.1) then s
      else
        let cores := ws.foldl (fun l w => addNew l w.1) []
        let leaving := cores.filter fun c => !ctxStays s kernel k.ctx c
        let store := leaving.flatMap fun c => (ctxGranules (s.core c) k.ctx).map fun g =>
          (c, g, mread s.mem.store (storeAddr c (4096 * g)) 4096)
        let s1 := removeWhorls (endRecords s kernel (2 ^ 31)) kernel
        let s2 := leaving.foldl (fun t c => freeGranules t c k.ctx fun _ => true) s1
        let s3 := raiseClass s2 k.part k.cls
        odAdd (s3.setKern kernel { k with st := .saved, saved := ws.map (fun w => { core := w.1, slot := w.2.1, whorl := w.2.2 }),
                                          savedStore := store, readySince := s.now }) (0x7100 + k.cls) 3 1)

/-! ## Restoring (R313) -/

/-- Puts one saved whorl back: into its own slot if that is free, else the lowest free one. DEDUCED, log 42. -/
def restoreWhorl (s : State) (w : Saved) : State :=
  let x := s.core w.core
  let slot := if (fget x.slots w.slot).isNone then w.slot else (lowestFree x.slots 8).getD w.slot
  l1Clear (wakeDomain (s.setCore w.core { x with slots := fset x.slots slot w.whorl }) (coreDomain s w.core)) w.core

/-- Puts back one granule's bytes. DEDUCED, log 42. -/
def restoreGranule (ctx : Nat) (s : State) (g : Nat × Nat × List Byte) : State :=
  let x := s.core g.1
  storeWrite (s.setCore g.1 { x with granules := fset x.granules g.2.1 ctx })
    (storeAddr g.1 (4096 * g.2.1)) g.2.2 false

/-- RESTORE: a saved kernel that is first in class order goes back onto its cores. -/
def execRestore (kernel : Nat) (s : State) : Host.Outcome State Fault Refusal :=
  .next (match fget s.kerns kernel with
    | none => s
    | some k =>
      let before := (liveKerns s k.part).any fun o => o.1 != kernel && kernReady o.2 && comesBefore s o (kernel, k) &&
        (o.2.st == .saved || !(eligibleCores s o.2 .running).isEmpty)
      if k.st ≠ .saved ∨ !ctxRuns s k.ctx ∨ !restoreFits s k ∨ before then s
      else
        let s1 := k.savedStore.foldl (restoreGranule k.ctx) (k.saved.foldl restoreWhorl s)
        let s3 := s1.setKern kernel { k with st := .restoring, saved := [], savedStore := [] }
        beginRecords s { s3 with rr := fset s3.rr (classKey k.part k.cls) k.q } kernel (k.saved.map (·.core)) (2 ^ 31))

/-- RESTORE_DONE: the whorls issue again; every pending WAIT returns code 2 (R313). -/
def execRestoreDone (kernel : Nat) (s : State) : Host.Outcome State Fault Refusal :=
  .next (match fget s.kerns kernel with
    | none => s
    | some k =>
      if k.st ≠ .restoring ∨ !ctxRuns s k.ctx then s
      else
        let s1 := runColls (s.setKern kernel { k with st := .resident, placedAt := s.now }) kernel
        (kernWhorls s1 kernel).foldl (fun t w => w.2.2.paths.foldl (fun u p => finishWait u ⟨w.1, w.2.1⟩ p.pid 2) t) s1)

/-! ## The time limit (R75) -/

/-- A kernel's limit in ns; none for no limit. -/
def kernLimit (s : State) (k : Kern) : Option Nat :=
  let ms := if k.tlim = 0 then odNat s 0x4020 2 else k.tlim
  if ms = 0 then none else some (1000000 * ms)

/-- KERNEL_TIME_LIMIT: a kernel resident beyond its limit kills its context with WATCHDOG. The spec names no instruction for
this fault: PC and LANES are free values. -/
def execKernelTimeLimit (kernel : Nat) (s : State) : Host.Outcome State Fault Refusal :=
  .next (match fget s.kerns kernel with
    | none => s
    | some k =>
      match kernLimit s k, kernWhorls s kernel with
      | some lim, w :: _ =>
        if k.st = .resident ∧ k.pending.isNone ∧ !s.felled ∧ lim ≤ k.ranFor + (s.now - k.placedAt) then
          let (pc, s1) := s.draw
          let (lanes, s2) := s1.draw
          faultContext s2 k.ctx w.1 w.2.1 k.q k.seq pc
            { code := 7, lanes := BitVec.ofNat 16 lanes.toNat, kind := 0, addr := 0, other := 0 }
        else s
      | _, _ => s)

/-! ## The end of a stop (R77, R287) -/

/-- Has everything that the context's whorls issued come about? -/
def ctxQuiet (s : State) (ctx : Nat) : Bool := !(s.mem.reqs.any fun r => r.ctx == ctx && (reqCore r).isSome)

/-- The record of a queue's executing command, with CONTEXT_FAULT (R287). DEDUCED, log 18. -/
def faultedRecord (fault : Nat) (s : State) (q : Nat) : State :=
  match execOf s (.queue q), fget s.queues q with
  | some e, some x =>
    let e1 := { e with status := 5, fault := fault, metTime := s.mod.time }
    let s1 := framerRecord s (.queue q) e1 1 s.now
    let r := cmdRecord e (recordBits e1 q 0 s.now)
    let (put, s3) := putRecord s1 q r
    let s2 := if put then s3 else match fget s3.queues q with
      | some y => s3.setQueue q { y with shadow := y.shadow ++ [r], drainDue := true }
      | none => s3
    match fget s2.queues q with
    | some y => s2.setQueue q { y with exec := none, job := none, st := x.st }
    | none => s2
  | _, some x => s.setQueue q { x with job := none }
  | _, _ => s

/-- Removes what the cores hold of a context: whorls, granules, generator states (R77). -/
def clearCores (s : State) (ctx : Nat) : State :=
  let ids := (s.kerns.filter fun e => e.2.ctx == ctx).map (·.1)
  let s1 := ids.foldl (fun t id => removeWhorls (endRecords t id 0) id) s
  let s2 := s1.cores.foldl (fun t c => freeGranules t c.1 ctx fun _ => true) s1
  let s3 := match fget s2.ctxs ctx with
    | some c => s2.setCtx ctx { c with gens := [] }
    | none => s2
  { s3 with kerns := s3.kerns.filter fun e => e.2.ctx != ctx }

/-- Ends the launches of a context's queues. -/
def clearLaunches (s : State) (ctx : Nat) : State :=
  (s.launches.filter fun l => ((fget s.queues l.2.q).map (·.ctx)) == some ctx).foldl (fun t l =>
    retireFree (pinVersion { t with launches := fdel t.launches l.1 } l.2.graph l.2.version (· - 1)) l.2.graph) s

/-- A request for a flush whose command has gone. -/
def dropFlush (p : CmdSrc → Bool) : Option CmdSrc → Option CmdSrc
  | some src => if p src then none else some src
  | none => none

/-- A chute's pending flush no longer completes the commands that satisfy a test. -/
def dropFlushes (s : State) (p : CmdSrc → Bool) : State :=
  let f := fun (c : Nat × Chute) => (c.1, { c.2 with flush := c.2.flush.map (dropFlush p) })
  { s with chutes := s.chutes.map f }

/-- Is a command of a context's queue? -/
def srcOfCtx (s : State) (ctx : Nat) (src : CmdSrc) : Bool := ((queueOf s src).map (·.ctx)) == some ctx

/-- Removes a destroyed context, its queues and its graphs (R268, Table 10.3, R310). -/
def removeCtx (s : State) (ctx : Nat) : State :=
  tlbDrop { s with ctxs := fdel s.ctxs ctx, queues := s.queues.filter fun e => e.2.ctx != ctx,
                   graphs := s.graphs.filter fun e => e.2.ctx != ctx,
                   rets := s.rets.filter fun x => x.1 != ctx, resid := s.resid.filter fun r => r.ctx != ctx }
    fun c _ => c == ctx

/-- The stop of a context is complete. -/
def finishStop (s : State) (ctx : Nat) : State :=
  match fget s.ctxs ctx with
  | none => s
  | some c =>
    let s0 := dropFlushes s (srcOfCtx s ctx)
    let s1 := s0.setCtx ctx { c with stopTime := s.mod.time, stopping := false }
    let s2 := if c.dying then s1
      else ((s1.queues.filter fun e => e.2.ctx == ctx).map (·.1)).foldl (faultedRecord c.fault) s1
    let s3 := dropAnswered (clearCores (clearLaunches s2 ctx) ctx) ctx
    if c.dying then removeCtx s3 ctx else s3

/-- CONTEXT_STOP_DONE (R287). -/
def execContextStopDone (ctx : Nat) (s : State) : Host.Outcome State Fault Refusal :=
  .next (match fget s.ctxs ctx with
    | none => s
    | some c => if c.stopping ∧ ctxQuiet s ctx then finishStop s ctx else s)

/-! ## Energy (R320) -/

/-- Adds nJ to a µJ counter of the dictionary; what is below 1 µJ is carried under a key. -/
def addMicro (s : State) (key idx sub nj : Nat) : State :=
  let t := fgetD s.power.carry key 0 + nj
  odAdd { s with power := { s.power with carry := fset s.power.carry key (t % 1000) } } idx sub (t / 1000)

/-- Unattributed energy (OD 0x7020:05). -/
def addUnattributed (s : State) (nj : Nat) : State := addMicro s 1000 0x7020 5 nj

/-- Charges a command, and its class where its queue has a job open (R320). -/
def chargeCmd (s : State) (src : CmdSrc) (cls nj : Nat) : State :=
  let s1 := match execOf s src with
    | some e => setExec s src { e with energy := e.energy + nj }
    | none => s
  addMicro s1 (2000 + cls) (0x7100 + cls) 4 nj

/-- Core-steps charged since the last division on domains that satisfy a test, by kernel. -/
def stepsOn (s : State) (p : Nat → Bool) : FMap Nat :=
  s.power.steps.foldl (fun m e => if p (e.1 / 2 ^ 32) then bump m (e.1 % 2 ^ 32) e.2 else m) []

/-- Splits nJ among the kernels that were charged steps; what does not divide is carried (R320). DEDUCED, log 41. -/
def splitEnergy (s : State) (key nj : Nat) (steps : FMap Nat) : State :=
  let total := steps.foldl (fun n e => n + e.2) 0
  if total = 0 then addUnattributed s nj
  else
    let pool := nj + fgetD s.power.carry key 0
    let used := steps.foldl (fun n e => n + pool * e.2 / total) 0
    let s1 := { s with power := { s.power with carry := fset s.power.carry key (pool - used) } }
    steps.foldl (fun t e => match fget t.kerns e.1 with
      | some k => chargeCmd t k.src k.cls (pool * e.2 / total)
      | none => addUnattributed t (pool * e.2 / total)) s1

/-- Divides one domain's increment (R320). DEDUCED, log 41. -/
def divideDomain (facts : EnergyFacts) (s : State) (d nj : Nat) : State :=
  let s1 := odAdd s 0x3400 (d + 1) nj
  if 76 ≤ d then
    let share := if d = 77 then min nj (facts.dmaShare.foldl (fun n e => n + e.2) 0) else 0
    addUnattributed s1 (nj - share)
  else if d % 19 < 16 then
    let passes := facts.fillers.foldl (fun n e => if e.1 = d then n + e.2 else n) 0
    let filler := min nj (passes * fgetD s.flash.fillerFj d 0 / 1000000)
    splitEnergy (addUnattributed s1 filler) d (nj - filler) (stepsOn s fun x => x == d)
  else splitEnergy s1 d nj (stepsOn s fun x => x / 19 == d / 19)

/-- The shares of COPY and FILL commands in domain 77. -/
def divideDma (s : State) (src : CmdSrc) (nj : Nat) : State :=
  match queueOf s src with
  | some x => chargeCmd s src x.cls nj
  | none => addUnattributed s nj

/-- ENERGY_ATTRIBUTION: the Framer reads the energy counters and divides the increments (R320, R394). -/
def execEnergyAttribution (facts : EnergyFacts) (s : State) : Host.Outcome State Fault Refusal :=
  .next (
    let s1 := odAdd s 0x3000 10 facts.input
    let s2 := facts.domains.foldl (fun t e => if e.1 < 80 ∧ (t.dom e.1).st ≠ .off then divideDomain facts t e.1 e.2 else t) s1
    let s3 := facts.dmaShare.foldl (fun t e => divideDma t e.1 e.2) s2
    { s3 with power := { s3.power with steps := [] } })

end Sys2Proof.Machine
end

