-- ==== Sys2Proof/Machine/Admin.lean ====
section
/-! DEFINITION. The ADMIN operations of a function's control page (R267 to R270, R289 to R293, Table 10.3). -/

namespace Sys2Proof.Machine

/-! ## Descriptors -/

/-- A descriptor as it was read: its 512 bits; refused; or its read waits. -/
inductive DescRead where
  | bits (n : Nat) (s : State)
  | bad (s : State)
  | wait (s : State)

/-- Reads the 64 B descriptor at a physical address: host memory, or the function's memory share (R267, R268). -/
def readDesc (s : State) (f pa : Nat) (hw : List Host.Cell) : DescRead :=
  if regionOf pa = .host then
    (if outsideOpen s f pa then
      match engineRead s .framer 4096 f true pa 64 0 hw with
      | .data b p bad s1 => if p || bad != 0 then .bad s1 else .bits (leNat b) s1
      | .wait s1 => .wait s1
     else .bad s)
  else if regionOf pa = .dram ∧ inShare s f pa 64 ∧ pa + 64 ≤ usableSize s then
    (match engineRead s .framer 4096 f true pa 64 0 hw with
     | .data b p bad s1 => if p || bad != 0 then .bad s1 else .bits (leNat b) s1
     | .wait s1 => .wait s1)
  else .bad s

/-- What an operation comes to: a code and a number; or it waits for a read. -/
inductive AdminRes where
  | done (code num : Nat) (s : State)
  | wait (s : State)

/-- A write to ADMIN (R268): discarded and counted while an operation runs; otherwise the operation runs, and its result
waits for ADMIN_OPERATION_DONE. OD 0x6010 + f:14 counts
the operations accepted (Table 15.9), those that end with code 0 (DEDUCED). DEDUCED, log 36, 37. -/
def adminOp (s : State) (f : Nat) (op : State → AdminRes) : State :=
  if !(s.fn f).adminDone then odAdd s 0x7000 5 1
  else if !girtRuns s then s
  else match op s with
    | .wait s1 => s1
    | .done code num s1 =>
      (if code = 0 then odAdd s1 (0x6010 + f) 0x14 1 else s1).setFn f { s1.fn f with adminDone := false, adminCode := BitVec.ofNat 32 code, adminNum := num % 65536 }

/-- An operation that takes a descriptor. -/
def withDesc (s : State) (f addr z : Nat) (hw : List Host.Cell) (go : State → Nat → AdminRes) : AdminRes :=
  if z ≠ 0 then .done 0x02000090 0 s
  else match readDesc s f (64 * addr) hw with
    | .bad _ => .done 0x02000090 0 s
    | .wait s1 => .wait s1
    | .bits n s1 => go s1 n

/-- An operation that takes none, on something of the function's own. -/
def onOwn (s : State) (addr z : Nat) (own : Bool) (go : State → AdminRes) : AdminRes :=
  if z ≠ 0 ∨ addr ≠ 0 then .done 0x02000090 0 s else if own then go s else .done 0x02000091 0 s

/-- Is a context the function's own, and not being destroyed? -/
def ownCtx (s : State) (f c : Nat) : Bool :=
  match fget s.ctxs c with
  | some x => x.f == f && !x.dying
  | none => false

def ownQueue (s : State) (f q : Nat) : Bool :=
  match fget s.queues q with
  | some x => x.f == f && ownCtx s f x.ctx
  | none => false

def ownGraph (s : State) (f g : Nat) : Bool :=
  match fget s.graphs g with
  | some x => x.f == f && ownCtx s f x.ctx
  | none => false

/-! ## Contexts (R269) -/

def ctxDescOk (n : Nat) : Bool := bits n 447 384 % 64 == 0 && bits n 383 320 % 4096 == 0 && bits n 299 0 == 0

def newCtx (f n : Nat) : Ctx :=
  { f := f, seed := BitVec.ofNat 64 (bits n 511 448), frec := BitVec.ofNat 64 (bits n 447 384),
    ptroot := BitVec.ofNat 64 (bits n 383 320), pasid := BitVec.ofNat 20 (bits n 319 300), fault := 0, faultPa := 0, frec_ := 0, frecDue := false, frecCore := 0, gens := [], more := 0,
    stopping := false, dying := false, stopTime := 0#64, resv := 0 }

/-- An abort code whose cause the spec does not state: a free value of the classes 01 to 07 (R17). DEDUCED, log 59. -/
def refusalCode (w : W64) : Nat := (1 + w.toNat / 2 ^ 24 % 7) * 2 ^ 24 + w.toNat % 2 ^ 24

/-- CTX_CREATE. Outside SERVICE and TEST it is refused (Table 00.3), with a code the spec does not state. DEDUCED, log 59. -/
def execCtxCreate (f : Nat) (arg : BitVec 12) (addr : BitVec 42) (z : BitVec 6) (hw : List Host.Cell) (s : State) :
    Host.Outcome State Fault Refusal :=
  .next (adminOp s f fun t =>
    if t.mod.op ≠ .service ∧ t.mod.op ≠ .test then
      let (w, t1) := t.draw
      .done (refusalCode w) 0 t1
    else if arg ≠ 0#12 then .done 0x02000090 0 t
    else withDesc t f addr.toNat z.toNat hw fun t1 n =>
      if !ctxDescOk n then .done 0x02000090 0 t
      else match lowestFree t1.ctxs 4096 with
        | none => .done 0x06000093 0 t
        | some id =>
          if odNat t1 (0x6010 + f) 14 ≤ (t1.ctxs.filter fun e => e.2.f == f).length then .done 0x06000093 0 t
          else .done 0 id (t1.setCtx id (newCtx f n)))

/-- CTX_DESTROY: the context's kernels stop; it goes with its queues and graphs once they have (Table 10.3). -/
def destroyCtx (s : State) (ctx : Nat) : State :=
  let s1 := stopContext s ctx
  match fget s1.ctxs ctx with
  | none => s1
  | some c =>
    let s2 := s1.setCtx ctx { c with dying := true }
    if ctxQuiet s2 ctx then finishStop s2 ctx else s2

def execCtxDestroy (f : Nat) (arg : BitVec 12) (addr : BitVec 42) (z : BitVec 6) (s : State) : Host.Outcome State Fault Refusal :=
  .next (adminOp s f fun t =>
    onOwn t addr.toNat z.toNat (ownCtx t f arg.toNat) fun t1 => .done 0 0 (destroyCtx t1 arg.toNat))

/-! ## Queues (R270, Table 10.7) -/

def queueDescOk (s : State) (f n : Nat) : Bool :=
  let vecs := odNat s (0x6010 + f) 15
  bits n 511 448 % 4096 == 0 && bits n 447 384 % 4096 == 0 && bits n 383 320 % 8 == 0 && bits n 303 298 == 0 &&
  decide (6 ≤ bits n 291 287) && decide (bits n 291 287 ≤ 16) && decide (6 ≤ bits n 286 282) && decide (bits n 286 282 ≤ 16) &&
  decide (bits n 281 271 < vecs) && decide (bits n 270 260 < vecs) && bits n 259 0 == 0

def newQueue (f n : Nat) : Queue :=
  { ctx := bits n 319 304, f := f, ring := BitVec.ofNat 64 (bits n 511 448), cring := BitVec.ofNat 64 (bits n 447 384),
    headwb := BitVec.ofNat 64 (bits n 383 320), cls := bits n 297 292, rlog := bits n 291 287, clog := bits n 286 282,
    cvec := bits n 281 271, evec := bits n 270 260, st := .ready, paused := false, head := 0#32, tail := 0#32, chead := 0#32,
    fetched := 0#32, released := 0, indLeft := 0, indAddr := 0#64, written := 0, shadow := [], seq := 0, ahead := [],
    exec := none, job := none, recs := [], drainDue := false, headDue := false, heads := [],
    prior := [], bells := [] }

/-- Q_CREATE. -/
def execQCreate (f : Nat) (arg : BitVec 12) (addr : BitVec 42) (z : BitVec 6) (hw : List Host.Cell) (s : State) :
    Host.Outcome State Fault Refusal :=
  .next (adminOp s f fun t =>
    if arg ≠ 0#12 then .done 0x02000090 0 t
    else withDesc t f addr.toNat z.toNat hw fun t1 n =>
      if !queueDescOk t1 f n then .done 0x02000090 0 t
      else if !ownCtx t1 f (bits n 319 304) then .done 0x02000091 0 t
      else match lowestFree t1.queues 4096 with
        | none => .done 0x06000092 0 t
        | some q =>
          if odNat t1 (0x6010 + f) 4 ≤ (t1.queues.filter fun e => e.2.f == f).length then .done 0x06000092 0 t
          else .done 0 q (t1.setQueue q (newQueue f n)))

/-- Q_DESTROY. -/
def execQDestroy (f : Nat) (arg : BitVec 12) (addr : BitVec 42) (z : BitVec 6) (s : State) : Host.Outcome State Fault Refusal :=
  .next (adminOp s f fun t =>
    onOwn t addr.toNat z.toNat (ownQueue t f arg.toNat) fun t1 =>
      match fget t1.queues arg.toNat with
      | some x => if x.busy then .done 0x03000094 0 t1 else .done 0 0 { t1 with queues := fdel t1.queues arg.toNat }
      | none => .done 0x02000091 0 t1)

/-- A change of a queue's state that is legal from one state only. -/
def fromState (s : State) (q : Nat) (st : QSt) (go : State → Queue → State) : AdminRes :=
  match fget s.queues q with
  | some x => if x.st = st then .done 0 0 (go s x) else .done 0x03000094 0 s
  | none => .done 0x02000091 0 s

/-- Q_PAUSE. -/
def execQPause (f : Nat) (arg : BitVec 12) (addr : BitVec 42) (z : BitVec 6) (s : State) : Host.Outcome State Fault Refusal :=
  .next (adminOp s f fun t =>
    onOwn t addr.toNat z.toNat (ownQueue t f arg.toNat) fun t1 =>
      fromState t1 arg.toNat .ready fun u x => u.setQueue arg.toNat { x with st := .paused, paused := true })

/-- Q_START. -/
def execQStart (f : Nat) (arg : BitVec 12) (addr : BitVec 42) (z : BitVec 6) (s : State) : Host.Outcome State Fault Refusal :=
  .next (adminOp s f fun t =>
    onOwn t addr.toNat z.toNat (ownQueue t f arg.toNat) fun t1 =>
      fromState t1 arg.toNat .paused fun u x =>
        startInvalid (u.setQueue arg.toNat { x with st := .ready, paused := false }) arg.toNat)

/-- Q_RESUME. -/
def execQResume (f : Nat) (arg : BitVec 12) (addr : BitVec 42) (z : BitVec 6) (s : State) : Host.Outcome State Fault Refusal :=
  .next (adminOp s f fun t =>
    onOwn t addr.toNat z.toNat (ownQueue t f arg.toNat) fun t1 =>
      fromState t1 arg.toNat .stalled fun u _ => queueResume u arg.toNat)

/-! ## Graphs (R289 to R293) -/

def graphDescOk (n : Nat) : Bool :=
  bits n 511 448 % 64 == 0 && bits n 447 384 % 4 == 0 && bits n 383 320 % 4 == 0 && bits n 319 256 % 8 == 0 &&
  decide (1 ≤ bits n 239 223) && decide (bits n 239 223 ≤ 65536) && decide (bits n 222 204 ≤ 262144) && bits n 203 0 == 0

/-- Do the arrays translate to DRAM or LLC scratch (R289)? DEDUCED, log 103. -/
def graphPlacesOk (s : State) (ctx n : Nat) : Bool :=
  let nn := bits n 239 223
  let ne := bits n 222 204
  inDramOrScratch s ctx .read (bits n 511 448) (64 * nn) && (ne == 0 || inDramOrScratch s ctx .read (bits n 447 384) (4 * ne)) &&
  inDramOrScratch s ctx .write (bits n 383 320) (4 * (nn + 1))

/-- The walks of the arrays' pages wait for an entry from its home. -/
def graphPlacesAsk (s : State) (ctx n : Nat) : Option State :=
  let nn := bits n 239 223
  (pagesAsk s ctx (bits n 511 448) (64 * nn)).orElse fun _ =>
    (pagesAsk s ctx (bits n 447 384) (4 * bits n 222 204)).orElse fun _ => pagesAsk s ctx (bits n 383 320) (4 * (nn + 1))

def newVersion (n num : Nat) : Version :=
  { num := num, nodes := BitVec.ofNat 64 (bits n 511 448), edges := BitVec.ofNat 64 (bits n 447 384),
    idx := BitVec.ofNat 64 (bits n 383 320), ret := BitVec.ofNat 64 (bits n 319 256), nn := bits n 239 223, ne := bits n 222 204,
    pins := 0, current := true }

/-- Writes bytes at virtual addresses that are known to be mapped, piece after piece. -/
def writeVirt (ctx : Nat) : Nat → State → Nat → List Byte → State
  | 0, s, _, _ => s
  | n + 1, s, va, b =>
    if b.isEmpty then s
    else match translate s ctx .write va 1 with
      | (.ok pa, s1) =>
        let k := min b.length (pieceRoom pa)
        writeVirt ctx n (postWrite s1 .framer ctx pa (b.take k) false).2 (va + k) (b.drop k)
      | (_, s1) => s1

/-- Reads and checks a graph's arrays and writes its index; `go` takes the state and the new version's bits (R291). DEDUCED, log 103. -/
def buildGraph (s : State) (f ctx n : Nat) (go : State → AdminRes) : AdminRes :=
  let nn := bits n 239 223
  let ne := bits n 222 204
  match framerRead s ctx f (bits n 511 448) (64 * nn) [] with
  | .wait s1 => .wait s1
  | .refused _ => .done 0x02000097 0 s
  | .data nb p bad s1 =>
    match (if ne = 0 then VRead.data [] false 0 s1 else framerRead s1 ctx f (bits n 447 384) (4 * ne) []) with
    | .wait s2 => .wait s2
    | .refused _ => .done 0x02000097 0 s
    | .data eb p2 bad2 s2 =>
      let edges := (splitRecords ne 4 eb).map edgeOf
      if p || p2 || bad != 0 || bad2 != 0 || !graphOk nn (splitRecords nn 64 nb) edges then .done 0x02000097 0 s
      else
        let idx := graphIndex nn edges
        go (writeVirt ctx idx.length s2 (bits n 383 320) idx)

/-- GRAPH_CREATE: version 1 of a new graph. -/
def execGraphCreate (f : Nat) (arg : BitVec 12) (addr : BitVec 42) (z : BitVec 6) (hw : List Host.Cell) (s : State) :
    Host.Outcome State Fault Refusal :=
  .next (adminOp s f fun t =>
    if arg ≠ 0#12 then .done 0x02000090 0 t
    else withDesc t f addr.toNat z.toNat hw fun t1 n =>
      let ctx := bits n 255 240
      if !graphDescOk n then .done 0x02000090 0 t
      else if !ownCtx t1 f ctx then .done 0x02000091 0 t
      else match graphPlacesAsk t1 ctx n with
      | some t2 => .wait t2
      | none =>
      if !graphPlacesOk t1 ctx n then .done 0x02000090 0 t
      else match lowestFree t1.graphs 1024 with
        | none => .done 0x06000095 0 t
        | some g =>
          buildGraph t1 f ctx n fun t2 => .done 0 g (setGraph t2 g { f := f, ctx := ctx, versions := [newVersion n 1], last := 1 }))

/-- GRAPH_PATCH: a new CURRENT version; the one before retires unless a launch pins it (R293). -/
def execGraphPatch (f : Nat) (arg : BitVec 12) (addr : BitVec 42) (z : BitVec 6) (hw : List Host.Cell) (s : State) :
    Host.Outcome State Fault Refusal :=
  .next (adminOp s f fun t =>
    if !ownGraph t f arg.toNat then .done 0x02000091 0 t
    else withDesc t f addr.toNat z.toNat hw fun t1 n =>
      match fget t1.graphs arg.toNat with
      | none => .done 0x02000091 0 t
      | some g =>
        let ctx := bits n 255 240
        if !graphDescOk n then .done 0x02000090 0 t
        else if !ownCtx t1 f ctx then .done 0x02000091 0 t
        else if ctx ≠ g.ctx then .done 0x02000097 0 t
        else match graphPlacesAsk t1 ctx n with
        | some t2 => .wait t2
        | none =>
        if !graphPlacesOk t1 ctx n then .done 0x02000090 0 t
        else if 4 ≤ (g.versions.filter fun v => v.pins != 0).length then .done 0x03000096 0 t
        else
          buildGraph t1 f ctx n fun t2 =>
            let num := g.last + 1
            let old := g.versions.map fun v => { v with current := false }
            .done 0 num (retireFree (setGraph t2 arg.toNat { g with versions := old ++ [newVersion n num], last := num }) arg.toNat))

/-- GRAPH_DESTROY: the CURRENT version retires, and the graph goes. -/
def execGraphDestroy (f : Nat) (arg : BitVec 12) (addr : BitVec 42) (z : BitVec 6) (s : State) : Host.Outcome State Fault Refusal :=
  .next (adminOp s f fun t =>
    onOwn t addr.toNat z.toNat (ownGraph t f arg.toNat) fun t1 =>
      if t1.launches.any fun l => l.2.graph == arg.toNat then .done 0x03000098 0 t1
      else match fget t1.graphs arg.toNat with
        | none => .done 0x02000091 0 t1
        | some g =>
          let s1 := retireFree (setGraph t1 arg.toNat { g with versions := g.versions.map fun v => { v with current := false } }) arg.toNat
          .done 0 0 { s1 with graphs := fdel s1.graphs arg.toNat })

/-- Is the function's operation still under way: a context it destroys has not stopped, or its index writes are open (R291)?
DEDUCED, log 37. -/
def adminBusy (s : State) (f : Nat) : Bool :=
  (s.ctxs.any fun e => e.2.f == f && e.2.dying) ||
  s.mem.reqs.any fun r => r.agent == .framer && isWriteKind r.kind && (ctxFn s r.ctx) == some f && (r.region == .dram || r.region == .scratch)

/-- ADMIN_OPERATION_DONE: DONE reads 1 with the operation's code and number (Table 10.2). DEDUCED, log 37. -/
def execAdminOperationDone (f : Nat) (s : State) : Host.Outcome State Fault Refusal :=
  .next (if (s.fn f).adminDone || adminBusy s f then s else s.setFn f { s.fn f with adminDone := true })

end Sys2Proof.Machine
end

