-- ==== Sys2Proof/Machine/BayLoss.lean ====
section
/-! DEFINITION. What the loss, the fence and the return of a bay do to homes, copies, stores and scratch (R210, R239 to R243,
R456), and the start of a fell (R459). -/

namespace Sys2Proof.Machine

/-! ## The global stop begins -/

/-- A fell starts, or joins the one under way (R459). -/
def startFell (s : State) (reason source : Nat) : State :=
  if s.fell.st = 1 ∨ s.fell.st = 2 then s
  else { s with fell := { s.fell with st := 1, reason := BitVec.ofNat 16 reason, source := source, trig := s.mod.time } }

/-! ## Lines of a bay -/

/-- Is a line served by a bay: its own lines, and those it is the substitute home of? -/
def servedBy (s : State) (n line : Nat) : Bool := sliceBay (homeSlice s line) == n

/-- Lines with an entry whose slice lies in a bay. -/
def linesIn (s : State) (n : Nat) : List Nat := (s.mem.lines.filter fun e => e.2.slice / 32 == n).map (·.1)

/-- The lowest-numbered bay that runs, other than one (R210). -/
def substituteFor (s : State) (n : Nat) : Option Nat := (List.range 4).find? fun b => b != n && bayUp s b

/-- Under bay parity every bay that is away, and not asleep, has its substitute; a home that begins so knows of no entry (R210, R242). -/
def setSubstitutes (s : State) : State :=
  if parityMode s ≠ 2 then s
  else
    let away := (List.range 4).filter fun b =>
      (s.bay b).st == .resetting || (s.bay b).st == .returning || (fget s.mem.subst b).isSome
    let m := away.foldl (fun (m : FMap Nat) b =>
      match fget s.mem.subst b with
      | some x => if bayUp s x then m else (match substituteFor s b with
        | some y => fset m b y
        | none => m)
      | none => (match substituteFor s b with
        | some y => fset m b y
        | none => m)) s.mem.subst
    s.setMem { s.mem with subst := m,
                          sure := s.mem.sure.filter fun l => let b := chanBay (servingSlot s l).1; fget m b == fget s.mem.subst b }

/-- A line leaves without its data: near copies, entry and DIRTY bytes (R241). -/
def loseLine (s : State) (line : Nat) : State :=
  let s1 := dropNear s line
  { s1 with mem := { s1.mem with llc := mzero s1.mem.llc (1024 * line) 1024, lines := fdel s1.mem.lines line } }

/-- Other homes clear the presence bits of a bay's halves; its near copies are gone, and so are those it waited for (R241). -/
def clearHalves (s : State) (n : Nat) : State :=
  let mask := ~~~(bitN 12 (2 * n) ||| bitN 12 (2 * n + 1))
  let ours := fun (r : HomeReq) => match r.kind with
    | .nc x _ => x / 2 == n
    | _ => false
  let m := s.mem
  s.setMem { m with near := m.near.filter fun x => x.half / 2 != n,
                    held := m.held.filter fun r => !ours r,
                    miss := m.miss.map fun x => { x with waiters := x.waiters.filter fun r => !ours r },
                    lines := m.lines.map fun e => (e.1, { e.2 with pres := e.2.pres &&& mask }.settled) }

/-- The open transactions of a bay's slices end; their requests wait for the substitute, or meet an unavailable home. -/
def endMisses (s : State) (n : Nat) (wait : Bool) : State :=
  let gone := s.mem.miss.filter fun m => m.slice / 32 == n
  let s1 := s.setMem { s.mem with miss := s.mem.miss.filter fun m => m.slice / 32 != n }
  (gone.flatMap (·.waiters)).foldl (fun t r => if wait then parkReq t r else homeGone t r) s1

/-- A line in M at a rafter die is recalled by its new home, at once where it has room (R241). DESIGN CHOICE, log 72. -/
def recallOrphan (s : State) (line : Nat) : State :=
  if (fget s.mem.orphans line).isNone || (missOf s line).isSome then s
  else if mustHold s (recallAsk line) then (if lineCalled s line then s else holdReq s (recallAsk line))
  else enterHome s (recallAsk line)

/-- The abrupt loss of a bay's homes (R241): marks become poison, copies are dropped, or recalled by the substitute, transactions end. -/
def loseHomes (s : State) (n : Nat) : State :=
  let ls := linesIn s n
  let bands := s.mem.lines.foldl (fun acc e =>
    if e.2.slice / 32 = n ∧ (e.2.hasDirty ∨ e.2.extOwned) then insAsc acc (lineBand s e.1) else acc) []
  let s1 := clearHalves (ls.foldl loseLine s) n
  let m := s1.mem
  let s2 := s1.setMem { m with
    poisBands := bands.foldl insAsc m.poisBands,
    covered := m.covered.filter fun k => !bands.contains (lineBand s (k / 4)),
    sure := m.sure.filter fun l => !servedBy s n l,
    stripes := m.stripes.filter fun x => chanBay x.channel != n }
  let s3 := setSubstitutes (s2.setBay n { s2.bay n with marked := bands.foldl insAsc (s2.bay n).marked })
  let owned := if (fget s3.mem.subst n).isNone then []
    else s.mem.lines.filter fun e => e.2.slice / 32 == n && e.2.extOwned && e.2.own != 8
  let s4 := endMisses s3 n (fget s3.mem.subst n).isSome
  let s5 := s4.setMem { s4.mem with orphans := owned.foldl (fun f e => fset f e.1 e.2.own) s4.mem.orphans }
  (owned.map (·.1)).foldl recallOrphan s5

/-! ## Order 3: the fence -/

/-- Does a watched word lie in a bay? -/
def watchIn (s : State) (n : Nat) (i : WaitInfo) : Bool :=
  match i.at_ with
  | .slice m => sliceBay m == n
  | .store c => (groveEnt s (coreGrove c)).bay == n
  | _ => false

/-- Watches return code 2, scratch contents are lost (R67, R178, R456). -/
def fenceBay (s : State) (n : Nat) : State :=
  let s1 := loseWaits s (watchIn s n)
  let out := fun (pa : Nat) => sliceBay (scratchSlice pa) != n
  let m := s1.mem
  s1.setMem { m with scratch := m.scratch.filter fun c => out c.1,
                     wordPois := m.wordPois.filter fun w => regionOf (4 * w) != .scratch || out (4 * w) }

/-! ## The orderly drain (R239) -/

/-- Writes back a line and drops it, or recalls its external copies first, when a register is free for that (R224). -/
def drainLine (s : State) (line : Nat) : State :=
  if (missOf s line).isSome then s
  else match s.line? line with
    | none => s
    | some e =>
      if e.hasExt then (if freeMiss s e.slice then openEvict s e.slice line [] else s)
      else if e.ovf then s.dropLine line
      else evictLine s line

/-- One pass of the drain over a list of lines. -/
def drainLines (s : State) (ls : List Nat) : State := ls.foldl drainLine s

/-- Has a bay no home line and no open transaction left? -/
def bayDrained (s : State) (n : Nat) : Bool := (linesIn s n).isEmpty && !(s.mem.miss.any fun m => m.slice / 32 == n)

/-- An orderly reset of a bay goes on: its controller has confirmed, its halves drain, and when they have it fences (R239). -/
def drainReset (s : State) (n : Nat) : State :=
  let s1 := drainLines (s.setBay n { s.bay n with confirmed := true }) (linesIn s n)
  if bayDrained s1 n then setSubstitutes (fenceBay (clearHalves (s1.setBay n { s1.bay n with draining := false }) n) n) else s1

/-- As device time passes, orderly resets drain that nobody has declared unconfirmed at the end of the 100 µs: the drain starts with the
first token after it. DESIGN CHOICE, log 71. -/
def drainResets (s : State) : State :=
  (List.range 4).foldl (fun t n =>
    let b := t.bay n
    if b.st = .resetting ∧ b.draining ∧ b.since + 100064 ≤ t.now then drainReset t n else t) s

end Sys2Proof.Machine
end

