-- ==== Sys2Proof/Machine/Recovery.lean ====
section
/-! DEFINITION. Replay and kill (R316 to R319), sparing and shrinking (R24, R25, R449 to R453), and the reset of one bay (R455 to
R457). -/

namespace Sys2Proof.Machine

/-! ## Replay and kill -/

/-- Has a kernel's claim lost every grove, with no successor (R317)? DEDUCED, log 70. -/
def claimGone (s : State) (k : Kern) (lost : List Nat) : Bool :=
  jobMode s k.part && (match openJob s k.q, fget s.queues k.q with
    | some j, some x => j.held && ((s.fn k.part).groves.all fun g => lost.contains g || !j.claim.contains g) &&
        !(x.ahead.any fun r => recGet r 7 4 == 7)
    | _, _ => false)

/-- May a kernel be replayed after the loss of cores (R316): all that failed, whether a whorl of it was there or not? -/
def mayReplay (s : State) (k : Kern) (cores lost : List Nat) : Bool :=
  k.rsafe && !k.chuteTaken && decide (k.repl < odNat s 0x7020 2) && !claimGone s k lost &&
  (cores.all fun c => (ctxGranules (s.core c) k.ctx).all fun g => k.first.contains (c, g)) &&
  k.savedStore.all fun g => !cores.contains g.1 || k.first.contains (g.1, g.2.1)

/-- Does a kernel hold whorls on some of these cores, or wait to be restored onto them? -/
def kernHit (s : State) (id : Nat) (k : Kern) (cores : List Nat) : Bool :=
  (k.saved.any fun w => cores.contains w.core) || ((kernWhorls s id).any fun w => cores.contains w.1)

/-- Zeroes the granules a kernel was first given on cores that work (R317 item 3); one that another kernel of the context
still uses stays allocated. DEDUCED, log 70. -/
def resetGranules (id ctx : Nat) (s : State) (x : Nat × Nat) : State :=
  if fget (s.core x.1).granules x.2 ≠ some ctx then s
  else if ctxStays s id ctx x.1 then { s with mem := { s.mem with store := mzero s.mem.store (storeAddr x.1 (4096 * x.2)) 4096 } }
  else freeGranules s x.1 ctx fun g => g == x.2

/-- A kernel is replayed (R317). -/
def replayKern (s : State) (id : Nat) (k : Kern) : State :=
  let s0 := logEvent s 0x0013 k.ctx k.seq k.q
  let open_ := (s0.mem.reqs.filter fun r => isWriteKind r.kind && r.ctx == k.ctx && (match reqCore r with
    | some c => k.cores.contains c
    | none => false)).map (·.id)
  let s1 := removeWhorls (endRecords s0 id 0) id
  let s2 := k.first.foldl (resetGranules id k.ctx) s1
  let key := classKey k.part k.cls
  let s3 := odAdd (odAdd (odAdd s2 (0x7100 + k.cls) 5 k.charged) 0x7020 4 k.charged) 0x7020 3 1
  let s4 := odPutNat { s3 with classC := fset s3.classC key (fgetD s3.classC key 0 - k.charged) } (0x7100 + k.cls) 2
    (odNat s3 (0x7100 + k.cls) 2 - k.charged)
  let s6 := raiseClass (s4.setKern id { k with st := .ended }) k.part k.cls
  let s5 := s6.setKern id { k with next := 0, left := 0, st := .waiting, repl := k.repl + 1, chuteTaken := false, first := [],
                                   cores := [], charged := 0, placedAt := 0, startAt := [], readySince := s4.now, ranFor := 0, saved := [],
                                   savedStore := [], pending := none, endAt := 0, lastAck := 0 }
  match execOf s5 k.src with
  | some e => setExec s5 k.src { e with repl := e.repl + 1, writes := e.writes ++ open_.filter fun i => !e.writes.contains i }
  | none => s5

/-- A kernel that cannot be replayed kills its context with CORE_LOST (R318). DEDUCED, log 70. -/
def killKern (s : State) (id : Nat) (k : Kern) (core : Nat) : State :=
  let slot := match (kernWhorls s id).find? (fun w => w.1 == core) with
    | some w => w.2.1
    | none => 0
  faultContext (logEvent s 0x0014 k.ctx k.seq k.q) k.ctx core slot k.q k.seq 0#64
    { code := 8, lanes := 0#16, kind := 0, addr := 0, other := 0 }

/-- Has a context a fault that stands (R319)? -/
def ctxFaulted (s : State) (ctx : Nat) : Bool :=
  match fget s.ctxs ctx with
  | some c => c.stopping || c.fault != 0
  | none => true

/-- What a loss of cores does to one kernel: replay, kill, or, while the device is felled, a note for the resume. The note holds
the lowest lost core and whether replay is allowed. -/
def strikeKern (failed cores lost : List Nat) (s : State) (x : Nat × Kern) : State :=
  if ctxFaulted s x.2.ctx then s
  else
    let ok := mayReplay s x.2 failed lost
    let core := cores.headD 0
    if s.felled then
      let (c0, ok0) := match x.2.pending with
        | some p => (min core (p / 2), ok && p % 2 == 1)
        | none => (core, ok)
      s.setKern x.1 { x.2 with pending := some (2 * c0 + (if ok0 then 1 else 0)) }
    else if ok then replayKern s x.1 x.2 else killKern s x.1 x.2 core

/-- Every kernel that loses cores is replayed or killed (R449). Cores ascend. -/
def strike (s : State) (cores lost : List Nat) : State :=
  let hit := s.kerns.filter fun e => e.2.st != .ended && kernHit s e.1 e.2 cores
  hit.foldl (fun t e => match fget t.kerns e.1 with
    | some k => strikeKern cores (cores.filter fun c => kernHit t e.1 k [c]) lost t (e.1, k)
    | none => t) s

/-- At a resume, the replays and kills that waited take place (R319). DEDUCED, log 69. -/
def strikePending (s : State) : State :=
  (s.kerns.filter fun e => e.2.pending.isSome).foldl (fun t e =>
    match fget t.kerns e.1 with
    | none => t
    | some k =>
      match k.pending with
      | none => t
      | some p =>
        let t1 := t.setKern e.1 { k with pending := none }
        if ctxFaulted t1 k.ctx then t1
        else if p % 2 = 1 then replayKern t1 e.1 { k with pending := none } else killKern t1 e.1 { k with pending := none } (p / 2)) s

/-- Cores whose state is lost: whorls, watches, stores, granules; replies on their way find nothing. -/
def blankCores (s : State) (cores : List Nat) : State :=
  let gone := fun (pa : Nat) => regionOf pa == .store && cores.contains (storeCore pa)
  let s0 := orphan s fun c _ => cores.contains c
  let m := s0.mem
  let s1 := s0.setMem { m with
    watches := m.watches.filter fun x => !cores.contains x.2.1,
    icFill := m.icFill.filter fun e => !cores.contains (16 * e.1),
    store := m.store.filter fun c => !gone c.1,
    wordPois := m.wordPois.filter fun w => !gone (4 * w) }
  { s1 with cores := s1.cores.map fun c => (c.1, if cores.contains c.1 then { Core.blank with failed := c.2.failed } else c.2) }

/-- The generator states that lost cores held go with them (R148). -/
def loseGens (s : State) (cores : List Nat) : State :=
  { s with ctxs := s.ctxs.map fun e => (e.1, { e.2 with gens := e.2.gens.filter fun g => !cores.contains g.1 }) }

/-- Cores that have failed or are stopped by a bay reset: their state is lost, the generator states too. -/
def loseCores (s : State) (cores : List Nat) : State := loseGens (blankCores s cores) cores

/-! ## Sparing -/

/-- Place of a physical grove: column and row. -/
def physCol (p : Nat) : Nat := p % 208 / 13
def physRow (p : Nat) : Nat := p % 208 % 13

/-- The nearest spare of a grove's bay: column plus row distance, then the lower column, then the lower row (R24). -/
def nearestSpare (s : State) (e : GroveEnt) : Option Nat :=
  let dist := fun (p : Nat) => absDiff (physCol p) e.col + absDiff (physRow p) e.row
  (spares s e.bay).foldl (fun (b : Option Nat) p =>
    match b with
    | none => some p
    | some x => if dist p < dist x then some p else some x) none

/-- A logical grove leaves its function's list (R451). -/
def leaveLists (s : State) (gs : List Nat) : State :=
  { s with fns := s.fns.map fun e => (e.1, { e.2 with groves := e.2.groves.filter fun g => !gs.contains g }) }

def bitCount (w : BitVec 16) : Nat := countTo 16 fun i => w.getLsbD i

/-- A grove is lost (R451). DEDUCED, log 69. -/
def loseGrove (s : State) (g : Nat) (e : GroveEnt) : State :=
  let s1 := { s with groves := fset s.groves g { e with removed := 0xFFFF#16, lost := true },
                     deadGroves := insAsc s.deadGroves (physGrove e.bay e.col e.row) }
  let s2 := leaveLists s1 [g]
  logEvent (writeSpareMap (bumpGeneration s2)) 0x0004 g 0 (workingGroves s2 e.bay + flashBit s2)

/-- One grove with failed cores: replaced by a spare, shrunk, or lost (R24, R450, R451). DEDUCED, log 69. -/
def spareGrove (cores : List Nat) (s : State) (g : Nat) : State :=
  let e := groveEnt s g
  let mine := cores.filter fun c => coreGrove c == g
  if e.lost then s
  else match nearestSpare s e with
    | some p =>
      let col := physCol p
      let row := physRow p
      let s1 := { s with groves := fset s.groves g { bay := e.bay, col := col, row := row, removed := 0#16, lost := false },
                         deadGroves := insAsc s.deadGroves (physGrove e.bay e.col e.row) }
      logEvent (writeSpareMap (bumpGeneration s1)) 0x0002 g 0 (e.bay + 4 * col + 64 * row + flashBit s1)
    | none =>
      if mine.length = 16 then loseGrove s g e
      else
        let one := fun (t : State) (c : Nat) =>
          let x := groveEnt t g
          if x.removed.getLsbD (c % 16) then t
          else
            let y := { x with removed := x.removed ||| bitN 16 (c % 16) }
            let t1 := { t with groves := fset t.groves g y }
            logEvent (writeSpareMap (bumpGeneration t1)) 0x0003 c 0 (16 - bitCount y.removed + flashBit t1)
        let s1 := mine.foldl one s
        let e1 := groveEnt s1 g
        if 16 - bitCount e1.removed < 12 then loseGrove s1 g e1 else s1

/-- The cores that the sparing of failed cores strikes: whole groves where a spare takes over or the grove is lost. DEDUCED, log 69. -/
def struckBy (before after : State) (cores : List Nat) : List Nat :=
  (List.range 12288).filter fun c =>
    cores.contains c ||
      ((cores.any fun x => coreGrove x == coreGrove c) && coreUsed before c &&
        (let a := groveEnt before (coreGrove c)
         let b := groveEnt after (coreGrove c)
         b.lost || a.col != b.col || a.row != b.row))

/-- Groves named by cores, ascending. -/
def grovesOf (cores : List Nat) : List Nat := cores.foldl (fun l c => insAsc l (coreGrove c)) []

/-! ## The retirement of a bay (R452) -/

/-- The operating state after a retirement: SERVICE gives way to RECOVERY, and a START ends in RECOVERY. -/
def afterRetirement (s : State) : State :=
  match s.mod.op with
  | .service => { s with mod := { s.mod with op := .recovery } }
  | .start => { s with mod := { s.mod with wasShort := true } }
  | _ => s

def bayCores (n : Nat) : List Nat := (List.range 3072).map fun i => 3072 * n + i

/-- The logical groves that lie in a compute domain. -/
def domainGroves (s : State) (d : Nat) : List Nat := (List.range 768).filter fun g => !(groveEnt s g).lost && groveDomain s g == d

/-- The unused spares that lie in a compute domain. -/
def domainSpares (s : State) (d : Nat) : List Nat :=
  (spares s (d / 19)).filter fun p => placeDomain (d / 19) (physCol p) (physRow p) == d

/-- Does a compute domain hold no working core: no grove, and no spare either (R449)? -/
def domainEmpty (s : State) (d : Nat) : Bool := (domainGroves s d).isEmpty && (domainSpares s d).isEmpty

/-- Compute domains of a bay that hold no working core any more are off (R449). -/
def offEmpty (s : State) (n : Nat) : State :=
  (List.range 16).foldl (fun t d =>
    let g := 19 * n + d
    if domainEmpty t g then t.setDom g { t.dom g with st := .off } else t) s

/-- Puts the domains of a bay in a state; a compute domain without a working core stays off (R449). -/
def bayDomains (s : State) (n : Nat) (st : DomSt) : State :=
  (List.range 19).foldl (fun t d =>
    let g := 19 * n + d
    let st1 := if d < 16 ∧ domainEmpty t g then .off else st
    t.setDom g { t.dom g with st := st1, idleSince := t.now, onSteps := 0 }) s

/-- A bay that is retired under bay parity has its substitute until its lines have moved (Table 07.5, R202, R207).
DESIGN CHOICE, log 72. -/
def lendLines (s : State) (n : Nat) : State :=
  if parityMode s ≠ 2 ∨ (fget s.mem.subst n).isSome then s
  else match substituteFor s n with
    | some b => s.setMem { s.mem with subst := fset s.mem.subst n b }
    | none => s

/-- A bay is retired (R452, Table 07.5). DESIGN CHOICE, log 72. -/
def retireBay (s : State) (n : Nat) : State :=
  if (s.bay n).st = .retired then s
  else
    let working := workingGroves s n
    let s1 := loseCores (strike s (bayCores n) []) (bayCores n)
    let s2 := lendLines (s1.setBay n { s1.bay n with st := .retired, draining := false, waking := false, trigger := 0 }) n
    let s3 := bayDomains (fenceBay (loseHomes s2 n) n) n .off
    let s5 := if parityMode s3 = 2 then mapOutAll s3 ((List.range 256).map fun i => 256 * n + i) 0 else s3
    let s6 := writeSpareMap (bumpGeneration (leaveLists s5 ((List.range 192).map fun i => 192 * n + i)))
    routeChange (afterRetirement (logEvent s6 0x0008 n 0 (working + flashBit s6)))

/-- Bays that run below 160 working groves are retired (R452). -/
def retireShort (s : State) : State :=
  (List.range 4).foldl (fun t n => if bayUp t n ∧ workingGroves t n < 160 then retireBay t n else t) s

/-! ## Failures -/

/-- Cores of one detection fail together: replay or kill, then sparing in grove order (R449 to R452). -/
def failCores (s : State) (cores : List Nat) : State :=
  let gs := grovesOf cores
  let plan := gs.foldl (spareGrove cores) s
  let struck := struckBy s plan cores
  let lost := gs.filter fun g => (groveEnt plan g).lost
  let s1 := loseCores (gs.foldl (spareGrove cores) (strike s struck lost)) struck
  let fresh := fun (c : Nat × Core) => (c.1, if struck.contains c.1 then { c.2 with failed := false } else c.2)
  let s2 := { s1 with cores := s1.cores.map fresh }
  retireShort (((gs.map fun g => (groveEnt s g).bay).foldl addNew []).foldl offEmpty s2)

/-- Marks cores failed; their handling waits for the return of their bay (R457). -/
def markFailed (s : State) (cores : List Nat) : State :=
  cores.foldl (fun t c => t.setCore c { t.core c with failed := true }) s

/-- Cores in use that fail in a bay that runs or sleeps fail now; in a bay in reset they are handled at its return. -/
def failNow (s : State) (cores : List Nat) : State :=
  let used := cores.filter (coreUsed s)
  match used with
  | [] => s
  | c :: _ =>
    match (s.bay (groveEnt s (coreGrove c)).bay).st with
    | .running => failCores s used
    | .asleep => failCores s used
    | .resetting => markFailed s used
    | .returning => markFailed s used
    | _ => s

/-- CORE_FAILED (R448, Table 17.7). DESIGN CHOICE, log 46. -/
def execCoreFailed (core detector : Nat) (s : State) : Host.Outcome State Fault Refusal :=
  .next (if coreUsed s core ∧ !(s.core core).failed ∧ 1 ≤ detector ∧ detector ≤ 4 ∧ (s.dom (coreDomain s core)).st ≠ .off
    then failNow (logEvent s 0x0001 core 0 detector) [core] else s)

/-- GROVE_FAILURE: all 16 cores fail (Table 17.7). -/
def execGroveFailure (grove : Nat) (s : State) : Host.Outcome State Fault Refusal :=
  .next (if grove < 768 ∧ !(groveEnt s grove).lost then failNow s (groveCores grove) else s)

/-- DOMAIN_FAILED: the domain is turned off and its groves fail; its spares leave the count (R449, R450). -/
def execDomainFailed (domain : Nat) (s : State) : Host.Outcome State Fault Refusal :=
  .next (if 76 ≤ domain ∨ 16 ≤ domain % 19 ∨ (s.dom domain).st = .off then s
    else
      let s1 := logEvent s 0x0005 domain 0 0
      let s2 := s1.setDom domain { s1.dom domain with st := .off }
      let s3 := { s2 with deadGroves := (domainSpares s2 domain).foldl insAsc s2.deadGroves }
      failNow s3 ((domainGroves s3 domain).flatMap groveCores))

/-- RETIRE_GROVE (R25). -/
def retireGrove (n : Nat) (s : State) : OdRes :=
  if 767 < n ∨ (groveEnt s n).lost ∨ (s.bay (groveEnt s n).bay).st = .retired then .abort 0x02000010
  else
    let e := groveEnt s n
    if workingGroves s e.bay < 161 then .abort 0x03000011
    else .ok (failNow s (groveCores n)) []

def execRetireGrove (p : Port) (n : W16) (s : State) : Host.Outcome State Fault Refusal := .next (viaPort s p (retireGrove n.toNat))

/-! ## Resetting one bay (R455, R456) -/

/-- The cores of a bay stop: their kernels are replayed or killed, their stores are lost (R449, order 1). -/
def stopBayCores (s : State) (n : Nat) : State := loseCores (strike s (bayCores n) []) (bayCores n)

/-- A second bay's abrupt loss while one is away fells the device (R460). -/
def secondLoss (s : State) (n : Nat) : State :=
  if (List.range 4).any fun b => b != n && ((s.bay b).st == .resetting || (s.bay b).st == .returning || (s.bay b).st == .retired)
  then startFell s 0xFF03 4 else s

/-- An abrupt reset of a bay by a trigger (Table 17.11): R241 applies at once. A reset that was orderly so far (trigger 2) has
its reset record already (R416, R417). DESIGN CHOICE, log 71. -/
def abruptReset (s : State) (n trigger : Nat) : State :=
  let s0 := if trigger = 2 then s else recordReset s 9 n 0
  let s1 := logEvent s0 0x0006 n 0 (1 + 256 * trigger)
  let s2 := stopBayCores (s1.setBay n { s1.bay n with st := .resetting, abrupt := true, since := s1.now, draining := false,
                                                      confirmed := false, toSleep := false, waking := false, trigger := trigger }) n
  routeChange (secondLoss (fenceBay (loseHomes s2 n) n) n)

/-- Bays that can reach the girt die over joints that are not cut, through bays that run. -/
def reachesGirt (s : State) (n : Nat) : Bool :=
  let direct := fun (b : Nat) => !s.cuts.contains (4 + b)
  let ring := fun (a b : Nat) => !s.cuts.contains (ringJoint a b).1 && bayUp s b
  let fwd := [nextBay n, (n + 2) % 4, (n + 3) % 4]
  let bwd := [(n + 3) % 4, (n + 2) % 4, nextBay n]
  let along := fun (l : List Nat) =>
    (l.foldl (fun (x : Nat × Bool × Bool) b =>
      let ok := x.2.1 && ring x.1 b
      (b, ok, x.2.2 || (ok && direct b))) (n, true, false)).2.2
  direct n || along fwd || along bwd

/-- A bay that has no route left to the girt die is lost abruptly (R351). DEDUCED, log 105. -/
def loseStranded (s : State) : State :=
  let pass := fun (t : State) => (List.range 4).foldl (fun u n => if bayUp u n ∧ !reachesGirt u n then abruptReset u n 1 else u) t
  if s.cuts.isEmpty then s else pass (pass (pass s))

/-- May this agent reach the recovery registers (R442)? DEDUCED, log 79. -/
def pfAgent (s : State) (a : CtlAgent) : Bool :=
  match a with
  | .core ctx => ctxFn s ctx == some 0
  | .dma ctx => ctxFn s ctx == some 0
  | .dbg => s.dbg.opened

/-- An agent's write to control space has taken effect. DEDUCED, log 22. -/
def ctlAgentDone (s : State) (a : CtlAgent) (pa : Nat) (data : List Byte) : State :=
  match a with
  | .core ctx => ctlLaneDone s ctx pa data
  | .dma ctx => ctlLaneDone s ctx pa data
  | .dbg => s

/-- An orderly reset begins: the cores stop, and requests wait for the drain. DESIGN CHOICE, log 71. -/
def orderlyReset (s : State) (n : Nat) : State :=
  let s1 := logEvent (recordReset s 9 n 0) 0x0006 n 0 0
  routeChange (stopBayCores (s1.setBay n { s1.bay n with st := .resetting, abrupt := false, since := s1.now, draining := true,
                                                         confirmed := false, toSleep := false, waking := false, trigger := 0 }) n)

/-- A write to BAY_RESET (R455). -/
def bayResetWrite (s : State) (w : W64) : State :=
  let n := w.toNat % 4
  if 4 ≤ w.toNat ∨ (s.bay n).st ≠ .running ∨
     (List.range 4).any (fun b => b != n && ((s.bay b).st == .resetting || (s.bay b).st == .returning)) then s
  else loseStranded (orderlyReset s n)

/-- BAY_RESET. -/
def execBayReset (trigger : BayTrigger) (s : State) : Host.Outcome State Fault Refusal :=
  .next (match trigger with
    | .request a w =>
      if pfAgent s a then bayResetWrite (ctlAgentDone s a bayResetAddr (leBytes 8 w.toNat)) w else s
    | .detector n => if bayUp s n then loseStranded (abruptReset s n 1) else s)

/-- DRAIN_CONFIRM_TIMEOUT: the controller has not confirmed within 100 µs, and the reset is abrupt (R239). DESIGN CHOICE, log 71. -/
def execDrainConfirmTimeout (bay : Nat) (s : State) : Host.Outcome State Fault Refusal :=
  .next (
    let b := s.bay bay
    if b.st = .resetting ∧ b.draining ∧ !b.confirmed ∧ b.since + 100000 ≤ s.now then loseStranded (abruptReset s bay 2) else s)

/-- The marker goes into every sector of a marked band that no write has covered since the loss (R197, R243). -/
def markBand (s : State) (k : Nat) : State :=
  (List.range 1024).foldl (fun t i =>
    match lineAt t (k / 768) (1024 * (k % 768) + i) with
    | none => t
    | some line => [0, 1, 2, 3].foldl (fun u j =>
        if u.mem.covered.contains (4 * line + j) then u
        else u.setMem { u.mem with dramPois := insAsc u.mem.dramPois (4 * line + j) }) t) s

/-- The markers of a bay that returns are written, and its marks are cleared. DESIGN CHOICE, log 72. -/
def settleMarks (s : State) (n : Nat) : State :=
  let mine := fun (k : Nat) => chanBay (k / 768) == n
  let t := (s.mem.poisBands.filter mine).foldl markBand s
  t.setMem { t.mem with poisBands := t.mem.poisBands.filter fun k => !mine k,
                        covered := t.mem.covered.filter fun k => !mine (lineBand t (k / 4)) }

/-- The end of a bay's return: its halves start with no entries, its cores are eligible, its groves await a token (R243,
R41, R457). DESIGN CHOICE, log 72. -/
def finishReturn (s : State) (n : Nat) : State :=
  let b := s.bay n
  let s0 := settleMarks s n
  let m := s0.mem
  let own := fun (l : Nat) => chanBay (servingSlot s l).1 == n
  let s1 := s0.setMem { m with subst := fdel m.subst n,
                               unsure := if b.abrupt then insAsc m.unsure n else m.unsure.filter (· != n),
                               sure := m.sure.filter fun l => !own l }
  let marked := (b.marked.filter fun k => chanBay (k / 768) == n).length
  let s2 := (resetBanks s1 n).setBay n { b with st := .running, abrupt := false, draining := false, confirmed := false, bands := [], marked := [] }
  let s3 := (List.range 19).foldl (fun t d =>
    let x := t.dom (19 * n + d)
    if x.st = .off then t else t.setDom (19 * n + d) { x with st := .on, idleSince := t.now, onSteps := 0 }) s2
  let s4 := { s3 with mod := { s3.mod with groveWait := ((List.range 192).map fun i => 192 * n + i).foldl addNew s3.mod.groveWait } }
  let failed := (s4.cores.filter fun c => c.2.failed && coreBay c.1 == n && coreUsed s4 c.1).map (·.1)
  let s5 := if failed.isEmpty then s4 else failCores s4 failed
  logEvent (routeChange s5) 0x0007 n 0 marked

/-- Lines of a bay that its substitute serves. -/
def lentLines (s : State) (n : Nat) : List Nat :=
  if (fget s.mem.subst n).isNone then [] else (s.mem.lines.filter fun e => chanBay (servingSlot s e.1).1 == n).map (·.1)

/-- Lines of a bay that a rafter die still owns from before its loss. -/
def owedLines (s : State) (n : Nat) : List Nat :=
  (s.mem.orphans.filter fun e => chanBay (servingSlot s e.1).1 == n).map (·.1)

/-- BAY_RETURNED: the recorded bands are rewritten from their stripes, which leaves the bytes that the stripes give; the substitute hands
the lines back, and the bay runs (R243). While copies of its lines are still being recalled it is RETURNING. DESIGN CHOICE, log 72. -/
def execBayReturned (bay : Nat) (s : State) : Host.Outcome State Fault Refusal :=
  .next (
    let b := s.bay bay
    if b.st ≠ .returning ∧ (b.st ≠ .resetting ∨ b.draining) then s
    else
      let s0 := s.setBay bay { b with st := .returning, bands := [] }
      let s1 := (owedLines s0 bay).foldl recallOrphan s0
      let s2 := drainLines s1 (lentLines s1 bay)
      if (lentLines s2 bay).isEmpty ∧ (owedLines s2 bay).isEmpty then finishReturn s2 bay else s2)

/-- BAY_RETURN_TIMEOUT: order 5 failed, which comes after the drain, or 1 s has passed: the bay is retired (R457). -/
def execBayReturnTimeout (bay : Nat) (s : State) : Host.Outcome State Fault Refusal :=
  let b := s.bay bay
  .next (if b.st = .returning ∨ (b.st = .resetting ∧ (!b.draining ∨ b.since + 1000000000 ≤ s.now)) then retireBay s bay else s)

end Sys2Proof.Machine
end

