-- ==== Sys2Proof/Machine/Tenons.lean ====
section
/-! DEFINITION. Tenons (R347 to R353), the cut of a joint (R351), and what the directory does when a rafter die leaves it
(R357). -/

namespace Sys2Proof.Machine

/-! ## A rafter die leaves the directory -/

/-- One line of which a die held a copy: the presence bit goes; a line it owned loses its sectors to poison (R357). -/
def dieLeavesLine (n : Nat) (s : State) (line : Nat) : State :=
  match s.line? line with
  | none => s
  | some e =>
    if e.st = .m ∧ e.own = 9 + n then settleLine ((List.range 4).foldl (fun t i => poisonSector t line i) s) line false
    else freeBare (s.setLine line { e with pres := e.pres &&& ~~~(bitN 12 (9 + n)) }.settled) line

/-- A line that a die owned at a lost home, and whose entry has not been made again: its data is lost with the die. -/
def dieLeavesOrphan (s : State) (line : Nat) : State :=
  (List.range 4).foldl (fun t i => poisonSector t line i) (s.setMem { s.mem with orphans := fdel s.mem.orphans line })

/-- Die n leaves the directory without messages: its copies are dropped, transactions that wait for it go on, its own requests
that wait are dropped (R357). -/
def dieLeaves (s : State) (n : Nat) : State :=
  let ls := (s.mem.lines.filter fun e => e.2.pres.getLsbD (9 + n) || (e.2.st == .m && e.2.own == 9 + n)).map (·.1)
  let mine := fun (r : HomeReq) => r.agent == .rafter n
  let m := s.mem
  let s0 := s.setMem { m with held := m.held.filter fun r => !mine r,
                              miss := m.miss.map fun x => { x with waiters := x.waiters.filter fun r => !mine r } }
  let s1 := ((s0.mem.orphans.filter fun e => e.2 == 9 + n).map (·.1)).foldl dieLeavesOrphan (ls.foldl (dieLeavesLine n) s0)
  let waits := s1.mem.miss.filter fun x => x.snoops.any fun a => a.1 == 9 + n
  waits.foldl (fun t x => match missOf t x.line with
    | some y => snoopAnswered t y (9 + n) 0 false false
    | none => t) s1

/-- Sessions of a die that satisfy a test and are set up or open fail with a reason. -/
def failSessions (s : State) (n reason : Nat) (p : Nat → Bool) : State :=
  let ids := (s.sess.filter fun e => (e.2.st == 1 || e.2.st == 2) && sessDie s e.1 == n && p e.1).map (·.1)
  ids.foldl (fun t i => failSession t i reason) s

/-- Die n is powered down or its joint is cut: result, ports, copies and sessions go (R351, R355, R357). -/
def dieDown (s : State) (n : Nat) : State :=
  let d := s.die n
  let s1 := s.setDie n { d with result := 0, reason := 0, ident := [], trained := 0, rate := 0, cfg := 0xFF, ports := [],
                                powered := false }
  let s2 := s1.setDom (78 + n) { s1.dom (78 + n) with st := .off }
  failSessions (if d.powered then dieLeaves s2 n else s2) n 6 fun _ => true

/-! ## Removal and cut -/

/-- The unit of TENON_CHANGED. -/
def tenonUnit (j t : Nat) : Nat := 256 * j + t

/-- Logs one change of a tenon and counts it (R353). DEDUCED, log 74. -/
def tenonChanged (s : State) (j t detail : Nat) : State := odAdd (logEvent s 0x000D (tenonUnit j t) 0 detail) 0x4410 3 1

/-- A joint is cut (R351). -/
def cutJoint (s : State) (j t : Nat) : State :=
  let s1 := tenonChanged { s with cuts := insAsc s.cuts j } j t 4
  if 8 ≤ j then dieDown s1 (j - 8)
  else loseStranded s1

/-- A tenon is removed; with the last one its joint is cut; the packets kept for it go on the others (R35). DEDUCED, log 74. -/
def removeTenon (s : State) (j t : Nat) (x : Tenon) : State :=
  let s1 := tenonChanged (s.setTenon (16 * j + t) { x with width := 3, train := false }) j t 3
  routeChange (if (workingTenons s1 j).isEmpty then cutJoint s1 j t else s1)

/-- A tenon begins to retrain. DEDUCED, log 74. -/
def retrain (x : Tenon) : Tenon := { x with train := true, retr := min 0xFF (x.retr + 1) }

/-- Does a joint have this tenon, working? -/
def tenonWorks (s : State) (j t : Nat) : Bool := decide (j < 10) && (workingTenons s j).contains t

/-- LANE_REPAIR (R348, R350): a failing lane is repaired, the tenon narrows, or it is removed. -/
def laneRepair (s : State) (j t lane : Nat) (trained : Bool) : State :=
  let x0 := s.tenon (16 * j + t)
  let x := { x0 with lane := lane }
  let half := if j < 8 then 32 else 8
  let upper := decide (half ≤ lane)
  if !tenonWorks s j t ∨ 2 * half ≤ lane ∨ (x.width = 1 ∧ upper) ∨ (x.width = 2 ∧ !upper) then s
  else if j < 8 ∧ x.rep < 4 ∧ x.width = 0 then
    tenonChanged (s.setTenon (16 * j + t) (retrain { x with rep := x.rep + 1 })) j t 1
  else
    let bad := insAsc x.bad lane
    let y := { x with bad := bad }
    let lowBad := bad.any fun l => decide (l < half)
    let highBad := bad.any fun l => decide (half ≤ l)
    if x.width ≠ 0 ∨ (lowBad ∧ highBad) ∨ !trained ∨ odNat s 0x4410 2 = 1 then removeTenon s j t y
    else tenonChanged (s.setTenon (16 * j + t) (retrain { y with width := if lowBad then 2 else 1 })) j t 2

def execLaneRepair (joint tenon lane : Nat) (trained : Bool) (s : State) : Host.Outcome State Fault Refusal :=
  .next (laneRepair s joint tenon lane trained)

/-- TENON_RETRAIN (R347): the third within 1 s removes the tenon. -/
def execTenonRetrain (joint tenon : Nat) (s : State) : Host.Outcome State Fault Refusal :=
  .next (if !tenonWorks s joint tenon then s
    else
      let x := s.tenon (16 * joint + tenon)
      let recent := recentTimes s x.recent 1000000000 1
      let y := { x with recent := recent }
      if 3 ≤ recent.length then removeTenon s joint tenon y else s.setTenon (16 * joint + tenon) (retrain y))

/-- TENON_RETRAIN_DONE (R349). -/
def execTenonRetrainDone (joint tenon : Nat) (s : State) : Host.Outcome State Fault Refusal :=
  .next (let x := s.tenon (16 * joint + tenon)
    if x.train then s.setTenon (16 * joint + tenon) { x with train := false } else s)

end Sys2Proof.Machine
end

