-- ==== Sys2Proof/Machine/Rafter.lean ====
section
/-! DEFINITION. Rafter frames from peers and the transport's timers (R365 to R372), and the Ethernet ports (R357, R360). -/

namespace Sys2Proof.Machine

/-! ## What every frame brings -/

/-- The session that a frame names: known here, with this peer, die and port. -/
def frameSession (s : State) (h : RHdr) : Option Nat :=
  let n := h.dsess.toNat
  if n < 1024 ∧ sessEn s n ∧ sessPmac s n = h.smac.toNat ∧ sessPeer s n = h.ssess.toNat ∧ sessDie s n = h.die ∧
     sessPort s n = h.port then some n else none

/-- Has the header no reserved value (Table 13.11)? -/
def frameOk (h : RHdr) (subMax : Nat) : Bool :=
  h.ver == 1#4 && h.z == 0#16 && h.scope != 3#2 && decide (h.len.toNat ≤ 4096) && decide (h.sub.toNat ≤ subMax)

/-- RPSN of the peer moves on: frames it covers are no longer kept, and timeouts start anew (R367). -/
def noteRpsn (s : State) (x : Sess) (r : W32) : Sess :=
  if psnAfter r x.rxRpsn && !psnAfter r (x.tx - 1) then
    { x with rxRpsn := r, kept := x.kept.filter fun f => psnAfter f.psn r, retries := 0, lastProgress := s.now }
  else x

/-- APSN of the peer moves on: the writes it covers are applied and acknowledged there. -/
def noteApsn (s : State) (n : Nat) (a : W32) : State :=
  let x := s.session n
  if psnAfter a x.rxApsn && !psnAfter a (x.tx - 1) then
    let done := x.posted.filter fun p => !psnAfter p.1 a
    done.foldl (fun t p => finishLane t p.2.1 p.2.2 [] false false)
      (s.setSess n { x with rxApsn := a, posted := x.posted.filter fun p => psnAfter p.1 a })
  else s

/-- A frame of a known session has come in: the time, and RPSN and APSN when it is OPEN. -/
def hear (s : State) (n : Nat) (h : RHdr) : State :=
  let x := { s.session n with lastHeard := s.now }
  if x.st = 2 then pumpPeers (noteApsn (s.setSess n (noteRpsn s x h.rpsn)) n h.apsn) else s.setSess n x

/-- The answer to a frame with a reserved value or an unknown session: REFUSE reason 3 (R365). DEDUCED, log 75. -/
def refuseFrame (s : State) (h : RHdr) : State :=
  s.emit (.rafter h.dsess.toNat 4 0 0#32 0#32 0#32 (digestPrefix s) 0 0 3 0 [] false)

/-- Does the frame's port receive: the die admitted and the port up? -/
def portUp (s : State) (h : RHdr) : Bool := fget (s.die h.die).ports h.port == some 2

/-- Takes in a frame: refused, or handled for its session. DEDUCED, log 75. -/
def rxFrame (s : State) (h : RHdr) (subMax : Nat) (f : State → Nat → State) : State :=
  if !portUp s h then s
  else if !frameOk h subMax then refuseFrame s h
  else match frameSession s h with
    | none => refuseFrame s h
    | some n => f (hear s n h) n

/-! ## DATA frames -/

/-- A DATA frame already received: READ and ATOMIC are answered again from the cache (R367). DEDUCED, log 75. -/
def duplicate (s : State) (n : Nat) (i : Inbound) : State :=
  let x := s.session n
  let s1 := s.setSess n { x with unacked := x.unacked + 1 }
  if i.op = 2 ∨ i.op = 4 then
    match x.cache.find? (fun c => c.1 == i.psn.toNat) with
    | some c => sendAnswer s1 n (i.op + 1) c.2.1 0 c.2.2.1 0 c.2.2.2
    | none => s1
  else s1

/-- Sends the ACK that is due after 16 DATA frames. -/
def ackDue (s : State) (n : Nat) : State := if 16 ≤ (s.session n).unacked then sendKind s n 1 0 else s

/-- A DATA frame of an OPEN session (R367, R368, R372). -/
def rxInbound (s : State) (n : Nat) (i : Inbound) : State :=
  let x := s.session n
  if x.st ≠ 2 then s
  else if s.felled then sendKind s n 8 0
  else if i.psn = x.rpsn + 1 then
    ackDue (applyAll (s.setSess n { x with rpsn := i.psn, unacked := x.unacked + 1, inbound := x.inbound ++ [i] }) n) n
  else if psnAfter i.psn x.rpsn then sendKind s n 7 0
  else ackDue (duplicate s n i) n

/-- A DATA frame carrying one operation of Table 13.12. -/
def rxData (s : State) (h : RHdr) (op subMax : Nat) (data : List Byte) : State :=
  rxFrame s h subMax fun t n =>
    rxInbound t n { psn := h.psn, op := op, addr := h.addr, data := sliceD data 0 (if op = 2 ∨ op = 7 then 0 else h.len.toNat) 0#8,
                    len := h.len.toNat, scope := h.scope.toNat, sub := h.sub.toNat, tag := h.tag.toNat, pois := h.pois }

/-- RAFTER_WRITE (R368). -/
def execRafterWrite (h : RHdr) (data : List Byte) (s : State) : Host.Outcome State Fault Refusal := .next (rxData s h 1 31 data)
/-- RAFTER_READ (R368). -/
def execRafterRead (h : RHdr) (s : State) : Host.Outcome State Fault Refusal := .next (rxData s h 2 31 [])
/-- READ_RESP (Table 13.12). -/
def execReadResp (h : RHdr) (data : List Byte) (s : State) : Host.Outcome State Fault Refusal := .next (rxData s h 3 31 data)
/-- ATOMIC (R368): FN 0x00 to 0x0A. -/
def execAtomic (h : RHdr) (data : List Byte) (s : State) : Host.Outcome State Fault Refusal := .next (rxData s h 4 10 data)
/-- ATOMIC_RESP (Table 13.12). -/
def execAtomicResp (h : RHdr) (data : List Byte) (s : State) : Host.Outcome State Fault Refusal := .next (rxData s h 5 31 data)
/-- RAFTER_ACW (R370): FN 0x00 to 0x04. -/
def execRafterAcw (h : RHdr) (data : List Byte) (s : State) : Host.Outcome State Fault Refusal := .next (rxData s h 6 4 data)
/-- ERROR (R369). -/
def execError (h : RHdr) (s : State) : Host.Outcome State Fault Refusal := .next (rxData s h 7 31 [])

/-! ## Control frames -/

/-- Retransmits every kept frame, from RPSN + 1 (R367). -/
def retransmit (s : State) (n : Nat) : State := (s.session n).kept.foldl (fun t f => sendFrame t n f) s

/-- RAFTER_ACK: an ordinary ACK also ends what a HOLD began (R372). -/
def execRafterAck (h : RHdr) (s : State) : Host.Outcome State Fault Refusal :=
  .next (rxFrame s h 31 fun t n => t.setSess n { t.session n with held := false })

/-- RAFTER_NAK (R367). -/
def execRafterNak (h : RHdr) (s : State) : Host.Outcome State Fault Refusal :=
  .next (rxFrame s h 31 fun t n => if (t.session n).st = 2 then retransmit t n else t)

/-- HOLD (R372). -/
def execHold (h : RHdr) (s : State) : Host.Outcome State Fault Refusal :=
  .next (rxFrame s h 31 fun t n => if (t.session n).st = 2 then t.setSess n { t.session n with held := true } else t)

/-- Notes the digest prefix of the peer (Table 13.10 PDIG). -/
def notePdig (s : State) (n : Nat) (h : RHdr) : State := s.setSess n { s.session n with pdig := h.addr }

/-- A session is OPEN when both ends' SYN and SYNACK have arrived. -/
def openIfBoth (s : State) (n : Nat) : State :=
  let x := s.session n
  if x.synIn ∧ x.synackIn then s.setSess n { x with st := 2, lastProgress := s.now } else s

/-- A SYN or SYNACK whose prefix differs refuses the session (R366). -/
def digestMismatch (s : State) (n : Nat) : State := endSession (odAdd (sendKind s n 4 1) 0x1500 4 1) n 3 1

/-- SYN (Table 13.13). -/
def execSyn (h : RHdr) (s : State) : Host.Outcome State Fault Refusal :=
  .next (rxFrame s h 31 fun t0 n =>
    let t := notePdig t0 n h
    let x := t.session n
    if x.st ≠ 1 then t
    else if h.addr ≠ digestPrefix t then digestMismatch t n
    else
      let none_ := 0xFFFFFFFF#32
      openIfBoth (sendKind (t.setSess n { x with synIn := true, tx := 0#32, rpsn := none_, apsn := none_, rxRpsn := none_,
                                                 rxApsn := none_, kept := [], asked := [], posted := [], cache := [],
                                                 inbound := [], unacked := 0, retries := 0, held := false }) n 3 0) n)

/-- SYNACK (Table 13.13). -/
def execSynack (h : RHdr) (s : State) : Host.Outcome State Fault Refusal :=
  .next (rxFrame s h 31 fun t0 n =>
    let t := notePdig t0 n h
    let x := t.session n
    if x.st ≠ 1 then t
    else if h.addr ≠ digestPrefix t then digestMismatch t n
    else openIfBoth (t.setSess n { x with synackIn := true }) n)

/-- REFUSE (Table 13.13). -/
def execRefuse (h : RHdr) (s : State) : Host.Outcome State Fault Refusal :=
  .next (rxFrame s h 31 fun t0 n =>
    let t := notePdig t0 n h
    if (t.session n).st = 1 ∨ (t.session n).st = 2 then endSession t n 3 (if h.sub = 3#5 then 3 else 2) else t)

/-- CLOSE (Table 13.13). DEDUCED, log 75. -/
def execClose (h : RHdr) (s : State) : Host.Outcome State Fault Refusal :=
  .next (rxFrame s h 31 fun t0 n =>
    let t := notePdig t0 n h
    if (t.session n).st = 2 then failSession t n 2 else t)

/-- KEEPALIVE (Table 13.13). -/
def execKeepalive (h : RHdr) (s : State) : Host.Outcome State Fault Refusal :=
  .next (rxFrame s h 31 fun t0 n =>
    let t := notePdig t0 n h
    if (t.session n).st = 2 ∧ h.addr ≠ digestPrefix t then odAdd t 0x1500 4 1 else t)

/-! ## Timers -/

/-- A session is told to open: it goes to SETUP and sends its first SYN (R366). DEDUCED, log 77. -/
def openSession (s : State) (n : Nat) : State :=
  sendKind (s.setSess n { Sess.blank with st := 1, lastHeard := s.now, lastProgress := s.now }) n 2 0

/-- A session is closed: CLOSE is sent, its operations end (R366, R371). -/
def closeSession (s : State) (n : Nat) : State :=
  if (s.session n).st = 0 then s else endSession (sendKind s n 5 0) n 0 0

/-- SYN_RESEND: a SYN every 1 ms (R366). DEDUCED, log 76. -/
def execSynResend (sess : Nat) (s : State) : Host.Outcome State Fault Refusal :=
  .next (if (s.session sess).st = 1 ∧ (s.session sess).lastSent + 1000000 ≤ s.now then sendKind s sess 2 0 else s)

/-- ACK_TIMER (R367). -/
def execAckTimer (sess : Nat) (s : State) : Host.Outcome State Fault Refusal :=
  .next (let x := s.session sess
    if x.st = 2 ∧ 0 < x.unacked then sendKind s sess (if s.felled then 8 else 1) 0 else s)

/-- RETRANSMIT_TIMEOUT (R367, R372). -/
def execRetransmitTimeout (sess : Nat) (s : State) : Host.Outcome State Fault Refusal :=
  .next (
    let x := s.session sess
    if x.st ≠ 2 ∨ x.kept.isEmpty ∨ s.now < x.lastProgress + 1000 * odNat s 0x1500 1 then s
    else if x.held then retransmit (s.setSess sess { x with lastProgress := s.now }) sess
    else if odNat s 0x1500 2 ≤ x.retries + 1 then failSession s sess 4
    else retransmit (s.setSess sess { x with retries := x.retries + 1, lastProgress := s.now }) sess)

/-- The keepalive interval in ns. -/
def keepaliveNs (s : State) : Nat := 1000000 * odNat s 0x1500 3

/-- KEEPALIVE_SEND (R367). -/
def execKeepaliveSend (sess : Nat) (s : State) : Host.Outcome State Fault Refusal :=
  .next (let x := s.session sess
    if x.st = 2 ∧ x.lastSent + keepaliveNs s ≤ s.now then sendKind s sess 6 0 else s)

/-- KEEPALIVE_LOST (R367). -/
def execKeepaliveLost (sess : Nat) (s : State) : Host.Outcome State Fault Refusal :=
  .next (let x := s.session sess
    if (x.st = 1 ∨ x.st = 2) ∧ x.lastHeard + 4 * keepaliveNs s ≤ s.now then failSession s sess 5 else s)

/-! ## Ethernet ports (R357, R360) -/

/-- Ports of a configuration. -/
def portCount (cfg : Nat) : Nat := if cfg = 0 then 2 else if cfg = 1 then 4 else if cfg = 2 then 8 else 0

/-- Every port of a configuration in one state. -/
def allPorts (cfg st : Nat) : FMap Nat := (List.range (portCount cfg)).map fun p => (p, st)

/-- ETHERNET_PORT_DOWN: the port's sessions fail with reason 6. -/
def execEthernetPortDown (n port : Nat) (s : State) : Host.Outcome State Fault Refusal :=
  .next (
    let d := s.die n
    if (fget d.ports port).isNone then s
    else failSessions (s.setDie n { d with ports := fset d.ports port 0 }) n 6 fun i => sessPort s i == port)

/-- ETHERNET_PORT_UP. -/
def execEthernetPortUp (n port : Nat) (s : State) : Host.Outcome State Fault Refusal :=
  .next (
    let d := s.die n
    if (fget d.ports port).isNone ∨ !d.clock then s else s.setDie n { d with ports := fset d.ports port 2 })

/-- RAFTER_CLOCK: the die's Ethernet reference clock is lost or returns (R357). DEDUCED, log 76. -/
def execRafterClock (n : Nat) (present : Bool) (s : State) : Host.Outcome State Fault Refusal :=
  .next (
    let d := s.die n
    if d.clock = present then s
    else if !d.powered then s.setDie n { d with clock := present }
    else if present then
      logEvent (s.setDie n { d with clock := true, result := 1, ports := allPorts d.cfg 1 }) 0x000E n 0 1
    else
      odAdd (logEvent (s.setDie n { d with clock := false, result := 3, ports := allPorts d.cfg 0 }) 0x000E n 0 0) 0x4410 3 1)

end Sys2Proof.Machine
end

