-- ==== Sys2Proof/Machine/Joints.lean ====
section
/-! DEFINITION. Admission of the rafter dies (R354, R355, R361), the packets of an admitted die (R356), and the tenon test
(R358). -/

namespace Sys2Proof.Machine

/-! ## Admission -/

/-- The identity block as a number (Table 13.5). -/
def identNat (f : AdmitFacts) : Nat := leNat (sliceD f.ident 0 64 0#8)

/-- Tenons that trained. -/
def trainedCount (f : AdmitFacts) : Nat := countTo 8 fun t => f.trained.getLsbD t

/-- The step that refuses a die, if any: its reason (Table 13.4). -/
def admitRefusal (f : AdmitFacts) : Nat :=
  let v := identNat f
  if !f.refclk then 1
  else if !f.sideband then 2
  else if !f.agreed ∨ (f.rate ≠ 32 ∧ f.rate ≠ 24) then 3
  else if bits v 215 208 ≠ 2 then 4
  else if f.ident.length ≠ 64 ∨ bits v 255 240 = 0 ∨ bits v 255 240 = 0xFFFF ∨ bits v 199 192 ≠ 16 ∨ bits v 191 184 % 8 = 0 ∨
      bits v 183 0 ≠ 0 then 5
  else if trainedCount f < 4 then 6
  else if !f.streaming then 3
  else 0

/-- The configurations that an identity block offers. -/
def offers (v cfg : Nat) : Bool := decide (cfg < 3) && (bits v 191 184).testBit cfg

/-- The port configuration in use: the committed one, or the lowest one offered (R361). -/
def useConfig (s : State) (n v : Nat) : Nat :=
  let want := odNat s (0x1410 + n) 1
  if offers v want then want else ((List.range 3).find? (offers v)).getD 0

/-- The ports of a die take up the configuration: they train, and sessions without a port fail (R361). -/
def takeConfig (s : State) (n : Nat) : State :=
  let d := s.die n
  let cfg := useConfig s n (leNat d.ident)
  failSessions (s.setDie n { d with cfg := cfg, ports := allPorts cfg (if d.clock then 1 else 0) }) n 6
    fun i => decide (portCount cfg ≤ sessPort s i)

/-- ADMISSION: the steps of Table 13.4 for a die whose domain has been powered. DESIGN CHOICE, log 55. DEDUCED, log 76. -/
def execAdmission (n : Nat) (facts : AdmitFacts) (s : State) : Host.Outcome State Fault Refusal :=
  .next (
    let d := s.die n
    if 2 ≤ n ∨ d.result ≠ 0 ∨ (s.dom (78 + n)).st ≠ .on then s
    else
      let r := admitRefusal facts
      if r ≠ 0 then
        (s.setDie n { d with result := 2, reason := r, clock := facts.refclk }).setDom (78 + n)
          { s.dom (78 + n) with st := .off }
      else
        let s1 : State := (List.range 8).foldl (fun t k => t.setTenon (16 * (8 + n) + k)
          { Tenon.blank with width := if facts.trained.getLsbD k then 0 else 3 }) { s with cuts := s.cuts.filter (· != 8 + n) }
        let s2 : State := if s1.mod.op = .start then  -- blocks 11 and 12 are fixed from the end of start-up (R438)
          { s1 with trust := { s1.trust with fwdig := s1.trust.fwdig.set n (facts.ident.drop 32) } } else s1
        takeConfig (s2.setDie n { d with result := 1, reason := 0, ident := facts.ident, trained := trainedCount facts,
                                         rate := facts.rate, clock := true, powered := true }) n)

/-- READMIT (R355): powers the die down; admission follows where OD 0x1400 + n:06 allows it. DEDUCED, log 76. -/
def readmit (n : Nat) (s : State) : OdRes :=
  if 2 ≤ n then .abort 0x01000001
  else if s.mod.op = .standby then .abort 0x030000D1
  else
    let s1 := dieDown s n
    if odNat s (0x1400 + n) 6 = 1 then .ok (s1.setDom (78 + n) { s1.dom (78 + n) with st := .on, idleSince := s1.now }) []
    else .ok s1 []

def execReadmit (p : Port) (n : Nat) (s : State) : Host.Outcome State Fault Refusal :=
  .next (viaPort s p (readmit n))

/-! ## Joint packets (Tables 13.6, 13.7) -/

/-- A packet of an admitted die; one with a bit marked 0, or more than 64 units of data, is discarded and counted. -/
def rxJoint (s : State) (n : Nat) (h : JHdr) (f : State → State) : State :=
  if !(s.die n).powered then s
  else if h.z ≠ 0#21 ∨ 64 < h.len.toNat then odAdd s (0x1400 + n) 8 1
  else f s

/-- The die's answer to its request: refused, with an error of Table 17.2. -/
def jointNak (s : State) (n : Nat) (h : JHdr) (code : Nat) : State := s.emit (.joint n 0x12 h.tag.toNat code h.addr.toNat [] false)

/-- Bytes a packet names, and those it carries. -/
def jointLen (h : JHdr) : Nat := 4 * h.len.toNat
def jointData (h : JHdr) (data : List Byte) : List Byte := sliceD data 0 (jointLen h) 0#8

/-- Has the die an earlier request that has not been answered? DEDUCED, log 76. -/
def dieWaits (s : State) (n : Nat) : Bool :=
  s.mem.held.any (fun r => r.agent == .rafter n) || s.mem.miss.any fun m => m.waiters.any fun r => r.agent == .rafter n

/-- A request of a die to a line's home; one across two lines, or outside DRAM, is refused. -/
def jointHome (s : State) (n : Nat) (h : JHdr) (kind : DirReq) (len op : Nat) (data cmp : List Byte) : State :=
  let pa := h.addr.toNat
  if regionOf pa ≠ .dram ∨ len = 0 ∨ usableSize s < pa + len ∨ pa / 1024 ≠ (pa + len - 1) / 1024 ∨ inBiasTable s pa len then jointNak s n h 2
  else
    let r : HomeReq := { kind := kind, agent := .rafter n, req := 0, seq := 0, tag := h.tag.toNat, pa := pa, len := len, op := op,
                         data := data, cmp := cmp, pois := h.pois, cls := h.cls.toNat, looked := false }
    hostToHome s r fun t => jointNak t n h 9

/-- Does an address lie in a scratch unit that some partition holds (R176)? -/
def unitHeld (s : State) (pa : Nat) : Bool :=
  regionOf pa == .scratch && decide (pa - scratchBase < carvedSize s) && (unitOwner s ((pa - scratchBase) / 0x100000)).isSome

/-- A write of a die: to its home, to scratch, or into a chute (R356). -/
def jointWrite (s : State) (n : Nat) (h : JHdr) (op : Nat) (data cmp : List Byte) : State :=
  let pa := h.addr.toNat
  let len := data.length
  if h.scope ≠ 0#3 ∧ dieWaits s n then s
  else match regionOf pa with
    | .dram => if writeRefused s pa len then jointNak s n h 2 else jointHome s n h .wr len op data cmp
    | .scratch =>
      if len = 0 ∨ !unitHeld s pa ∨ !unitHeld s (pa + len - 1) then jointNak s n h 2
      else if placeAnswers s pa ≠ .up then jointNak s n h 9
      else
        let (old, q) := scratchRead s pa len
        let s1 := scratchWrite (countScratch s pa h.cls.toNat) pa (opBytes op old data cmp) (h.pois || (op != 0 && q))
        if 0 < op ∧ op < 32 then s1.emit (.joint n 0x10 h.tag.toNat 0 pa old q)
        else s1.emit (.joint n 0x11 h.tag.toNat 0 pa [] false)
    | .chute =>
      if op ≠ 0 then jointNak s n h 2
      else if chuteBusy s pa then s
      else (chuteSpaceWrite s pa (some (.rafter n)) data).emit (.joint n 0x11 h.tag.toNat 0 pa [] false)
    | _ => jointNak s n h 2

/-- RDS. -/
def execRds (n : Nat) (h : JHdr) (s : State) : Host.Outcome State Fault Refusal :=
  .next (rxJoint s n h fun t => jointHome t n h (.xs n) (jointLen h) 0 [] [])

/-- RDO. -/
def execRdo (n : Nat) (h : JHdr) (s : State) : Host.Outcome State Fault Refusal :=
  .next (rxJoint s n h fun t => jointHome t n h (.xa n) (jointLen h) 0 [] [])

/-- RDN: scratch may be read too. -/
def execRdn (n : Nat) (h : JHdr) (s : State) : Host.Outcome State Fault Refusal :=
  .next (rxJoint s n h fun t =>
    let pa := h.addr.toNat
    let len := jointLen h
    if len ≠ 0 ∧ unitHeld t pa ∧ unitHeld t (pa + len - 1) then
      if placeAnswers t pa ≠ .up then jointNak t n h 9
      else let (b, q) := scratchRead t pa len; (countScratch t pa h.cls.toNat).emit (.joint n 0x10 h.tag.toNat 0 pa b q)
    else jointHome t n h .nr len 0 [] [])

/-- JOINT_WR. -/
def execJointWr (n : Nat) (h : JHdr) (data : List Byte) (s : State) : Host.Outcome State Fault Refusal :=
  .next (rxJoint s n h fun t => jointWrite t n h 0 (jointData h data) [])

/-- ATM: an operand of 4 or 8 B, aligned; for CAS (FN 9) the compare value follows. -/
def execAtm (n : Nat) (h : JHdr) (data : List Byte) (s : State) : Host.Outcome State Fault Refusal :=
  .next (rxJoint s n h fun t =>
    let fn := h.sub.toNat
    let size := if fn = 9 then jointLen h / 2 else jointLen h
    let d := jointData h data
    if 10 < fn ∨ (size ≠ 4 ∧ size ≠ 8) ∨ h.addr.toNat % size ≠ 0 then jointNak t n h 1
    else jointWrite t n h (1 + fn) (d.take size) (d.drop size))

/-- JOINT_ACW: FN 0x00 to 0x04 on words (R370). -/
def execJointAcw (n : Nat) (h : JHdr) (data : List Byte) (s : State) : Host.Outcome State Fault Refusal :=
  .next (rxJoint s n h fun t =>
    if 4 < h.sub.toNat ∨ h.addr.toNat % 4 ≠ 0 then jointNak t n h 1
    else jointWrite t n h (32 + h.sub.toNat) (jointData h data) [])

/-- An answer of a die to a request of this device to one of its peer windows, found by TAG and address. DEDUCED, log 76. -/
def jointAnswer (s : State) (n : Nat) (h : JHdr) (got : List Byte) (err : Bool) : State :=
  let mine := fun (r : Req) (l : LaneAcc) => l.sent && !l.done && l.pa == h.addr.toNat && regionOf l.pa == .peer &&
    (match windowSession s (reqFn s r) l.pa with
     | some i => sessDie s i == n
     | none => false)
  match s.mem.reqs.find? (fun r => r.id % 1024 == h.tag.toNat && r.lanes.any (mine r)) with
  | none => s
  | some r =>
    match r.lanes.find? (mine r) with
    | some l => finishLane s r.id l.lane got (h.pois || err) err
    | none => s

/-- DATA (joint). -/
def execData (n : Nat) (h : JHdr) (data : List Byte) (s : State) : Host.Outcome State Fault Refusal :=
  .next (rxJoint s n h fun t => jointAnswer t n h (jointData h data) false)

/-- ACK (joint). -/
def execAck (n : Nat) (h : JHdr) (s : State) : Host.Outcome State Fault Refusal := .next (rxJoint s n h fun t => jointAnswer t n h [] false)

/-- NAK (joint). -/
def execNak (n : Nat) (h : JHdr) (s : State) : Host.Outcome State Fault Refusal := .next (rxJoint s n h fun t => jointAnswer t n h [] true)

/-- Data of a copy that the die held dirty reaches the home. -/
def dirtyBack (s : State) (n : Nat) (h : JHdr) (data : List Byte) : State :=
  match s.line? (h.addr.toNat / 1024) with
  | some e => if data.isEmpty ∨ e.st ≠ .m ∨ e.own ≠ 9 + n then s else homeStore s h.addr.toNat data h.pois
  | none => s

/-- SRSP: the answer to a snoop; the die gives the line up (R226, R356). DEDUCED, log 76. -/
def execSrsp (n : Nat) (h : JHdr) (data : List Byte) (s : State) : Host.Outcome State Fault Refusal :=
  .next (rxJoint s n h fun t =>
    let line := h.addr.toNat / 1024
    match missOf t line with
    | none => t
    | some m =>
      if m.snoops.contains (9 + n, 0) then
        let t1 := dirtyBack t n h (jointData h data)
        let t2 := match t1.line? line with
          | some e => t1.setLine line { e with pres := e.pres &&& ~~~(bitN 12 (9 + n)) }
          | none => t1
        snoopAnswered t2 m (9 + n) 0 false false
      else t)

/-- EVN: the die has evicted a line; its presence bit goes (R221). -/
def execEvn (n : Nat) (h : JHdr) (data : List Byte) (s : State) : Host.Outcome State Fault Refusal :=
  .next (rxJoint s n h fun t =>
    let line := h.addr.toNat / 1024
    let t1 := dirtyBack t n h (jointData h data)
    match t1.line? line with
    | none => t1
    | some e =>
      let e1 := { e with pres := e.pres &&& ~~~(bitN 12 (9 + n)) }
      if e.st = .m ∧ e.own = 9 + n then settleLine t1 line false else freeBare (t1.setLine line e1.settled) line)

/-! ## The tenon test (R358) -/

/-- Lanes that the test of a joint reports. -/
def testLanes (j : Nat) : Nat := if j < 4 then 16 * 68 else if j < 8 then 8 * 68 else 8 * 16

/-- TENON_TEST_START: a write of 1 to OD 0xB010:04. -/
def tenonTestStart (s : State) : OdRes :=
  if s.mod.op ≠ .test then .abort 0x030000D2
  else if odNat s 0xB010 2 = 0 then odOk s
  else odOk { s with test := { s.test with running := true, joint := odNat s 0xB010 1 } }

def execTenonTestStart (p : Port) (s : State) : Host.Outcome State Fault Refusal := .next (viaPort s p tenonTestStart)

/-- TENON_TEST_END: the joint retrains as at start-up. DEDUCED, log 74. -/
def execTenonTestEnd (errors : List W16) (s : State) : Host.Outcome State Fault Refusal :=
  .next (if !s.test.running then s
    else
      let j := s.test.joint
      let s1 := { s with test := { s.test with running := false, errors := sliceD errors 0 (testLanes j) 0#16 } }
      if 8 ≤ j ∧ !(s1.die (j - 8)).powered then s1
      else (List.range (if j < 4 then 16 else 8)).foldl (fun t k => t.setTenon (16 * j + k) Tenon.blank)
        { s1 with cuts := s1.cuts.filter (· != j) })

end Sys2Proof.Machine
end

