-- ==== Sys2Proof/Machine/Power.lean ====
section
/-! DEFINITION. The power manager (R379 to R396): issue limits, voltage points, gating, bays asleep, and the thermal responses
(R211, R393). -/

namespace Sys2Proof.Machine

/-! ## Domains -/

/-- Is a domain a compute domain (R26)? -/
def isCompute (g : Nat) : Bool := decide (g < 76) && decide (g % 19 < 16)

def computeDomains : List Nat := (List.range 76).filter isCompute

/-- Is a point of a domain's table usable (R377)? -/
def usablePoint (s : State) (g p : Nat) : Bool :=
  match fget s.flash.points (8 * g + p) with
  | some x => x.1 != 0
  | none => true

/-- The highest usable point not above a bound (R389). -/
def bestPoint (s : State) (g bound : Nat) : Nat :=
  ((List.range (min bound 7 + 1)).filter (usablePoint s g)).foldl (fun _ p => p) 0

/-- Does a thermal response hold the issue limit of a bay's domains? -/
def stackHot (s : State) (n : Nat) : Bool := (List.range 8).any fun k => fgetD s.power.rows (8 * n + k) 0 == 3
def bayHot (s : State) (n : Nat) : Bool := (fgetD s.power.hot n 0).testBit 1

/-- Lowers the limit of a domain, for a reason; the limit is kept less 1, never below 3 (R388). -/
def lowerTo (s : State) (g lim reason : Nat) : State :=
  let d := s.dom g
  if lim < d.lim then s.setDom g { d with lim := max lim 3, why := 2 ^ reason } else s

/-! ## The fast loop (R389, R390) -/

/-- The cap that holds: the lower of the set cap and, while THROTTLE_N is asserted, the external one (R392), in mW. -/
def capTarget (s : State) : Nat :=
  1000 * (if s.power.throttled then min (odNat s 0x3000 1) (odNat s 0x3000 3) else odNat s 0x3000 1)

/-- Is the external cap the one that holds? -/
def externalCap (s : State) : Bool := s.power.throttled && decide (odNat s 0x3000 3 < odNat s 0x3000 1)

/-- One µs of the way to a new cap, along the ramp (R390). -/
def rampCap (s : State) (mv : Nat) : Nat :=
  let step := odNat s 0x3000 2 * mv / 1000
  let goal := capTarget s
  if s.power.capNow < goal then min goal (s.power.capNow + step) else max goal (s.power.capNow - step)

def meanOf (l : List Nat) : Nat := if l.isEmpty then 0 else l.foldl (· + ·) 0 / l.length

/-- The input power averaged over the last 10 µs, in mW, with this µs's sample (R387, R389). DESIGN CHOICE, log 78. -/
def recentPower (s : State) (f : PowerFacts) : Nat :=
  meanOf ((((f.mv, f.ma) :: s.power.hist).take 10).map fun x => x.1 * x.2 / 1000)

/-- The reason for which the limits must fall in this µs, if any; the lowest number that binds (R395). -/
def limitReason (s : State) (f : PowerFacts) (cap : Nat) : Option Nat :=
  let power := recentPower s f
  if cap < power ∧ !externalCap s then some 0
  else if f.mv < 50000 ∧ cap / 50 < f.ma then some 1
  else if (odNat s 0x3000 2 : Int) < f.wantMa then some 2
  else if cap < power then some 6
  else none

/-- Lowers every busy compute domain by one step of free size. DESIGN CHOICE, log 78. -/
def lowerAll (s : State) (reason : Nat) : State :=
  let (x, s1) := s.draw
  let step := 1 + x.toNat % 64
  computeDomains.foldl (fun t g =>
    let d := t.dom g
    if d.st = .on ∧ d.issued then lowerTo t g (d.lim - step) reason else t) s1

/-- Raises limits by 4 where no thermal response holds them. DESIGN CHOICE, log 78. -/
def raiseAll (s : State) : State :=
  computeDomains.foldl (fun t g =>
    let d := t.dom g
    let top := if stackHot t (g / 19) then d.lim else if bayHot t (g / 19) then max d.lim 15 else 63
    let lim := min (d.lim + 4) top
    if d.lim = lim then t else t.setDom g { d with lim := lim, why := if lim = 63 then 0 else d.why }) s

/-- The domains of a bay that are limited, as (limit, lowest reason). -/
def limitedIn (s : State) (n : Nat) : List (Nat × Nat) :=
  (List.range 16).filterMap fun d =>
    let x := s.dom (19 * n + d)
    if x.st = .on then ((List.range 8).find? fun r => (x.why ||| x.ptWhy).testBit r).map fun r => (x.lim, r) else none

/-- The reason that set the tightest limit of a bay; a tie goes to the lower reason (R395). -/
def tightest (s : State) (n : Nat) : Option Nat :=
  ((limitedIn s n).foldl (fun (b : Option (Nat × Nat)) x =>
    match b with
    | none => some x
    | some y => if x.1 < y.1 ∨ (x.1 = y.1 ∧ x.2 < y.2) then some x else some y) none).map (·.2)

/-- Reason bits active in a bay. -/
def activeBits (s : State) (n : Nat) (sag : Bool) : Nat :=
  let b := (List.range 16).foldl (fun a d => let x := s.dom (19 * n + d); if x.st = .on then a ||| x.why ||| x.ptWhy else a) 0
  if sag then b ||| 32 else b

/-- Charges one interval of 1 µs (R395). -/
def accrue (s : State) (sagDomains : List Nat) (inputSag : Bool) : State :=
  let sag := fun (n : Nat) => inputSag || sagDomains.any fun g => g / 19 == n && isCompute g
  let charged := fun (n : Nat) => (match tightest s n with
    | some r => [r]
    | none => []) ++ (if sag n ∧ tightest s n ≠ some 5 then [5] else [])
  let s1 := (List.range 4).foldl (fun t n => (charged n).foldl (fun u r => odAdd u (0x3500 + n) (r + 1) 1000) t) s
  let all := (List.range 4).foldl (fun l n => (charged n).foldl addNew l) []
  let s2 := all.foldl (fun t r => odAdd t 0x3504 (r + 1) 1000) s1
  let act := (List.range 4).map fun n => (n, activeBits s2 n (sag n))
  { s2 with power := { s2.power with active := act ++ [(4, act.foldl (fun a e => a ||| e.2) 0)] } }

/-- Does a fall exceed what filler passes can hold (R391)? Domains held for heat fill nothing. -/
def fallBeyond (s : State) (f : PowerFacts) : Bool :=
  let fall := (-f.wantMa - (odNat s 0x3000 2 : Int)).toNat
  let cool := (List.range 4).any fun n => !stackHot s n && !bayHot s n
  decide ((if cool then f.fillerW else 0) * 1000000 < fall * f.mv)

/-- Does a fall follow the ramp: unless THROTTLE_N's cap ignores it (R392)? -/
def rampFalls (s : State) : Bool := !(s.power.throttled && odNat s 0x3000 4 == 1)

/-- Notes whether a fall exceeds the filler capacity, so that each such fall counts once (R391). -/
def State.setShort (s : State) (b : Bool) : State := { s with power := { s.power with short := b } }

/-- POWER_FAST_LOOP: one µs of the manager, once per µs (R389 to R392, R395). DESIGN CHOICE, log 78. -/
def execPowerFastLoop (facts : PowerFacts) (s : State) : Host.Outcome State Fault Refusal :=
  .next (
    if s.power.fastAt = s.now / 1000 + 1 then s
    else
    let cap := rampCap s facts.mv
    let fall := decide (facts.wantMa < -(odNat s 0x3000 2 : Int)) && rampFalls s
    let p := { s.power with fastAt := s.now / 1000 + 1, capNow := cap, fillerW := facts.fillerW, mv := facts.mv, ma := facts.ma, falling := fall,
                            hist := ((facts.mv, facts.ma) :: s.power.hist).take 100 }
    let s1 := { s with power := p }
    let beyond := fall && fallBeyond s1 facts
    let s2 := (if beyond ∧ !s.power.short then odAdd s1 0x3000 11 1 else s1).setShort beyond
    let s3 := match limitReason s facts cap with
      | some r => lowerAll s2 r
      | none => if s.now / 1000 % 10 = 0 then raiseAll s2 else s2
    accrue s3 facts.sagDomains (decide (facts.mv < 50000)))

/-! ## The slow loop -/

/-- One compute domain's point for the next ms. `power` is the highest point whose projected power stays within the cap. -/
def selectPoint (s : State) (g power : Nat) : State :=
  let d := s.dom g
  if d.st ≠ .on then s
  else
    let hot := (fgetD s.power.hot (g / 19) 0).testBit 0
    let thermal := if hot then d.pt - 1 else 7
    let ceiling := odNat s 0x3300 (g + 1)
    let want := if d.issued then bestPoint s g (min ceiling (min power thermal)) else 0
    let low := fun (bound : Nat) => d.issued && bestPoint s g bound == want && decide (want < bestPoint s g 7)
    let pt := if d.pt < want then (if d.lim = 63 then want else d.pt) else if s.power.falling then d.pt else want
    let lim := if pt < d.pt ∧ !stackHot s (g / 19) ∧ !bayHot s (g / 19) then 63 else d.lim
    let capBit := if low power then (if externalCap s then 64 else 1) else 0
    let heatBit := if hot && low thermal then 8 else 0
    let ceilBit := if d.issued ∧ want < bestPoint s g (min power thermal) then 128 else 0
    s.setDom g { d with pt := pt, lim := lim, why := if lim = 63 then 0 else d.why, ptWhy := capBit + heatBit + ceilBit, issued := false }

/-- POWER_SLOW_LOOP, once per ms (R389). -/
def execPowerSlowLoop (points : List (Nat × Nat)) (s : State) : Host.Outcome State Fault Refusal :=
  .next (
    if s.power.slowAt = s.now / 1000000 + 1 then s
    else computeDomains.foldl (fun t g => selectPoint t g (fgetD points g 7)) { s with power := { s.power with slowAt := s.now / 1000000 + 1 } })

/-! ## Gating (R29, R381) -/

/-- Logical cores of a compute domain. -/
def domainCores (s : State) (g : Nat) : List Nat := (domainGroves s g).flatMap groveCores

/-- Does none of a domain's cores hold a whorl or a granule? -/
def domainFree (s : State) (g : Nat) : Bool :=
  !(s.cores.any fun c => (!c.2.slots.isEmpty || !c.2.granules.isEmpty) && coreDomain s c.1 == g)

/-- DOMAIN_GATE. -/
def execDomainGate (domain : Nat) (s : State) : Host.Outcome State Fault Refusal :=
  .next (
    let d := s.dom domain
    if isCompute domain ∧ d.st = .on ∧ odNat s 0x3000 13 = 1 ∧ domainFree s domain ∧ !s.power.falling ∧
       bayUp s (domain / 19) ∧ d.idleSince + 1000 * odNat s 0x3000 12 ≤ s.now then
      s.setDom domain { d with st := .gating, idleSince := s.now, wanted := false }
    else s)

/-- DOMAIN_GATE_DONE: the contents of its stores and caches are lost; it wakes if it is wanted. -/
def execDomainGateDone (domain : Nat) (s : State) : Host.Outcome State Fault Refusal :=
  .next (
    let d := s.dom domain
    if d.st = .gating ∧ d.idleSince + 2000 ≤ s.now then
      blankCores (s.setDom domain { d with st := if d.wanted then .waking else .gated, wanted := false }) (domainCores s domain)
    else s)

/-- Groves that wait for a full-count token (R41). -/
def awaitToken (s : State) (gs : List Nat) : State :=
  { s with mod := { s.mod with groveWait := gs.foldl addNew s.mod.groveWait } }

/-- DOMAIN_WAKE_DONE. -/
def execDomainWakeDone (domain : Nat) (s : State) : Host.Outcome State Fault Refusal :=
  .next (
    let d := s.dom domain
    if d.st = .waking then
      awaitToken (s.setDom domain { d with st := .on, idleSince := s.now, onSteps := 0, wanted := false }) (domainGroves s domain)
    else s)

/-! ## Bays asleep (R382 to R384) -/

/-- The bay of a scratch unit (R174). -/
def unitBay (u : Nat) : Nat := u % 8 / 2

/-- Why a sleep request is refused (R382). -/
def sleepRefused (s : State) (n : Nat) : Bool :=
  (s.cores.any fun c => (groveEnt s (coreGrove c.1)).bay == n && (!c.2.slots.isEmpty || !c.2.granules.isEmpty)) ||
  (s.fns.any fun e => e.2.units.any fun u => unitBay u == n) ||
  (s.mem.lines.any fun e => e.2.slice / 32 == n && e.2.pin.isSome) ||
  (List.range 4).any fun b => b != n &&
    ((s.bay b).st == .asleep || (s.bay b).toSleep || (s.bay b).st == .resetting || (s.bay b).st == .returning)

/-- A bay begins to drain towards sleep. -/
def beginSleep (s : State) (n : Nat) (forced : Bool) : State :=
  s.setBay n { s.bay n with draining := true, toSleep := true, forced := forced, waking := false }

/-- BAY_SLEEP_REQUEST: a write of 1 to OD 0x3020:(n + 1). -/
def sleepRequest (n : Nat) (s : State) : OdRes :=
  if 4 ≤ n then .abort 0x01000001
  else if isStaged s 0x3020 (n + 1) then .abort 0x04000003
  else if sleepRefused s n then .abort 0x030000E1
  else
    let s1 := odPutNat s 0x3020 (n + 1) 1
    if bayUp s n ∧ !(s.bay n).draining then odOk (beginSleep s1 n false) else odOk s1

def execBaySleepRequest (p : Port) (bay : Nat) (s : State) : Host.Outcome State Fault Refusal := .next (viaPort s p (sleepRequest bay))

/-- BAY_SLEEP_ENTERED: once the drain has ended, the 19 domains turn off (R382, R239). -/
def execBaySleepEntered (bay : Nat) (s : State) : Host.Outcome State Fault Refusal :=
  .next (
    if !(s.bay bay).toSleep ∨ !(s.bay bay).draining then s
    else
      let s1 := drainLines s (linesIn s bay)
      if bayDrained s1 bay then
        let s2 := fenceBay (clearHalves (blankCores s1 (bayCores bay)) bay) bay
        loseStranded (routeChange (bayDomains (s2.setBay bay { s2.bay bay with st := .asleep, draining := false, toSleep := false }) bay .off))
      else s1)

/-- Is every sensor of a bay and every top die of its stacks at or below 85 °C (R384)? -/
def bayCool (s : State) (n : Nat) : Bool :=
  (s.power.sensors.all fun e => e.1 / 16 != n || decide (e.2 ≤ 8500)) &&
  s.power.dies.all fun e => e.1 / 8 != n || decide (e.2 ≤ 8500)

/-- A bay that sleeps, or is about to, is asked to wake. -/
def wakeAsked (s : State) (n : Nat) : State :=
  if (s.bay n).st = .asleep ∨ (s.bay n).toSleep then s.setBay n { s.bay n with waking := true } else s

/-- A write of 0 to OD 0x3020:(n + 1). -/
def wakeRequest (n : Nat) (s : State) : OdRes :=
  if 4 ≤ n then .abort 0x01000001
  else if isStaged s 0x3020 (n + 1) then .abort 0x04000003
  else odOk (wakeAsked (odPutNat s 0x3020 (n + 1) 0) n)

/-- BAY_WAKE_REQUEST: a write of 0 to OD 0x3020:(n + 1), or an access or placement that needs the bay (R383). -/
def execBayWakeRequest (cause : WakeCause) (bay : Nat) (s : State) : Host.Outcome State Fault Refusal :=
  .next (match cause with
    | .request p => viaPort s p (wakeRequest bay)
    | _ => wakeAsked s bay)

/-- BAY_WAKE_DONE: the bay is ON again, every line in I (R383). -/
def execBayWakeDone (bay : Nat) (s : State) : Host.Outcome State Fault Refusal :=
  .next (
    let b := s.bay bay
    if b.st ≠ .asleep ∨ !b.waking ∨ (b.forced ∧ !bayCool s bay) then s
    else
      let s1 := bayDomains ((resetBanks s bay).setBay bay { b with st := .running, waking := false, forced := false, toSleep := false }) bay .on
      awaitToken (routeChange (odPutNat s1 0x3020 (bay + 1) 0)) ((List.range 192).map fun i => 192 * bay + i))

/-! ## Heat (R211, R384, R393) -/

/-- A forced sleep: its kernels are replayed or killed, then the bay drains; one that drains towards a requested sleep is forced from
now on (R384). -/
def forceSleep (s : State) (n why : Nat) : State :=
  if bayUp s n ∧ !(s.bay n).toSleep ∧ !(s.bay n).draining then
    beginSleep (stopBayCores (logEvent s 0x000F n 0 why) n) n true
  else if (s.bay n).toSleep ∧ !(s.bay n).forced then (logEvent s 0x000F n 0 why).setBay n { s.bay n with forced := true }
  else s

/-- The row of Table 07.6 that a stack is in after a sample. -/
def stackRow (prev : Nat) (sensor die : Int) : Nat :=
  if 9300 ≤ die ∨ (prev = 3 ∧ 9100 < die) then 3
  else if 9000 ≤ sensor then 2
  else if 8500 < sensor ∨ (prev ≠ 0 ∧ 8300 < sensor) then 1
  else 0

/-- The greatest of a list of temperatures. -/
def maxTemp : List Int → Int
  | [] => -27315
  | [a] => a
  | a :: r => max a (maxTemp r)

/-- The bay response of Table 14.4, with release 2 °C below each threshold; its conditions follow the temperature in every state of the bay. -/
def bayHeat (s : State) (n : Nat) (mx : Int) : State :=
  let target : Int := 100 * odNat s 0x3000 5
  let old := fgetD s.power.hot n 0
  let above := decide (target < mx) || (old.testBit 0 && decide (target - 200 < mx))
  let limit := decide (10500 < mx) || (old.testBit 1 && decide (10300 < mx))
  let hot := (if above then 1 else 0) + (if limit then 2 else 0)
  let s1 := { s with power := { s.power with hot := fset s.power.hot n hot } }
  let s2 := if limit ∧ bayUp s n then (List.range 16).foldl (fun t d => lowerTo t (19 * n + d) 15 3) s1 else s1
  let b := s2.bay n
  let since := if 11000 ≤ mx then (if b.hotSince = 0 then max 1 s2.now else b.hotSince) else if 10800 < mx then b.hotSince else 0
  let s3 := s2.setBay n { b with hotSince := since }
  if bayUp s n ∧ since ≠ 0 ∧ since + 10000000 ≤ s3.now then forceSleep s3 n 0 else s3

/-- The stack response of R211 for one stack: its row follows the temperature in every state of the bay; in row 3 its bay's compute domains take a limit that the spec leaves free. -/
def stackHeat (s : State) (n k : Nat) (sensor die : Int) : State :=
  let row := stackRow (fgetD s.power.rows (8 * n + k) 0) sensor die
  let s1 := { s with power := { s.power with rows := fset s.power.rows (8 * n + k) row } }
  if !bayUp s n then s1
  else
  let s2 := if row = 3 then
      let (x, t) := s1.draw
      (List.range 16).foldl (fun t d => lowerTo t (19 * n + d) (3 + x.toNat % 60) 4) t
    else s1
  if 9500 ≤ die then forceSleep s2 n 1 else s2

/-- One bay's readings are taken up. -/
def bayThermal (s : State) (n : Nat) (sensors dies : List Int) : State :=
  let put := fun (m : FMap Int) (base : Nat) (l : List Int) => l.zipIdx.foldl (fun a e => fset a (base + e.2) e.1) m
  let s1 := { s with power := { s.power with sensors := put s.power.sensors (16 * n) (sensors.take 12),
                                             dies := put s.power.dies (8 * n) (dies.take 8) } }
  let s2 := bayHeat s1 n (maxTemp (sensors.take 12))
  (List.range 8).foldl (fun t k => match sensors[k]?, dies[k]? with
    | some a, some b => stackHeat t n k a b
    | _, _ => t) s2

/-- THERMAL_SAMPLE, once per 100 µs (R393). -/
def execThermalSample (facts : ThermalFacts) (s : State) : Host.Outcome State Fault Refusal :=
  .next (
    if s.power.heatAt = s.now / 100000 + 1 then s
    else
    let s0 := { s with power := { s.power with heatAt := s.now / 100000 + 1 } }
    let s1 := (List.range 4).foldl (fun t n => match facts.bays[n]?, facts.dies[n]? with
      | some a, some b => bayThermal t n a b
      | _, _ => t) s0
    { s1 with power := { s1.power with spots := facts.girt.zipIdx.foldl (fun a e => fset a e.2 e.1) s1.power.spots } })

/-! ## THROTTLE_N (R392, R496) -/

/-- THROTTLE_N_ASSERT: the external cap, along the ramp or at once. -/
def execThrottleNAssert (s : State) : Host.Outcome State Fault Refusal :=
  .next (
    let s1 := { s with mod := { s.mod with throttleN := false }, power := { s.power with throttled := true } }
    let cap := if odNat s 0x3000 4 = 1 then min s1.power.capNow (capTarget s1) else s1.power.capNow
    { s1 with power := { s1.power with capNow := cap } })

/-- THROTTLE_N_RELEASE. -/
def execThrottleNRelease (s : State) : Host.Outcome State Fault Refusal :=
  .next { s with mod := { s.mod with throttleN := true }, power := { s.power with throttled := false } }

end Sys2Proof.Machine
end

