-- ==== Sys2Proof/Machine/Resets.lean ====
section
/-! DEFINITION. What the resets of functions and ports share: returns to default and their records (R7, R416, R417), zeroing
(R344), the end of a function's contexts, pins and scratch (R335, R343), and shared pages given back (R236, R237). -/

namespace Sys2Proof.Machine

/-! ## Reset records and defaults -/

/-- The function an entry belongs to (R400). -/
def entryOwner (s : State) (idx : Nat) : Nat :=
  if 0x6010 ≤ idx ∧ idx < 0x6050 then idx - 0x6010
  else if 0x1600 ≤ idx ∧ idx < 0x1A00 then sessFunc s (idx - 0x1600)
  else 0

/-- Entries of one persistence class that belong to some functions return to their defaults. -/
def loseClass (s : State) (per : OdPer) (fs : Nat → Bool) : State :=
  let gone := fun (k : Nat) => (match odRow (k / 256) (k % 256) with
    | some r => r.per == per
    | none => false) && fs (entryOwner s (k / 256))
  { s with dict := { s.dict with od := s.dict.od.filter fun e => !gone e.1 } }

/-- The V class of some functions returns to its defaults: sessions close, sleeping bays wake (R416). -/
def loseV (s : State) (fs : Nat → Bool) : State :=
  let ids := (s.sess.filter fun e => e.2.st != 0 && fs (sessFunc s e.1)).map (·.1)
  let s1 := ids.foldl closeSession s
  let asked := if fs 0 then (List.range 4).filter fun n => odNat s1 0x3020 (n + 1) == 1 else []
  asked.foldl wakeAsked (loseClass s1 .v fs)

/-! ## Zeroing (R344) -/

/-- Lines [a, b) read as zero from now on: bytes, poison and copies go. DEDUCED, log 50. -/
def zeroLines (s : State) (a b : Nat) : State :=
  let m := s.mem
  let inB := fun (pa : Nat) => decide (1024 * a ≤ pa) && decide (pa < 1024 * b)
  let inL := fun (l : Nat) => decide (a ≤ l) && decide (l < b)
  let inS := fun (k : Nat) => decide (4 * a ≤ k) && decide (k < 4 * b)
  let clean := fun (e : Nat × Line) => if inL e.1 then (e.1, { e.2 with pois := 0#4 }) else e
  s.setMem { m with
    dram := m.dram.filter fun c => !inB c.1, llc := m.llc.filter fun c => !inB c.1,
    dramPois := m.dramPois.filter fun k => !inS k,
    near := m.near.filter fun x => !inL x.line, lines := (m.lines.filter fun e => !inL e.1 || e.2.pin.isSome).map clean,
    zeroMarks := if a < b then m.zeroMarks ++ [(a, b)] else m.zeroMarks }

/-- Sectors of marked bands that the zeroing covers count as written whole. -/
def coverLines (s : State) (a b : Nat) : State :=
  if s.mem.poisBands.isEmpty then s
  else
    let more := (List.range' (4 * a) (4 * (b - a))).filter fun k => s.mem.poisBands.contains (lineBand s (k / 4))
    s.setMem { s.mem with covered := more.foldl insAsc s.mem.covered }

/-- A line range is marked for zeroing. -/
def markZero (s : State) (a b : Nat) : State := coverLines (zeroLines s a b) a b

/-- Line ranges with RETAIN set, ascending (R212, R343). -/
def retainedRanges (s : State) : List (Nat × Nat) :=
  let rs := (List.range 32).filterMap fun e =>
    let r := rangeRec s e
    if rangeSize r ≠ 0 ∧ r.testBit 0 then some (rangeBase r / 1024, (rangeBase r + rangeSize r) / 1024) else none
  sortBy (fun a b => decide (a.1 ≤ b.1)) rs

/-- Marks [a, b) less the retained ranges. -/
def markAround (s : State) (b : Nat) : Nat → List (Nat × Nat) → State
  | a, [] => markZero s a b
  | a, (x, y) :: rest =>
    if y ≤ a ∨ b ≤ x then markAround s b a rest
    else markAround (if a < x then markZero s a x else s) b (max a y) rest

/-- Marks a function's memory share, less retained ranges. -/
def zeroShare (s : State) (f : Nat) : State :=
  let a := shareBase s f / 1024
  let b := min (usableLines s) ((shareBase s f + shareSize s f) / 1024)
  if a < b then markAround s b a (retainedRanges s) else s

/-- ZEROING: one marked line has been zeroed. DEDUCED, log 50. -/
def execZeroing (line : Nat) (s : State) : Host.Outcome State Fault Refusal :=
  .next (s.setMem { s.mem with zeroMarks := s.mem.zeroMarks.flatMap fun r =>
    if r.1 ≤ line ∧ line < r.2 then
      (if r.1 < line then [(r.1, line)] else []) ++ (if line + 1 < r.2 then [(line + 1, r.2)] else [])
    else [r] })

/-- Bytes still to zero (OD 0x6002:01). DEDUCED, log 50. -/
def bytesToZero (s : State) : Nat := s.mem.zeroMarks.foldl (fun n r => n + 1024 * (r.2 - r.1)) 0

/-! ## The end of a function's work -/

/-- Destroys the contexts of functions; those whose stop is not complete stay until it is. -/
def destroyAll (s : State) (fs : Nat → Bool) : State :=
  let ids := (s.ctxs.filter fun e => fs e.2.f).map (·.1)
  ids.foldl (fun t c => match fget t.ctxs c with
    | none => t
    | some x => if !x.dying then destroyCtx t c else if ctxQuiet t c then finishStop t c else t) s

def ctxsLeft (s : State) (fs : Nat → Bool) : Bool := s.ctxs.any fun e => fs e.2.f

/-- Pins of partitions end; a line that only its pin kept goes (R172). -/
def endPins (s : State) (fs : Nat → Bool) : State :=
  let ls := (s.mem.lines.filter fun e => match e.2.pin with
    | some f => fs f
    | none => false).map (·.1)
  ls.foldl unpinHome s

/-- The scratch contents of partitions are lost: their units read zero (R178). -/
def clearUnits (s : State) (us : List Nat) : State :=
  let hit := fun (pa : Nat) => regionOf pa == .scratch && us.contains ((pa - scratchBase) / 0x100000)
  let m := s.mem
  s.setMem { m with scratch := m.scratch.filter fun c => !hit c.1, wordPois := m.wordPois.filter fun w => !hit (4 * w) }

def clearScratch (s : State) (fs : Nat → Bool) : State :=
  clearUnits s ((s.fns.filter fun e => fs e.1).flatMap (·.2.units))

/-- The control page and the mailbox return to their reset values (R331, R335). -/
def clearPages (s : State) (f : Nat) : State :=
  let x := s.fn f
  let s1 := s.setFn f { x with hvec := 0, bvec := 0, fvec := 0, err := 0#5, biasQ := [] }
  if f = 0 then { s1 with mbox := { busy := false, req := [], resp := false, rlen := 0, rsp := [] } } else s1

/-- The shared pages of a function's memory share. -/
def sharedPages (s : State) (f : Nat) : List Nat :=
  (s.mem.bias.filter fun e => e.2 != 0 && inShare s f (65536 * e.1) 65536).map (·.1)

/-- Pages become device-owned; flips of them end without a record. -/
def dropPages (s : State) (pages : List Nat) : State :=
  let s1 := s.setMem { s.mem with bias := s.mem.bias.filter fun e => !pages.contains e.1 }
  { s1 with fns := s1.fns.map fun e => (e.1, { e.2 with flips := e.2.flips.filter fun x => !pages.contains x.page,
                                                         closing := e.2.closing.filter fun p => !pages.contains p }) }

/-- A function-level reset goes as far as it can (R335): contexts, pins, scratch, control page, shared pages, T class. The second
value says that it is complete. DEDUCED, log 66. -/
def flrStep (s : State) (f : Nat) : State × Bool :=
  let mine := fun (g : Nat) => g == f
  let s1 := destroyAll s mine
  if ctxsLeft s1 mine then (s1, false)
  else
    let s2 := clearPages (clearScratch (endPins s1 mine) mine) f
    let pages := sharedPages s2 f
    let s3 := pages.foldl recallPage (s2.setFn f { s2.fn f with closing := pages.foldl addNew (s2.fn f).closing })
    if pages.all (pageFree s3) then (recordReset (loseClass (dropPages s3 pages) .t mine) 6 f 8, true) else (s3, false)

/-- The same for a function that is released: the pages shared in its old share are given back at once, their recalls go on
(R334). DEDUCED, log 68. -/
def flrRelease (old s : State) (f : Nat) : State :=
  let mine := fun (g : Nat) => g == f
  let s2 := clearPages (clearScratch (endPins (destroyAll s mine) mine) mine) f
  let pages := sharedPages old f
  recordReset (loseClass (dropPages (pages.foldl recallPage s2) pages) .t mine) 6 f 8

/-! ## Link-loss reset (R343) -/

/-- Does a request wait at a port for its function? -/
def waitsAt (s : State) (p : Nat) (r : Req) : Bool :=
  homePort s (reqFn s r) == p && (r.phase == .port || r.phase == .ats ||
    r.lanes.any fun l => regionOf l.pa == .host && !l.done)

/-- Requests waiting at a port complete with an error; its messages go. -/
def failPort (s : State) (p : Nat) : State :=
  let ids := (s.mem.reqs.filter (waitsAt s p)).map (·.id)
  let s1 := ids.foldl (fun t i => failLanes t i fun l => regionOf l.pa == .host && !l.done) s
  s1.setPort p { s1.port p with msgs := [] }

/-- One line with host presence in a page shared on a lost port (R237). -/
def forgetHost (s : State) (line : Nat) : State :=
  match s.line? line with
  | none => s
  | some e =>
    if e.hsec = 0#4 then s
    else
      let s1 := if e.st = .m ∧ e.own = 8 then
          (List.range 4).foldl (fun t i => if e.hsec.getLsbD i then poisonSector t line i else t) s
        else s
      match s1.line? line with
      | none => s1
      | some x =>
        let s2 := settleLine (s1.setLine line { x with hsec := 0#4 }) line false
        match missOf s2 line with
        | none => s2
        | some m =>
          let m1 := { m with snoops := m.snoops.filter fun a => a.1 != 8 }
          if m1.snoops.isEmpty ∧ m1.need = 0#4 then closeMiss (setMiss s2 m1) m1 else setMiss s2 m1

/-- Pages shared on a port become device-owned without a snoop; the DMA cache drops the port's lines (R237, R343). -/
def dropShared (s : State) (p : Nat) : State :=
  let pages := (s.mem.bias.filter fun e => e.2 == p + 1).map (·.1)
  let s1 := dropPages (pages.foldl (fun t g => (pageLines g).foldl forgetHost t) s) pages
  s1.setMem { s1.mem with hostLines := s1.mem.hostLines.filter fun h => h.port != p }

/-- A port's views return to their reset values (R343 order 3). -/
def resetViews (s : State) (p : Nat) : State :=
  let off := fun (e : Nat × Fn) => (e.1, { e.2 with busMaster := e.2.busMaster.set p false })
  let s1 := { s with fns := s.fns.map off }
  let x := s1.port p
  let s2 := s1.setPort p { x with vfEnable := false, numVfs := 0, secure := false, insecure := false, resetDue := false, msgs := [] }
  s2.setMem { s2.mem with ats := s2.mem.ats.filter fun a => a.1 != p }

/-- A link-loss reset of some ports, as far as it can go (Table 12.10). The second value says that it is complete. `cause` is
Table 15.5's. DEDUCED, log 66. -/
def lossStep (s : State) (ps : List Nat) (cause : Nat) : State × Bool :=
  let homed := fun (f : Nat) => ps.contains (homePort s f)
  let s1 := destroyAll (ps.foldl failPort s) homed
  if ctxsLeft s1 homed then (s1, false)
  else
    let s2 := clearScratch (endPins s1 homed) homed
    let s3 := ps.foldl (fun t p => resetViews (dropShared t p) p) s2
    let fs := (List.range 64).filter homed
    let s4 := fs.foldl zeroShare s3
    let s5 := loseClass (loseV s4 homed) .t homed
    let s6 := ps.foldl (fun t p => odAdd t 0x6001 (5 + p) 1) s5
    (recordReset s6 cause 0xFF 12, true)

end Sys2Proof.Machine
end

