-- ==== Sys2Proof/Machine/Fells.lean ====
section
/-! DEFINITION. The global stop (R459 to R465) and the operating states (R4, R5, R385): what a request does, what a cut takes,
what a resume restarts, and what loses power with the domains beyond 76. -/

namespace Sys2Proof.Machine

/-! ## Power goes from every domain but 76 -/

/-- Everything beyond domain 76 loses power with its contents (R385, R492, R496). Resources, the committed dictionary, the
fault log and what domain 76 holds stay; a fell ends. DEDUCED, log 58. -/
def darkModule (s : State) : State :=
  let m := s.mem
  let bayOff := fun (n : Nat) =>
    (n, if (s.bay n).st = .retired then { Bay.offBay with st := BaySt.retired } else Bay.offBay)
  let bays := (List.range 4).map bayOff
  let fnOff := fun (e : Nat × Fn) => (e.1, { Fn.blank with groves := e.2.groves, units := e.2.units })
  let fns := s.fns.map fnOff
  let mem := { MemSys.blank with host := m.host, mapouts := m.mapouts, mappedOut := m.mappedOut, setOut := m.setOut,
                                 correctedAt := m.correctedAt, failedAt := m.failedAt }
  let mod := { s.mod with groveWait := [], groveLast := [], draining := false, memActive := false, memInfoValid := false }
  let power := { s.power with hot := [], active := [], steps := [], falling := false, short := false, fastAt := 0, slowAt := 0, heatAt := 0 }
  { s with
    mod := mod, bays := bays, fns := fns, mem := mem, power := power,
    doms := [(76, { Dom.offDom with st := .on })], cores := [], ctxs := [], queues := [], kerns := [], graphs := [],
    launches := [], chutes := [], classC := [], rr := [], resid := [], ports := [],
    mbox := { busy := false, req := [], resp := false, rlen := 0, rsp := [] },
    tenons := [], cuts := [], dies := [], sess := [], test := { s.test with running := false },
    fell := { s.fell with st := 0, cmds := [] } }

/-! ## Fell and resume -/

/-- OD 0x9100:01: a fell with a reason (R420, R459). -/
def fellReq (reason : Nat) (s : State) : OdRes :=
  if 0xFF00 ≤ reason then .abort 0x02000001
  else if s.mod.op = .start ∨ s.mod.op = .standby ∨ s.felled then .abort 0x03000101
  else odOk (startFell s reason 0)

def execFell (p : Port) (reason : W16) (s : State) : Host.Outcome State Fault Refusal := .next (viaPort s p (fellReq reason.toNat))

/-- May a resume be requested now (R464)? -/
def mayBeginResume (s : State) : Bool := s.fell.st == 2 && s.mod.haltN

def beginResume (s : State) : State := { s with fell := { s.fell with st := 3 } }

/-- OD 0x9100:02: a write of 1 resumes (R420, R464). -/
def resumeReq (v : Nat) (s : State) : OdRes :=
  if !mayBeginResume s then .abort 0x03000102 else odOk (if v = 1 then beginResume s else s)

def execResume (p : Port) (s : State) : Host.Outcome State Fault Refusal := .next (viaPort s p (resumeReq 1))

/-- Does a request belong to a source that the fell stops? DEDUCED, log 57. -/
def fellAgent (a : Agent) : Bool :=
  match a with
  | .core _ _ => true
  | .framer => true
  | .dma _ => true
  | .session _ => true
  | _ => false

/-- Does a bay fall asleep or wake now? One that may not wake yet for its heat does not. DEDUCED, log 57. -/
def bayChanging (s : State) (n : Nat) : Bool :=
  let b := s.bay n
  b.toSleep || (b.st == .asleep && b.waking && !(b.forced && !bayCool s n))

/-- What the cut waits for: every read returned, every write acknowledged or handed to its port or rafter die, every context
stop and switch-out ended, every entry into BAY_SLEEP and wake from it (R462, R465, Table 15.11). DEDUCED, log 57. -/
def cutReady (s : State) : Bool :=
  (s.mem.reqs.all fun r => !fellAgent r.agent || answeredRead r || (isWriteKind r.kind && handedWrite r)) &&
  (s.kerns.all fun e => e.2.st != .saving) && (s.ctxs.all fun e => !e.2.stopping) && (List.range 4).all fun n => !bayChanging s n

/-- CUT_COMPLETE: the cut record is written and FELL is logged (R462, R463). -/
def execCutComplete (s : State) : Host.Outcome State Fault Refusal :=
  .next (
    if s.fell.st ≠ 1 ∨ !cutReady s then s
    else
      let entry := fun (e : Nat × Sess) => (e.1, (e.2.tx, e.2.rpsn, e.2.apsn, e.2.st))
      let away := (List.range 4).filter fun n => (s.bay n).st != .running
      let mask := away.foldl (fun (w : BitVec 4) n => w ||| bitN 4 n) 0#4
      let f := { s.fell with st := 2, cutTime := s.mod.time, cutTrig := s.fell.trig, cutReason := s.fell.reason,
                             cutSource := s.fell.source, noBay := mask, sess := s.sess.map entry }
      let s1 := ringRecord s s.now (fellRec 3 s.fell.reason.toNat)
      logEvent { s1 with fell := f } 0x0015 s.fell.reason.toNat 0 s.fell.source)

/-- Watchdogs, time limits and quanta go on from where they stopped (R461, R464). DEDUCED, log 47. -/
def shiftLimits (s : State) (d : Nat) : State :=
  let s1 := mapWhorls s (fun w => kernelRuns s w.kernel) fun w =>
    { w with colls := w.colls.map fun c => { c with opened := c.opened + d } }
  let kern := fun (e : Nat × Kern) => (e.1, { e.2 with placedAt := e.2.placedAt + d, readySince := e.2.readySince + d })
  let late := fun (e : Exec) => if e.typ = 7 ∧ e.phase = .waiting then { e with began := e.began + BitVec.ofNat 64 d } else e
  let queue := fun (e : Nat × Queue) => (e.1, { e.2 with exec := e.2.exec.map late })
  { s1 with kerns := s1.kerns.map kern, queues := s1.queues.map queue }

/-- The FELL commands that wait complete now (R285). -/
def endFellCmds (s : State) : State :=
  s.fell.cmds.foldl (fun t q => match execOf t (.queue q) with
    | some e => if e.typ = 12 then finishExec t (.queue q) e 0 else t
    | none => t) s

/-- A link-loss reset of one port goes as far as it can; it stays due until it is complete (R342, R343). -/
def resetPort (s : State) (p : Nat) : State :=
  let (s1, done) := lossStep s [p] (4 + p)
  if done then s1.setPort p { s1.port p with lostAt := none, resetDue := false }
  else s1.setPort p { s1.port p with resetDue := true }

/-- The same, which waits for the resume while the device is felled (R342). -/
def portLost (s : State) (p : Nat) : State :=
  if s.felled then s.setPort p { s.port p with resetDue := true } else resetPort s p

/-- RESUME_COMPLETE: everything restarts, RESUME is logged, and what waited for the resume starts (R285, R319, R342, R464). -/
def execResumeComplete (s : State) : Host.Outcome State Fault Refusal :=
  .next (
    if s.fell.st ≠ 3 then s
    else
      let s1 := logEvent { s with fell := { s.fell with st := 0 } } 0x0016 s.fell.reason.toNat 0 s.fell.source
      let s2 := endFellCmds (shiftLimits (ringRecord s1 s.now (fellRec 4 s.fell.reason.toNat)) (s.now - s.fell.trig.toNat))
      let s3 := strikePending { s2 with fell := { s2.fell with cmds := [] } }
      [0, 1].foldl (fun t p => if (t.port p).resetDue then resetPort t p else t) s3)

/-- FELL_COMMAND: a FELL record of a queue (R285, R459). DEDUCED, log 57. -/
def execFellCommand (q : Nat) (s : State) : Host.Outcome State Fault Refusal :=
  .next (match takeExec s (.queue q) 12 (fun _ => true) with
    | none => s
    | some (e, s1) =>
      let reason := recGet e.rec_ 79 64
      if e.phase = .waiting then s
      else if (queueOf s1 (.queue q)).map (·.f) ≠ some 0 then finishExec s1 (.queue q) e 7
      else if 0xFF00 ≤ reason then finishExec s1 (.queue q) e 1
      else
        let s2 := startFell (setExec s1 (.queue q) { e with phase := .waiting }) reason 1
        { s2 with fell := { s2.fell with cmds := s2.fell.cmds ++ [q] } })

/-- HALT_N_FALL: the falling edge fells; in START it takes effect as START ends, in STANDBY it is ignored (R459, Table 19.6). -/
def execHaltNFall (s : State) : Host.Outcome State Fault Refusal :=
  let s1 := { s with mod := { s.mod with haltN := false } }
  .next (
    if !s.mod.haltN then s
    else match s.mod.op with
      | .start => { s1 with mod := { s1.mod with haltSeen := true } }
      | .standby => s1
      | _ => startFell s1 0xFF01 2)

/-- HALT_N_RISE: the rising edge resumes a fell whose source was HALT_N, once the cut is complete (R464). DEDUCED, log 57. -/
def execHaltNRise (s : State) : Host.Outcome State Fault Refusal :=
  let s1 := { s with mod := { s.mod with haltN := true } }
  .next (if !s.mod.haltN ∧ s.fell.source = 2 ∧ mayBeginResume s1 then beginResume s1 else s1)

/-! ## Operating states -/

/-- The peg is given back and its staged changes go (Table 15.6). -/
def freePeg (s : State) : State := { s with dict := { s.dict with peg := none, staged := [] } }

def setOp (s : State) (o : OpState) : State := { s with mod := { s.mod with op := o } }

/-- The release point of a start-up is set (R493); the entry into START closes debug (R483). DEDUCED, log 59. -/
def releasePoint (s : State) (cause : Nat) : State :=
  { s with mod := { s.mod with op := .start, phase := .released, cause := cause }, dbg := { s.dbg with opened := false } }

/-- STANDBY is entered: a link-loss reset of both ports, Port H's peg freed; the bays drain (R385, Tables 15.5 and 15.6).
DEDUCED, log 58. -/
def enterStandbyNow (s : State) : State :=
  let s1 := (lossStep s [0, 1] 7).1
  let s2 := if s1.dict.peg = some .h then freePeg s1 else s1
  { s2 with mod := { s2.mod with op := .standby, draining := true } }

/-- A write of a state code to OD 0x2000:02 (R4, R5, R385, Table 00.3). A wake cuts short a drain whose data is lost anyway. -/
def stateReq (v : Nat) (s : State) : OdRes :=
  match s.mod.op, v with
  | .service, 2 => odOk (setOp s .test)
  | .service, 3 => odOk (setOp s .recovery)
  | .service, 4 => if s.ctxs.isEmpty then odOk (enterStandbyNow s) else .abort 0x030000E2
  | .test, 1 => odOk (setOp s .service)
  | .test, 0 => odOk (releasePoint s 0)
  | .recovery, 1 => odOk (setOp s .service)
  | .recovery, 4 => if s.ctxs.isEmpty then odOk (enterStandbyNow s) else .abort 0x030000E2
  | .standby, 0 => odOk (releasePoint (if s.mod.draining then darkModule s else s) 0)
  | _, _ => if v < 5 then .abort 0x03000001 else .abort 0x02000001

def execEnterService (p : Port) (s : State) : Host.Outcome State Fault Refusal := .next (viaPort s p (stateReq 1))

def execEnterTest (p : Port) (s : State) : Host.Outcome State Fault Refusal := .next (viaPort s p (stateReq 2))

def execEnterRecovery (p : Port) (s : State) : Host.Outcome State Fault Refusal := .next (viaPort s p (stateReq 3))

def execEnterStandby (p : Port) (s : State) : Host.Outcome State Fault Refusal := .next (viaPort s p (stateReq 4))

/-- WAKE_FROM_STANDBY: START written in STANDBY (R493); elsewhere it is a write of START like any other. DEDUCED, log 58. -/
def execWakeFromStandby (p : Port) (s : State) : Host.Outcome State Fault Refusal := .next (viaPort s p (stateReq 0))

def execEnterStart (p : Port) (s : State) : Host.Outcome State Fault Refusal := .next (viaPort s p (stateReq 0))

/-- STANDBY_ENTERED: once every bay has drained, DRAM is powered down and every domain but 76 turns off (R385, R239). -/
def execStandbyEntered (s : State) : Host.Outcome State Fault Refusal :=
  .next (
    if s.mod.op ≠ .standby ∨ !s.mod.draining then s
    else
      let up := (List.range 4).filter (bayUp s)
      let s1 := up.foldl (fun t n => drainLines t (linesIn t n)) s
      if up.all (bayDrained s1) then darkModule s1 else s1)

/-- A module reset: power goes with no drain; domain 76 is held or released (R496). -/
def resetModule (s : State) : State :=
  let d := { s.dbg with opened := false, nonce := none, fails := 0, lockedUntil := 0, req := [], resp := [] }
  let s1 := { darkModule s with dbg := { d with chain := 0#8, ir := 1#8, lane := 0, drive := none } }
  ({ s1 with mod := { s1.mod with op := .start, phase := .off, pwrGood := false } }).emit (.pin "PWR_GOOD" false)

/-- OD 0x2000:04: a write of 1 resets the module once its response is sent (R420). -/
def moduleResetReq (v : Nat) (s : State) : OdRes := odOk (if v = 1 then releasePoint (resetModule s) 3 else s)

def execModuleResetRequest (p : Port) (s : State) : Host.Outcome State Fault Refusal := .next (viaPort s p (moduleResetReq 1))

/-- MODULE_RESET: MOD_RESET_N low in any state (R496). While domain 76 awaits its power-on release, cause 1 stays (R497). -/
def execModuleReset (s : State) : Host.Outcome State Fault Refusal :=
  let s1 := { s with mod := { s.mod with modResetN := false } }
  .next (
    if !s.mod.switchClosed ∨ !s.mod.modResetN then s1
    else
      let cause := if s.mod.phase = .released ∧ s.mod.cause = 1 then 1 else 2
      let s2 := resetModule s1
      { s2 with mod := { s2.mod with cause := cause } })

/-- MOD_RESET_RELEASE: MOD_RESET_N high sets the release point where the module has power (R496, R497). -/
def execModResetRelease (s : State) : Host.Outcome State Fault Refusal :=
  let s1 := { s with mod := { s.mod with modResetN := true } }
  .next (if s.mod.switchClosed ∧ !s.mod.modResetN ∧ s.mod.phase = .off then releasePoint s1 s.mod.cause else s1)

/-- POWER_ON: the input rises above 48.0 V, or falls below 61.0 V after an overvoltage, with ENABLE mated (R491, R492, Table 19.4). -/
def execPowerOn (mv : Nat) (s : State) : Host.Outcome State Fault Refusal :=
  let m := { s.mod with inputMv := mv, switchClosed := true, op := .start, cause := 1,
                        phase := if s.mod.modResetN then .released else .off }
  let top := if 62000 < s.mod.inputMv then 61000 else 62001
  .next (if !s.mod.switchClosed ∧ 48000 < mv ∧ mv < top then { s with mod := m } else s)

/-- TURN_OFF: PWR_GOOD falls, the switch opens, and every volatile content is lost, the fault log's with them (R492). -/
def execTurnOff (cause : OffCause) (s : State) : Host.Outcome State Fault Refusal :=
  .next (
    if !s.mod.switchClosed then s
    else
      let s1 := resetModule s
      let mv := match cause with
        | .undervoltage => 44999
        | .overvoltage => 62001
        | .enableBreak => s.mod.inputMv
      { s1 with mod := { s1.mod with switchClosed := false, inputMv := mv, time := 0#64 },
                doms := [], flog := { entries := [], count := 0, ack := 0#64 }, dict := { s1.dict with peg := none, staged := [] } })

end Sys2Proof.Machine
end

