-- ==== Sys2Proof/Machine/DictRead.lean ====
section
/-! DEFINITION. The present value of every dictionary entry (R397, R401): status entries are read from the state of what they
report, every other entry from the MC's store. -/

namespace Sys2Proof.Machine

/-- U16 values, little-endian. -/
def u16s (l : List Nat) : List Byte := l.flatMap (leBytes 2)

/-- U32 values, little-endian. -/
def u32s (l : List Nat) : List Byte := l.flatMap (leBytes 4)

/-- An I32 in 0.01 °C. -/
def i32Bytes (v : Int) : List Byte := leBytes 4 (patternOf 32 v)

/-- The reset record k places back (Table 15.7). -/
def resetBytes (r : ResetRec) : List Byte :=
  leBytes 16 (r.time.toNat * 2 ^ 64 + r.cause * 2 ^ 48 + r.who * 2 ^ 40 + r.classes.toNat)

/-- The source of device time: 0 port 0's clock, 1 port 1's, 2 the local oscillator (R38). -/
def timeSource (s : State) : Nat :=
  if s.mod.refclk.headD false then 0 else if (s.mod.refclk.drop 1).headD false then 1 else 2

/-- The voltage point in use: cache halves follow the highest compute point of their bay, and never below point 3 (R375). -/
def pointInUse (s : State) (g : Nat) : Nat :=
  if 76 ≤ g ∨ (s.dom g).st ≠ .on then 0
  else if isCompute g then (s.dom g).pt
  else (List.range 16).foldl (fun m d =>
    let x := s.dom (g / 19 * 19 + d)
    if x.st = .on ∨ x.st = .gating then max m x.pt else m) 3

def DomSt.code : DomSt → Nat
  | .on => 0
  | .gating => 1
  | .gated => 2
  | .waking => 3
  | .off => 4


/-- The nominal table of R377: guaranteed rate and voltage of a point. -/
def nominalPoint (p : Nat) : Nat × Nat :=
  (([1240, 1420, 1640, 1860, 1960, 2060, 2160, 2230][p]?).getD 0, ([600, 650, 700, 750, 790, 830, 870, 900][p]?).getD 0)

/-- A point of a domain's voltage table: guaranteed rate and voltage (R377). -/
def domPoint (s : State) (g p : Nat) : Nat × Nat := fgetD s.flash.points (8 * g + p) (nominalPoint p)

/-- A voltage table point (Table 14.2). -/
def pointWord (s : State) (g p : Nat) : Nat := (domPoint s g p).1 * 2 ^ 20 + (domPoint s g p).2 * 2 ^ 10

/-- The rate below which no compute or cache-half domain falls at a point, by its bay's sensors (R374), in M steps/s.
DESIGN CHOICE, log 106. -/
def rateFloor (s : State) (g p : Nat) : Nat :=
  let ts := (s.power.sensors.filter fun e => e.1 / 16 == g / 19).map (·.2)
  let within := fun (top : Int) => !ts.isEmpty && ts.all fun t => decide (0 ≤ t) && decide (t ≤ top)
  if 76 ≤ g ∨ g % 19 = 18 ∨ !within 10500 then 0
  else max (max 1200 (domPoint s g p).1) (if within 8500 then (if p = 7 then 2400 else if p = 3 then 2000 else 0) else 0)

/-- Are the domains of a bay held in reset (Table 14.1, Table 17.8)? -/
def bayDark (s : State) (n : Nat) : Bool := decide (n < 4) && (s.bay n).st == .resetting && !(s.bay n).draining

/-- Domain status (Table 14.1). The measured rate is a free value, not below what R374 guarantees. DESIGN CHOICE, log 106. -/
def domStatus (s : State) (g : Nat) : Nat :=
  let d := s.dom g
  let p := pointInUse s g
  let lo := rateFloor s g p
  let rate := if d.st = .on then lo + (Config.freeWord s.free).toNat % (4096 - lo) else 0
  let lim := (if isCompute g then d.lim else 63) * 256
  if bayDark s (g / 19) then lim + DomSt.off.code else rate * 2 ^ 20 + p * 2 ^ 17 + lim + d.st.code

/-- One grove of OD 0x4200:01 (Table 15.10). -/
def groveWord (s : State) (g : Nat) : Nat :=
  let e := groveEnt s g
  let gone := e.lost || (s.bay e.bay).st == .retired
  e.bay + 4 * e.col + 64 * e.row + 65536 * (if gone then 65535 else e.removed.toNat)

/-- Tenon status (Table 13.3); a tenon that its joint has not, or that has no power at an end, is not trained. -/
def tenonWord (s : State) (j t : Nat) : Nat :=
  let there := decide (t < (if j < 4 then 16 else 8)) &&
    (if j < 4 then bayUp s j && bayUp s ((j + 1) % 4)
     else if j < 8 then bayUp s (j - 4)
     else (s.die (j - 8)).powered)
  let x := s.tenon (16 * j + t)
  let w := if there then x.width else 3
  w * 2 ^ 28 + x.rep * 2 ^ 25 + (if x.train then 2 ^ 24 else 0) + x.retr * 2 ^ 16 + x.lane * 2 ^ 8

/-- The pool: what no function holds (R332). -/
def freeGroves (s : State) : List Nat :=
  let held := s.fns.flatMap (·.2.groves)
  (List.range 768).filter fun g => !held.contains g && !(groveEnt s g).lost && (s.bay (groveEnt s g).bay).st != .retired

def sumFns (s : State) (sub : Nat) : Nat := (List.range 64).foldl (fun n f => n + odNat s (0x6010 + f) sub) 0

/-- Scratch units of a function (OD 0x6010 + f:09), ascending. -/
def heldUnits (s : State) : List Nat := s.fns.flatMap (·.2.units)

def freeUnits (s : State) : List Nat :=
  let held := heldUnits s
  (List.range 256).filter fun u => !held.contains u

/-- Pinned lines of a half (R172). -/
def pinnedLines (s : State) (h : Nat) : Nat := (s.mem.lines.filter fun e => e.2.slice / 16 == h && e.2.pin.isSome).length

/-- A session record with the fields that the device reports (Table 13.10). -/
def sessionBytes (s : State) (n : Nat) : List Byte :=
  let x := s.session n
  let rec_ := leNat (odValue s (0x1600 + n) 0)
  leBytes 32 (rec_ / 2 ^ 128 * 2 ^ 128 + x.st * 2 ^ 124 + x.reason * 2 ^ 120 + x.pdig.toNat)

def opCode : OpState → Nat
  | .start => 0
  | .service => 1
  | .test => 2
  | .recovery => 3
  | .standby => 4

def numOf (n size : Nat) : Option (List Byte) := some (leBytes size n)

/-- Entries of indices 0x1000 to 0x2FFF that report present conditions. -/
def live1 (s : State) (idx sub : Nat) : Option (List Byte) :=
  if idx = 0x1000 then
    (match sub with
     | 1 => some ([90, 77, 52, 45, 55, 54, 56].map fun c => BitVec.ofNat 8 c)
     | 2 => some (s.flash.serial.take 16)
     | 3 => numOf (if s.mod.phase = .romRecovery then 0 else s.trust.runVersions.headD 0) 4
     | 4 => numOf s.mod.slotId.toNat 1
     | 5 => numOf s.flash.macBase.toNat 8
     | _ => none)
  else if idx = 0x1100 ∧ sub = 5 then numOf (s.flash.macBase.toNat + 16) 8
  else if idx = 0x1200 then
    (match sub with
     | 1 => numOf (match s.dict.peg with
        | none => 0
        | some .f => 1
        | some .h => 2) 1
     | 3 => numOf (if s.dict.peg.isSome then (s.dict.leaseEnd - s.now) / 1000000 else 0) 4
     | 4 => numOf s.dict.staged.length 2
     | _ => none)
  else if idx = 0x1300 then
    (match sub with
     | 1 => some (configDigest s)
     | 2 => numOf s.dict.generation 8
     | 3 => some (leBytes 8 s.dict.generation ++ configDigest s)
     | _ => none)
  else if 0x1400 ≤ idx ∧ idx < 0x1402 then
    let d := s.die (idx - 0x1400)
    (match sub with
     | 1 => numOf d.result 1
     | 2 => numOf d.reason 1
     | 3 => some d.ident
     | 4 => numOf d.trained 1
     | 5 => numOf d.rate 1
     | _ => none)
  else if 0x1410 ≤ idx ∧ idx < 0x1412 then
    let n := idx - 0x1410
    let d := s.die n
    if sub = 3 then numOf d.cfg 1
    else if 16 ≤ sub ∧ sub < 24 then numOf (fgetD d.ports (sub - 16) 0) 1
    else if 32 ≤ sub ∧ sub < 40 then numOf (s.flash.macBase.toNat + 8 * n + (sub - 32)) 8
    else none
  else if 0x1600 ≤ idx ∧ idx < 0x1A00 then some (sessionBytes s (idx - 0x1600))
  else if idx = 0x1F10 then
    (if sub = 0 then numOf s.dict.resets.length 1
     else match s.dict.resets[sub - 1]? with
       | some r => some (resetBytes r)
       | none => some [])
  else if idx = 0x2000 ∧ sub = 1 then numOf (opCode s.mod.op) 1
  else if idx = 0x2010 then
    (match sub with
     | 1 => numOf s.now 8
     | 2 => numOf (timeSource s) 1
     | _ => numOf s.mod.maxSkew 4)
  else none

/-- Entries of indices 0x3000 to 0x3FFF. -/
def live3 (s : State) (idx sub : Nat) : Option (List Byte) :=
  if idx = 0x3000 then
    (match sub with
     | 6 => numOf (meanOf (s.power.hist.map (·.1))) 4
     | 7 => numOf (meanOf (s.power.hist.map (·.2))) 4
     | 8 => numOf (meanOf (s.power.hist.map fun x => x.1 * x.2) / 1000000) 4
     | 9 => numOf s.power.fillerW 2
     | _ => none)
  else if idx = 0x3100 then numOf (domStatus s (sub - 1)) 4
  else if 0x3200 ≤ idx ∧ idx < 0x324C then
    (if sub ≤ 8 then numOf (pointWord s (idx - 0x3200) (sub - 1)) 4 else numOf (fgetD s.flash.fillerFj (idx - 0x3200) 0) 4)
  else if 0x3500 ≤ idx ∧ idx < 0x3505 ∧ sub = 9 then numOf (fgetD s.power.active (idx - 0x3500) 0) 1
  else if 0x3600 ≤ idx ∧ idx < 0x3604 then
    let n := idx - 0x3600
    if sub = 13 then some (i32Bytes (maxTemp ((s.power.sensors.filter fun e => e.1 / 16 == n).map (·.2))))
    else some (i32Bytes (fgetD s.power.sensors (16 * n + (sub - 1)) 0))
  else if 0x3610 ≤ idx ∧ idx < 0x3614 then some (i32Bytes (fgetD s.power.dies (8 * (idx - 0x3610) + (sub - 1)) 0))
  else if idx = 0x3620 then some (i32Bytes (fgetD s.power.spots (sub - 1) 0))
  else none

/-- Entries of indices 0x4000 to 0x5FFF. DEDUCED, log 86. -/
def live4 (s : State) (idx sub : Nat) : Option (List Byte) :=
  if idx = 0x4200 then some (u32s ((List.range 768).map (groveWord s)))
  else if idx = 0x4201 then some (u16s ((List.range 16).map girtCode))
  else if idx = 0x4210 then numOf (workingGroves s (sub - 1) % 65536 + (spares s (sub - 1)).length % 256 * 65536) 4
  else if 0x4400 ≤ idx ∧ idx < 0x440A then numOf (tenonWord s (idx - 0x4400) (sub - 1)) 4
  else if idx = 0x5001 then
    numOf (if sub = 0 then usableSize s else usableSize s - 768 * 0x100000 * odNat s 0x5002 4) 8
  else if idx = 0x5002 ∧ sub = 1 then numOf s.mem.mappedOut.length 2
  else if idx = 0x5002 ∧ sub = 3 then some (leBytes 128 (s.mem.mappedOut.foldl (fun n c => n + 2 ^ c) 0))
  else if idx = 0x5010 then numOf (pinnedLines s (sub - 1)) 4
  else if idx = 0x5030 then (if sub = 1 then numOf (carvedSize s) 4 else numOf (freeUnits s).length 2)
  else if idx = 0x5040 ∧ sub = 4 then numOf (linesToMove s) 8
  else if 0x5050 ≤ idx ∧ idx < 0x5054 then numOf (fgetD s.power.rows (8 * (idx - 0x5050) + (sub - 1)) 0) 1
  else if idx = 0x5070 ∧ sub = 2 then numOf (markedBands s).length 4
  else if idx = 0x5100 then some (u16s (s.flash.hashKey.map (·.toNat)))
  else none

/-- Entries of indices 0x6000 to 0xBFFF. -/
def live6 (s : State) (idx sub : Nat) : Option (List Byte) :=
  if idx = 0x6000 then
    (match sub with
     | 1 => numOf (freeGroves s).length 2
     | 2 => numOf (usableSize s / 0x40000000 - sumFns s 3) 4
     | 3 => numOf (4096 - sumFns s 4) 2
     | 4 => numOf (4096 - sumFns s 14) 2
     | _ => numOf (8192 - sumFns s 15) 2)
  else if idx = 0x6002 then numOf (bytesToZero s) 8
  else if 0x6010 ≤ idx ∧ idx < 0x6050 ∧ sub = 9 then some (u16s (s.fn (idx - 0x6010)).units)
  else if 0x6010 ≤ idx ∧ idx < 0x6050 ∧ sub = 18 then some (u16s (s.fn (idx - 0x6010)).groves)
  else if 0x8300 ≤ idx ∧ idx < 0x8308 then
    numOf (min (2 ^ 48 - 1) (odNat s idx sub) + s.obs.epochSh % 65536 * 2 ^ 48) 8
  else if 0x7400 ≤ idx ∧ idx < 0x7500 ∧ sub = 6 then numOf (s.chute (idx - 0x7400)).words.length 2
  else if idx = 0x9100 ∧ sub = 3 then numOf s.fell.st 1
  else if idx = 0xA000 then (if sub = 1 then numOf s.flash.boot.counter 4 else numOf s.trust.runSlot 1)
  else if idx = 0xB010 ∧ sub = 5 then some (u16s (s.test.errors.map (·.toNat)))
  else none

/-- The value a READ of an entry returns now. -/
def odNow (s : State) (idx sub : Nat) : List Byte :=
  let l := if idx < 0x3000 then live1 s idx sub
    else if idx < 0x4000 then live3 s idx sub
    else if idx < 0x6000 then live4 s idx sub
    else live6 s idx sub
  l.getD (odValue s idx sub)

/-- The free values that a READ of an entry draws. DESIGN CHOICE, log 8. -/
def odDraws (idx sub : Nat) : Nat := if idx = 0x3100 then 1 else 0

end Sys2Proof.Machine
end

