-- ==== Sys2Proof/Machine/DictRules.lean ====
section
/-! DEFINITION. The rules of single dictionary entries: which values an entry takes (R405 and each entry's own rule), and what
the device's state must be. -/

namespace Sys2Proof.Machine

/-! ## Values -/

/-- The bytes a number of `size` bytes has; longer input is cut. -/
def fitBytes (size : Nat) (b : List Byte) : List Byte := leBytes size (leNat b)

/-- Bits of a session record (Table 13.10) that must be 0, and ranges of its fields (R364). -/
def sessFieldsOk (v : Nat) : Bool :=
  decide (bits v 207 192 ≤ 1023) && bits v 191 188 == 0 && (decide (bits v 172 166 < 96) || bits v 172 166 == 0x7F) &&
  bits v 155 129 == 0

/-- A value against its entry's own range (R405, R411): the abort code of the first rule it breaks. DEDUCED, log 61. -/
def valueRule (r : OdRow) (idx sub : Nat) (b : List Byte) : Option Nat :=
  let v := leNat b
  if r.ty = .str ∨ r.ty = .blob then
    if 0x5200 ≤ idx ∧ idx < 0x5220 then
      (if bits v 63 36 ≠ 0 ∨ bits v 31 4 ≠ 0 then some 0x02000001 else none)
    else if 0x1600 ≤ idx ∧ idx < 0x1A00 ∧ !sessFieldsOk v then some 0x020000D4
    else none
  else if v < r.lo ∨ r.hi < v then some r.err
  else if idx = 0x1100 ∧ sub = 1 ∧ v = 0x88B6 then some 0x02000101
  else if idx = 0x5101 ∧ (bits v 31 26 ≠ 0 ∨ bits v 15 2 ≠ 0 ∨ bits v 1 0 = 3) then some 0x02000060
  else if 0x6010 ≤ idx ∧ idx < 0x6050 ∧ sub = 2 ∧ v % 2 ^ 30 ≠ 0 then some 0x020000C0
  else if 0x6010 ≤ idx ∧ idx < 0x6050 ∧ sub = 12 ∧ v % 0x100000 ≠ 0 then some 0x020000B5
  else if 0x7400 ≤ idx ∧ idx < 0x7500 ∧ sub = 1 ∧ 63 < v ∧ v ≠ 255 then some 0x02000080
  else if idx = 0x5060 ∧ sub = 1 ∧ v % 0x400000 ≠ 0 then some 0x02000070
  else none

/-! ## Regions and ranges -/

/-- The 16 region entries, in order: BANDS and KIND. -/
def regionEntries (s : State) : List (Nat × Nat) :=
  (List.range 16).map fun i =>
    let e := odNat s 0x5101 (i + 1)
    (bits e 25 16, bits e 1 0)

/-- A region table that R193 accepts; the marked 0 bits and KIND 3 are refused entry by entry. -/
def regionsOk (s : State) : Bool :=
  let l := (regionEntries s).takeWhile fun e => e.2 != 0
  l.all (fun e => e.1 != 0) && l.foldl (fun n e => n + e.1) 0 == 768

/-- The regions and sub-ranges of the address space, from an address: start, size in bytes, channels of the set (R192). -/
def regionSpans (s : State) : Nat → List (Nat × Nat) → List (Nat × Nat × Nat)
  | _, [] => []
  | a, (bands, kind) :: rest =>
    let set := dataSet s
    let sizes := if kind = 1 then [set.length] else (List.range 4).map fun n => (set.filter fun c => chanBay c == n).length
    let step := fun (acc : List (Nat × Nat × Nat) × Nat) (n : Nat) => (acc.1 ++ [(acc.2, bands * 1024 * n * 1024, n)], acc.2 + bands * 1024 * n * 1024)
    let (l, b) := sizes.foldl step ([], a)
    l ++ regionSpans s b rest

/-- The span that holds the whole of a range. -/
def spanOf (s : State) (a n : Nat) : Option (Nat × Nat × Nat) :=
  (regionSpans s 0 (regionTable s)).find? fun x => decide (x.1 ≤ a) && decide (a + n ≤ x.1 + x.2.1)

/-- Alignment and place of a mirrored range (R213, last case). -/
def mirrorOk (s : State) (r : Nat) : Bool :=
  match spanOf s (rangeBase r) (rangeSize r), spanOf s (rangeMbase r) (rangeSize r) with
  | some a, some b =>
    a == b && decide (0 < a.2.2) && rangeBase r % (1024 * a.2.2) == 0 && rangeSize r % (1024 * a.2.2) == 0 &&
      rangeMbase r % (1024 * a.2.2) == 0
  | _, _ => false

/-- The ranges a record takes: its own and its mirror's. -/
def rangeParts (r : Nat) : List (Nat × Nat) :=
  if rangeSize r = 0 then []
  else (rangeBase r, rangeSize r) :: (if r.testBit 2 then [(rangeMbase r, rangeSize r)] else [])

def partsMeet (l m : List (Nat × Nat)) : Bool := l.any fun a => m.any fun b => overlap a.1 a.2 b.1 b.2

/-- A range record among the others of a state (R213). DEDUCED, log 61. A mirror that overlaps its own range is refused with
0x02000063 too. DESIGN CHOICE, log 97. -/
def rangeRule (t : State) (e : Nat) : Option Nat :=
  let r := rangeRec t e
  let parts := rangeParts r
  if rangeBase r % 0x100000 ≠ 0 ∨ rangeSize r % 0x100000 ≠ 0 then some 0x02000062
  else if (r.testBit 2 ∧ !r.testBit 1) ∨ (!r.testBit 2 ∧ rangeMbase r ≠ 0) then some 0x02000064
  else if rangeSize r = 0 then none
  else if usableSize t < rangeBase r + rangeSize r then some 0x02000062
  else if (partsMeet (parts.take 1) (parts.drop 1)) ∨
      ((List.range 32).any fun o => o != e && partsMeet parts (rangeParts (rangeRec t o))) then some 0x02000063
  else if r.testBit 2 ∧ !mirrorOk t r then some 0x02000066
  else none

/-! ## Functions -/

/-- Is any context of a function resident: one of its whorls is on a core? -/
def fnResident (s : State) (f : Nat) : Bool :=
  s.cores.any fun c => c.2.slots.any fun w => ctxFn s (whorlCtx s w.2) == some f

/-- Is any context of a function switched out, or being so? -/
def fnSwitchedOut (s : State) (f : Nat) : Bool :=
  s.kerns.any fun e => (e.2.st == .saved || e.2.st == .saving) && ctxFn s e.2.ctx == some f

/-- Sub-indices of OD 0x6010 + f that are committed together (R333). -/
def shareSubs : List Nat := [1, 2, 3, 4, 8, 14, 15, 16, 17]

/-- Does a function hold resources: one of the sub-indices that a release sets to 0 is not 0? -/
def fnExists (s : State) (f : Nat) : Bool := [1, 3, 4, 8, 14, 15].any fun sub => odNat s (0x6010 + f) sub != 0

def fnHasCtx (s : State) (f : Nat) : Bool := s.ctxs.any fun e => e.2.f == f

/-- Is a change of resources a resize (R333): no creation and no release? -/
def isResize (s t : State) (f : Nat) : Bool :=
  !((!fnExists s f && fnExists t f) || (fnExists s f && !fnExists t f && !fnHasCtx s f))

/-- The groves a function gives up when it shrinks: its highest-numbered (R334). -/
def givenUp (l : List Nat) (want : Nat) : List Nat := l.drop want

/-- A grove that a shrink may not take: a resident whorl, a save area or a claim lies in it (Table 12.6). -/
def groveHeld (s : State) (g : Nat) : Bool :=
  (groveCores g).any (fun c => !(s.core c).slots.isEmpty) ||
  (s.kerns.any fun e => e.2.saved.any fun w => coreGrove w.core == g) ||
  (s.queues.any fun e => match e.2.job with
    | some j => j.claim.contains g
    | none => false)

/-- Functions whose resources differ between two states. -/
def changedFns (s t : State) : List Nat :=
  (List.range 64).filter fun f => shareSubs.any fun sub => odNat s (0x6010 + f) sub != odNat t (0x6010 + f) sub

/-- How much a list of held things grows and gives back over the changed functions. -/
def growth (s t : State) (sub : Nat) (held : Nat → List Nat) : Nat × Nat :=
  ((changedFns s t).filter fun f => odNat s (0x6010 + f) sub != odNat t (0x6010 + f) sub).foldl
    (fun acc f =>
      let have_ := (held f).length
      let want := odNat t (0x6010 + f) sub
      (acc.1 + (want - have_), acc.2 + (have_ - want))) (0, 0)

/-- Does a function's share of a state overlap another's, or reach above usable DRAM? -/
def shareBad (t : State) (f : Nat) : Bool :=
  decide (0 < shareSize t f) && (decide (usableSize t < shareBase t f + shareSize t f) ||
    (List.range 64).any fun g => g != f && overlap (shareBase t f) (shareSize t f) (shareBase t g) (shareSize t g))

/-- The resources of function f in a state t that would follow s (Table 12.6, R175). -/
def resourceRule (s t : State) (f : Nat) : Option Nat :=
  let (needG, giveG) := growth s t 1 fun g => (s.fn g).groves
  let (needU, giveU) := growth s t 8 fun g => (s.fn g).units
  let up := fun (sub : Nat) => decide (odNat s (0x6010 + f) sub < odNat t (0x6010 + f) sub)
  let lost := if odNat s (0x6010 + f) 1 = odNat t (0x6010 + f) 1 then []
    else givenUp (s.fn f).groves (odNat t (0x6010 + f) 1)
  if (isResize s t f ∧ (s.mod.op = .service ∨ s.mod.op = .standby)) ∨ s.mod.op = .standby then some 0x03000002
  else if shareBad t f ∧ [2, 3].any (fun sub => odNat s (0x6010 + f) sub != odNat t (0x6010 + f) sub) then some 0x020000C1
  else if (freeGroves s).length + giveG < needG ∨ (up 4 ∧ 4096 < sumFns t 4) ∨ (up 14 ∧ 4096 < sumFns t 14) ∨
      (up 15 ∧ 8192 < sumFns t 15) then some 0x060000C2
  else if lost.any (groveHeld s) ∨ odNat t (0x6010 + f) 4 < (s.queues.filter fun e => e.2.f == f).length ∨
      odNat t (0x6010 + f) 14 < (s.ctxs.filter fun e => e.2.f == f).length then some 0x030000C3
  else if (freeUnits s).length + giveU < needU then some 0x06000051
  else none

/-! ## The state an entry's rule asks for -/

/-- Ports that a session record may name: those of the configuration in use, or of the committed one while the die is not
admitted. -/
def portsOf (t : State) (n : Nat) : Nat :=
  let d := t.die n
  portCount (if d.cfg = 0xFF then odNat t (0x1410 + n) 1 else d.cfg)

/-- A session record among the others (R364). -/
def sessionRule (s t : State) (n : Nat) : Option Nat :=
  let v := sessRec t n
  let st := (s.session n).st
  if portsOf t (sessDie t n) ≤ sessPort t n then some 0x020000D4
  else if bits v 172 166 ≠ 0x7F ∧ (t.dict.od.any fun e =>
      e.1 % 256 == 0 && decide (0x1600 ≤ e.1 / 256) && decide (e.1 / 256 < 0x1A00) && e.1 / 256 != 0x1600 + n &&
        bits (leNat e.2) 172 166 == bits v 172 166) then some 0x020000D4
  else if (st = 1 ∨ st = 2) ∧ v / 2 ^ 129 ≠ leNat (odValue s (0x1600 + n) 0) / 2 ^ 129 then some 0x030000D5
  else none

/-- The save area of a partition (R314). -/
def saveRule (s t : State) (f : Nat) : Option Nat :=
  let base := odNat t (0x6010 + f) 12
  if base ≠ odNat s (0x6010 + f) 12 ∧ !(decide (shareBase t f ≤ base) && decide (base < shareBase t f + shareSize t f)) then some 0x020000B5
  else if fnSwitchedOut s f then some 0x030000B6
  else none

/-- The bias table's base (R231). -/
def biasRule (s t : State) : Option Nat :=
  let base := odNat t 0x5060 1
  if base ≠ 0 ∧ usableSize t < base + 0x300000 then some 0x02000070
  else if base ≠ 0 ∧ (List.range 32).any (fun e => partsMeet [(base, 0x300000)] (rangeParts (rangeRec t e))) then some 0x02000070
  else if s.mem.bias.any fun e => e.2 != 0 then some 0x03000071
  else none

/-- A change of an entry, from state s to the values of t: the abort code of the rule it breaks (R412). -/
def stateRule (s t : State) (idx sub : Nat) : Option Nat :=
  if 0x1410 ≤ idx ∧ idx < 0x1412 ∧ sub = 1 then
    let n := idx - 0x1410
    if (s.die n).cfg ≠ 0xFF ∧ !offers (leNat (s.die n).ident) (odNat t idx 1) then some 0x020000D0
    else if s.sess.any (fun e => sessDie s e.1 == n && e.2.st != 0) then some 0x030000D3
    else none
  else if 0x1600 ≤ idx ∧ idx < 0x1A00 then sessionRule s t (idx - 0x1600)
  else if idx = 0x3020 then (if odNat t idx sub = 1 ∧ sleepRefused s (sub - 1) then some 0x030000E1 else none)
  else if idx = 0x5040 ∧ sub = 1 then
    (if s.mod.op ≠ .test then some 0x03000060
     else if odNat t idx sub = 2 ∧ !(retiredBays s).isEmpty then some 0x03000062
     else none)
  else if idx = 0x5101 then
    (if s.mod.op ≠ .test then some 0x03000060 else if regionsOk t then none else some 0x02000060)
  else if 0x5200 ≤ idx ∧ idx < 0x5220 then rangeRule t (idx - 0x5200)
  else if idx = 0x5060 ∧ sub = 1 then biasRule s t
  else if 0x6010 ≤ idx ∧ idx < 0x6050 then
    let f := idx - 0x6010
    if shareSubs.contains sub then resourceRule s t f
    else if sub = 6 ∧ fnResident s f then some 0x03000041
    else if sub = 10 ∧ fnResident s f then some 0x030000B3
    else if sub = 11 ∨ sub = 12 ∨ sub = 13 then saveRule s t f
    else none
  else if 0x7400 ≤ idx ∧ idx < 0x7500 ∧ (sub = 1 ∨ sub = 2) then
    let x := s.chute (idx - 0x7400)
    if !x.words.isEmpty || x.inPkt || !x.flush.isEmpty then some 0x03000081 else none
  else if idx = 0xB010 ∧ s.mod.op ≠ .test then some 0x030000D2
  else none

end Sys2Proof.Machine
end

