-- ==== Sys2Proof/Machine/DictApply.lean ====
section
/-! DEFINITION. What a dictionary value does when it takes effect (R193, R231, R334, R361, R366, R382), and the record of what
changed (R415, R423). -/

namespace Sys2Proof.Machine

/-! ## Scratch units (R175, R177) -/

/-- A unit is carved: near copies in its ways go, and lines leave them, at once where no recall is needed (R177). The unit is already its
partition's, so that no allocation takes the ways. DEDUCED, log 65. -/
def carveUnit (s : State) (u : Nat) : State :=
  let n := 16 * (u % 8) + 2 * (u / 8 % 8)
  let w := 15 - u / 64
  let nears := s.mem.near.filter fun x => (16 * x.half + x.slice) / 2 == n / 2 && x.way == w
  let lines := (s.mem.lines.filter fun e => e.2.slice / 2 == n / 2 && !e.2.ovf && e.2.way == w).map (·.1)
  lines.foldl leaveWay (nears.foldl evictNear s)

/-! ## Function resources (R334) -/

/-- Groves leave a function, and every granule in them is zeroed. -/
def loseGroves (s : State) (gs : List Nat) : State :=
  (gs.flatMap groveCores).foldl (fun t c =>
    let x := t.core c
    if x.granules.isEmpty then t
    else t.setCore c { x with granules := [], zeroing := (x.granules.map (·.1)).foldl insAsc x.zeroing }) s

/-- Lines [a, b) that are usable are marked. -/
def zeroSpan (s : State) (a b : Nat) : State :=
  let hi := min b (usableLines s)
  if a < hi then markZero s a hi else s

/-- What leaves a function: groves, units and memory (R334). DEDUCED, log 62. -/
def shrinkFn (s : State) (t : State) (f : Nat) : State :=
  let x := t.fn f
  let wantG := if odNat s (0x6010 + f) 1 = odNat t (0x6010 + f) 1 then x.groves.length else odNat t (0x6010 + f) 1
  let wantU := odNat t (0x6010 + f) 8
  let t1 := clearUnits (loseGroves t (givenUp x.groves wantG)) (x.units.drop wantU)
  let t2 := t1.setFn f { t1.fn f with groves := x.groves.take wantG, units := x.units.take wantU }
  let a := shareBase s f / 1024
  let b := (shareBase s f + shareSize s f) / 1024
  let c := shareBase t f / 1024
  let d := (shareBase t f + shareSize t f) / 1024
  if (a = c ∧ b = d) ∨ a = b then t2
  else if c = d then zeroSpan t2 a b
  else zeroSpan (zeroSpan t2 a (min b c)) (max a d) b

/-- What a function takes: the lowest-numbered free groves and units (R175, R334); a unit reads as zero when it is assigned (R178). -/
def growFn (s : State) (t : State) (f : Nat) : State :=
  let x := t.fn f
  let wantG := if odNat s (0x6010 + f) 1 = odNat t (0x6010 + f) 1 then 0 else odNat t (0x6010 + f) 1 - x.groves.length
  let wantU := odNat t (0x6010 + f) 8 - x.units.length
  let gs := (freeGroves t).take wantG
  let us := (freeUnits t).take wantU
  let t1 := t.setFn f { x with groves := gs.foldl insAsc x.groves, units := us.foldl insAsc x.units }
  us.foldl carveUnit (clearUnits t1 us)

/-- The commit of function resources: releases, then what leaves, then what is taken (R333, R334). -/
def applyShares (s t : State) : State :=
  let fs := changedFns s t
  let freed := fs.filter fun f => fnExists s f && !fnExists t f && !fnHasCtx s f
  let t1 := freed.foldl (flrRelease s) t
  fs.foldl (growFn s) (fs.foldl (shrinkFn s) t1)

/-! ## Regions and parity (R193) -/

/-- The data sets are rebuilt and all of DRAM reads as zero. -/
def rebuildSets (t : State) : State :=
  let clear := fun (e : Nat × Bay) => (e.1, { e.2 with marked := [], bands := [] })
  let ranges := fun (k : Nat) => decide (0x520000 ≤ k) && decide (k < 0x522000)
  let t1 := { t with bays := t.bays.map clear,
                     dict := { t.dict with od := t.dict.od.filter fun e => !ranges e.1 } }
  let m := t1.mem
  let t2 := t1.setMem { m with
    setOut := m.mappedOut, mapouts := [], rebuildBad := 0, dram := [], llc := [], mirror := [], lines := [], near := [],
    mirrorPois := [], dramPois := [], poisBands := [], covered := [], stripes := [], unsure := [], sure := [], orphans := [],
    bias := [], biasCache := [] }
  let t3 := odPutNat t2 0x5040 3 0
  writeSpareMap (t3.setMem { t3.mem with zeroMarks := [(0, usableLines t3)] })

/-! ## One entry takes effect -/

def isRegionKey (k : Nat) : Bool := k == odKey 0x5040 1 || k / 256 == 0x5101

def isShareKey (k : Nat) : Bool := decide (0x6010 ≤ k / 256) && decide (k / 256 < 0x6050) && shareSubs.contains (k % 256)

/-- The effect of one entry, whose value is already in the store of t; s is the state before. DEDUCED, log 77. -/
def effectOf (s : State) (t : State) (k : Nat) : State :=
  let idx := k / 256
  let sub := k % 256
  if 0x1410 ≤ idx ∧ idx < 0x1412 ∧ sub = 1 then (if (t.die (idx - 0x1410)).cfg = 0xFF then t else takeConfig t (idx - 0x1410))
  else if 0x1600 ≤ idx ∧ idx < 0x1A00 then
    let n := idx - 0x1600
    if sessEn t n ∧ !sessEn s n then openSession t n
    else if !sessEn t n ∧ sessEn s n then closeSession t n
    else t
  else if idx = 0x3020 then
    (if odNat t idx sub = 0 then wakeAsked t (sub - 1)
     else if bayUp t (sub - 1) ∧ !(t.bay (sub - 1)).draining then beginSleep t (sub - 1) false
     else t)
  else if idx = 0x5060 ∧ sub = 1 then t.setMem { t.mem with bias := [], biasCache := [] }
  else if idx = 0x8010 ∧ sub = 3 ∧ odNat t idx sub = 1 ∧ odNat s idx sub = 0 then { t with obs := { t.obs with rlWptr := 0 } }
  else if idx = 0x8020 ∧ sub = 1 then t.setMem { t.mem with relMem := [] }
  else t

/-- All effects of a set of entries, in one instant (R412). -/
def applyAllEffects (s t : State) (ks : List Nat) : State :=
  let t1 := if ks.any isRegionKey then rebuildSets t else t
  let t2 := if ks.any isShareKey then applyShares s t1 else t1
  ks.foldl (effectOf s) t2

/-! ## What is stored, and what is recorded of it -/

/-- The bytes that are stored for an accepted value: a record keeps the fields that the device reports (Tables 07.7, 13.10).
DEDUCED, log 60. -/
def storeForm (s : State) (idx sub : Nat) (b : List Byte) : List Byte :=
  let v := leNat b
  if 0x1600 ≤ idx ∧ idx < 0x1A00 then leBytes 32 (v / 2 ^ 128 * 2 ^ 128)
  else if 0x5200 ≤ idx ∧ idx < 0x5220 then
    let old := leNat (odValue s idx sub)
    let moved := v / 2 ^ 64 ≠ old / 2 ^ 64 ∨ rangeSize v = 0
    let sync := !(old.testBit 3 && !v.testBit 3) && v.testBit 2
    let ro := if moved then 0 else bits old 35 33 * 2 ^ 33 + (if old.testBit 32 ∧ sync then 2 ^ 32 else 0)
    leBytes 32 (v / 2 ^ 64 * 2 ^ 64 + ro + v % 16)
  else b

/-- The part of a value that software sets; two values are equal when it is (R412). -/
def sameValue (idx : Nat) (a b : List Byte) : Bool :=
  if 0x1600 ≤ idx ∧ idx < 0x1A00 then leNat a / 2 ^ 128 == leNat b / 2 ^ 128
  else if 0x5200 ≤ idx ∧ idx < 0x5220 then leNat a / 2 ^ 64 == leNat b / 2 ^ 64 && leNat a % 16 == leNat b % 16
  else a == b

def rowOf (k : Nat) : Option OdRow := odRow (k / 256) (k % 256)

def isPKey (k : Nat) : Bool := (rowOf k).any fun r => r.per == .p

def isConfigKey (k : Nat) : Bool := (rowOf k).any fun r => odConfig r (k / 256) (k % 256)

/-- The dictionary record is written where it can be signed (R423, R431). DEDUCED, log 63. -/
def writeDictRecord (s : State) : State :=
  if s.trust.keyAvailable then { s with flash := { s.flash with dictP := s.dict.od.filter fun e => isPKey e.1 } } else s

/-- After values have changed: the generation (R415) and module flash. -/
def noteChange (t : State) (ks : List Nat) : State :=
  let t1 := if ks.any isConfigKey then bumpGeneration t else t
  if ks.any isPKey then writeDictRecord t1 else t1

end Sys2Proof.Machine
end

