-- ==== Sys2Proof/Machine/Scribe.lean ====
section
/-! DEFINITION. The operations of Scribe (Table 15.4): reads, writes, staging, the peg and the commit (R403 to R413, R500). -/

namespace Sys2Proof.Machine

/-! ## Values at an offset (R500) -/

/-- The value that bytes at an offset (in bytes) make of a present value. DEDUCED, log 60. -/
def splice (old : List Byte) (off : Nat) (b : List Byte) : List Byte :=
  if off = 0 then b
  else sliceD old 0 off 0#8 ++ b ++ old.drop (off + b.length)

def isText (r : OdRow) : Bool := r.ty == .str || r.ty == .blob

/-- LEN and OFF of a WRITE or STAGE against the type and size (R405). DEDUCED, log 60. -/
def lengthRule (r : OdRow) (off : Nat) (b : List Byte) : Option Nat :=
  if isText r then (if r.size < 4 * off ∨ r.size < 4 * off + b.length then some 0x01000006 else none)
  else if b.length ≠ r.size then some 0x01000005
  else if off ≠ 0 then some 0x01000006
  else none

/-! ## READ, INFO, NEXT -/

/-- Entries that the boot ROM answers for (R430). -/
def romEntry (idx sub : Nat) : Bool :=
  (decide (0x1000 ≤ idx) && decide (idx < 0x1400)) || idx == 0x1F10 || (idx == 0x2000 && sub == 1) || idx == 0xA000

/-- READ of an entry; `room` is what the response has left for data. -/
def readOp (s : State) (idx sub len off room : Nat) : OdRes :=
  if romOnly s ∧ !romEntry idx sub then .abort 0x05000001
  else match odRow idx sub with
    | none => .abort 0x01000001
    | some r =>
      let v := odNow s idx sub
      let t := { s with free := s.free + odDraws idx sub }
      if r.acc = .wo then .abort 0x01000003
      else if isText r then
        (if r.size < 4 * off ∨ r.size < 4 * off + len then .abort 0x01000006
         else
           let rest := v.drop (4 * off)
           if len = 0 then .ok t (rest.take (room / 4 * 4)) else .ok t (rest.take len))
      else if len ≠ 0 then .abort 0x01000005
      else if off ≠ 0 then .abort 0x01000006
      else .ok t v

def OdAcc.code : OdAcc → Nat
  | .ro => 0
  | .wo => 1
  | .rw => 2
  | .rws => 3

def OdPer.code : OdPer → Nat
  | .p => 0
  | .s => 1
  | .v => 2
  | .t => 3

/-- INFO of an entry (Table 15.4). -/
def infoOp (s : State) (idx sub : Nat) : OdRes :=
  if romOnly s ∧ !romEntry idx sub then .abort 0x05000001
  else match odRow idx sub with
    | none => .abort 0x01000001
    | some r =>
      let flags := (if odConfig r idx sub then 1 else 0) + (if isStaged s idx sub then 2 else 0)
      .ok s (leBytes 4 (r.ty.code + r.acc.code * 2 ^ 8 + r.per.code * 2 ^ 16 + flags * 2 ^ 24) ++ leBytes 4 r.size ++
        leBytes 8 (if isText r then 0 else odDefault s idx sub))

/-- The first entry of a descriptor row above INDEX:SUB. -/
def rowNext (r : OdRow) (idx sub : Nat) : Option Nat :=
  if idx < r.iLo then some (odKey r.iLo r.sLo)
  else if r.iHi < idx then none
  else if sub < r.sHi then some (odKey idx (max r.sLo (sub + 1)))
  else if idx < r.iHi then some (odKey (idx + 1) r.sLo)
  else none

/-- The next entry above INDEX:SUB, or none after the last. -/
def nextKey (idx sub : Nat) : Option Nat :=
  (odAllRows.filterMap fun r => rowNext r idx sub).foldl (fun m k => match m with
    | none => some k
    | some x => some (min x k)) none

def nextOp (s : State) (idx sub : Nat) : OdRes :=
  if romOnly s ∧ !romEntry idx sub then .abort 0x05000001
  else .ok s (leBytes 4 ((nextKey idx sub).getD 0xFFFFFFFF))

/-! ## WRITE -/

/-- A write of an entry that is an order to the device (WO entries). -/
def orderOp (s : State) (idx sub v : Nat) : OdRes :=
  let once := fun (op : State → OdRes) => if v = 0 then odOk s else op s
  if idx = 0x2000 ∧ sub = 2 then stateReq v s
  else if idx = 0x2000 then moduleResetReq v s
  else if idx = 0x4211 then retireGrove v s
  else if idx = 0x5002 then opMapOut v s
  else if idx = 0x7010 then opQueueResume v s
  else if idx = 0x9100 ∧ sub = 1 then fellReq v s
  else if idx = 0x9100 then resumeReq v s
  else if idx = 0xB010 then once tenonTestStart
  else if 0x7400 ≤ idx ∧ idx < 0x7500 then once fun t => odOk (chuteFlush t (idx - 0x7400) none)
  else once (readmit (idx - 0x1400))

/-- Entries whose rule speaks of any write, changed or not (R129, R231, R296, R302, R358). -/
def ruleAlways (idx sub : Nat) : Bool :=
  (decide (0x6010 ≤ idx) && decide (idx < 0x6050) && (sub == 6 || sub == 10)) || (idx == 0x5060 && sub == 1) ||
  (decide (0x7400 ≤ idx) && decide (idx < 0x7500)) || idx == 0xB010

/-- A value of an RW entry takes effect directly (R399, R413). -/
def setOp1 (s : State) (idx sub : Nat) (b : List Byte) : OdRes :=
  let k := odKey idx sub
  let same := sameValue idx b (odValue s idx sub)
  let t := odPut s idx sub b
  if same ∧ !ruleAlways idx sub then odOk s
  else match stateRule s t idx sub with
    | some c => .abort c
    | none => odOk (let u := applyAllEffects s t [k]
                    if same then u else noteChange u [k])

/-- WRITE of an entry. -/
def writeOp (s : State) (idx sub off : Nat) (b : List Byte) : OdRes :=
  if romOnly s then .abort 0x05000001
  else match odRow idx sub with
    | none => .abort 0x01000001
    | some r =>
      if r.acc = .ro then .abort 0x01000002
      else if r.acc = .rws then .abort 0x01000004
      else match lengthRule r off b with
        | some c => .abort c
        | none =>
          if isStaged s idx sub then .abort 0x04000003
          else match valueRule r idx sub b with
            | some c =>
              if idx = 0x2000 ∧ sub = 2 then orderOp s idx sub (leNat b) else .abort c
            | none =>
              if r.acc = .wo then orderOp s idx sub (leNat b)
              else if idx = 0x3020 then (if leNat b = 1 then sleepRequest (sub - 1) s else wakeRequest (sub - 1) s)
              else setOp1 s idx sub b

/-! ## The peg (Table 15.6) -/

/-- The lease starts anew at the length of OD 0x1200:02, in ms. DEDUCED, log 62. -/
def startLease (s : State) : State := { s with dict := { s.dict with leaseEnd := s.now + 1000000 * odNat s 0x1200 2 } }

def takeOp (s : State) (p : Port) : OdRes :=
  match s.dict.peg with
  | none => odOk (startLease { s with dict := { s.dict with peg := some p, staged := [] } })
  | some q => if q = p then odOk (startLease s) else .abort 0x04000001

/-- An operation that only the peg's holder may make. -/
def withPeg (s : State) (p : Port) (op : State → OdRes) : OdRes := if s.dict.peg = some p then op s else .abort 0x04000002

def renewOp (s : State) (p : Port) : OdRes := withPeg s p fun t => odOk (startLease t)

def releaseOp (s : State) (p : Port) : OdRes := withPeg s p fun t => odOk (freePeg t)

def discardOp (s : State) (p : Port) : OdRes :=
  withPeg s p fun t => odOk (startLease { t with dict := { t.dict with staged := [] } })

/-- A refusal that restarts the lease all the same. -/
def refuseHeld (s : State) (code : Nat) : OdRes := .refuse (startLease s) code []

/-- STAGE of an entry (R411). -/
def stageOp (s : State) (p : Port) (idx sub off : Nat) (b : List Byte) : OdRes :=
  withPeg s p fun t =>
    match odRow idx sub with
    | none => refuseHeld t 0x01000001
    | some r =>
      if r.acc = .ro ∨ r.acc = .wo then refuseHeld t 0x01000002
      else match lengthRule r off b with
        | some c => refuseHeld t c
        | none =>
          let old := (fget t.dict.staged (odKey idx sub)).getD (odNow t idx sub)
          let v := if isText r then splice old (4 * off) b else b
          match valueRule r idx sub v with
          | some c => refuseHeld t c
          | none =>
            let st := fset t.dict.staged (odKey idx sub) v
            if 64 < st.length ∨ 4096 < st.foldl (fun n e => n + e.2.length) 0 then refuseHeld t 0x060000F0
            else odOk (startLease { t with dict := { t.dict with staged := st } })

/-- A refused commit: it counts, and names the entry (R412). DEDUCED, log 62. DEDUCED, log 105. -/
def refuseCommit (s : State) (code key : Nat) : OdRes := .refuse (odAdd (startLease s) 0x1200 7 1) code (leBytes 4 key)

/-- COMMIT: every check on the staged values, then all of them in one instant (R412). `flashOk` says that module flash takes the
write that P-class values need. DEDUCED, log 62. -/
def commitOp (s : State) (p : Port) (flashOk : Bool) : OdRes :=
  withPeg s p fun s0 =>
    let staged := s0.dict.staged
    if staged.isEmpty then .ok (startLease s0) (leBytes 4 0)
    else
      let diff := staged.filter fun e => !sameValue (e.1 / 256) e.2 (odValue s0 (e.1 / 256) (e.1 % 256))
      let ks := diff.map (·.1)
      let t := diff.foldl (fun u e => odPut u (e.1 / 256) (e.1 % 256) (storeForm s0 (e.1 / 256) (e.1 % 256) e.2)) s0
      match ks.findSome? fun k => (stateRule s0 t (k / 256) (k % 256)).map fun c => (c, k) with
      | some (c, k) => refuseCommit s0 c k
      | none =>
        match staged.find? fun e => isPKey e.1 && (!s0.trust.keyAvailable || (!flashOk && ks.contains e.1)) with
        | some e => refuseCommit s0 0x07000001 e.1
        | none =>
          let u := noteChange (applyAllEffects s0 t ks) ks
          .ok (odAdd (startLease { u with dict := { u.dict with staged := [] } }) 0x1200 6 1) (leBytes 4 0)

/-! ## The commands of one record -/

/-- A single record's answer has this room for data: the message limit of the port (R402) less the headers and the code. DEDUCED, log 64. -/
def oneRoom (p : Port) : Nat := match p with
  | .f => 1500 - 28
  | .h => 1536 - 28

/-- An operation that works in ROM recovery as well. -/
def viaPortRom (s : State) (p : Port) (r : OdRes) : State := if portWorks s p then answer s p r else s

def execRead (p : Port) (index : W16) (sub : Byte) (len : BitVec 12) (off : BitVec 20) (s : State) : Host.Outcome State Fault Refusal :=
  .next (viaPortRom s p (readOp s index.toNat sub.toNat len.toNat off.toNat (oneRoom p)))

def execInfo (p : Port) (index : W16) (sub : Byte) (s : State) : Host.Outcome State Fault Refusal :=
  .next (viaPortRom s p (infoOp s index.toNat sub.toNat))

def execNext (p : Port) (index : W16) (sub : Byte) (s : State) : Host.Outcome State Fault Refusal :=
  .next (viaPortRom s p (nextOp s index.toNat sub.toNat))

def execWrite (p : Port) (index : W16) (sub : Byte) (off : BitVec 20) (data : List Byte) (s : State) : Host.Outcome State Fault Refusal :=
  .next (viaPort s p fun t => writeOp t index.toNat sub.toNat off.toNat data)

def execStage (p : Port) (index : W16) (sub : Byte) (off : BitVec 20) (data : List Byte) (s : State) : Host.Outcome State Fault Refusal :=
  .next (viaPort s p fun t => stageOp t p index.toNat sub.toNat off.toNat data)

def execPegTake (p : Port) (s : State) : Host.Outcome State Fault Refusal := .next (viaPort s p fun t => takeOp t p)

def execPegRenew (p : Port) (s : State) : Host.Outcome State Fault Refusal := .next (viaPort s p fun t => renewOp t p)

def execPegRelease (p : Port) (s : State) : Host.Outcome State Fault Refusal := .next (viaPort s p fun t => releaseOp t p)

def execDiscard (p : Port) (s : State) : Host.Outcome State Fault Refusal := .next (viaPort s p fun t => discardOp t p)

def execCommit (p : Port) (flashOk : Bool) (s : State) : Host.Outcome State Fault Refusal :=
  .next (viaPort s p fun t => commitOp t p flashOk)

/-- LEASE_EXPIRY: the lease has run out; staged changes go, and the peg is free (Table 15.6). -/
def execLeaseExpiry (s : State) : Host.Outcome State Fault Refusal :=
  .next (if s.dict.peg.isSome ∧ s.dict.leaseEnd ≤ s.now then odAdd (freePeg s) 0x1200 5 1 else s)

end Sys2Proof.Machine
end

