-- ==== Sys2Proof/Machine/HostLink.lean ====
section
/-! DEFINITION. The host link's side of the module: BAR4 (R326 to R328), control-page registers (R329, R330, R339), the mailbox
(R331), function-level reset and VFs (R325, R334, R335), ATS (R338, R340), IDE and the loss of a link (R341 to R343, R496). -/

namespace Sys2Proof.Machine

/-! ## Views -/

/-- Does function f exist in the view of port p (R324)? -/
def inView (s : State) (p f : Nat) : Bool :=
  decide (f = 0) || ((s.port p).vfEnable && decide (f ≤ (s.port p).numVfs) && decide (f < 64))

/-- Do TLPs reach the module through a port: its link is up and domain 77 on? -/
def linkWorks (s : State) (p : Nat) : Bool := decide (p < 2) && (s.dom 77).st == .on && (s.port p).up

/-- Does the port take BAR accesses: no IDE required, or the link stream Secure (R341)? -/
def ideOk (s : State) (p : Nat) : Bool := odNat s 0x6001 (9 + p) == 0 || (s.port p).secure

/-! ## BAR4 -/

/-- What a function's BAR4 reaches (R326, R327); a write that R214 refuses is one of anything else. The PF reaches every granule, of
any partition or of none: R327 is followed before R153. DESIGN CHOICE, log 95. -/
def barReach (s : State) (f : Nat) (write : Bool) (pa len : Nat) : Bool :=
  decide (pa + len ≤ 0x013000000000) &&
  (match regionOf pa with
   | .dram =>
     decide (pa + len ≤ usableSize s) && !inBiasTable s pa len && !(write && writeRefused s pa len) &&
       (f == 0 || inShare s f pa len || (!write && rangeGranted s f pa len))
   | .scratch => decide (pa - scratchBase < carvedSize s) && (f == 0 || scratchOf s f pa) && (unitOwner s ((pa - scratchBase) / 0x100000)).isSome
   | .store => (f == 0 && coreUsed s (storeCore pa) && decide (storeGranule pa < 32)) || storeOf s f pa
   | .chute => decide (chuteOf pa < 256) && (f == 0 || odNat s (0x7400 + chuteOf pa) 1 == f)
   | _ => false)

/-- The pieces of an access, each within one line, block or window. -/
def barPieces : Nat → Nat → Nat → List (Nat × Nat)
  | 0, _, _ => []
  | n + 1, pa, len =>
    if len = 0 then []
    else
      let k := min len (pieceRoom pa)
      (pa, k) :: barPieces n (pa + k) (len - k)

/-- Asks every piece that its home must answer first; does any wait? -/
def askPieces (s : State) (p f : Nat) (ps : List (Nat × Nat)) : Bool × State :=
  ps.foldl (fun acc x => match engineRead acc.2 (.bar p f) 4096 f false x.1 x.2 0 [] with
    | .wait t => (true, t)
    | .data _ _ _ _ => acc) (false, s)

/-- Takes the pieces, all of which are ready: bytes, poison, and the worst status. -/
def takePieces (s : State) (p f : Nat) (ps : List (Nat × Nat)) : List Byte × Bool × Nat × State :=
  ps.foldl (fun acc x => match engineRead acc.2.2.2 (.bar p f) 4096 f false x.1 x.2 0 [] with
    | .wait t => (acc.1, acc.2.1, acc.2.2.1, t)
    | .data b pois bad t => (acc.1 ++ b, acc.2.1 || pois, max acc.2.2.1 bad, t)) ([], false, 0, s)

/-- BAR4_READ: an NR request (R328). Status 0 is data, 1 EP set, 2 Completer Abort, 3 Unsupported Request. A read that its home
must answer first completes when the command comes again. -/
def execBar4Read (port f : Nat) (off : Nat) (len : Nat) (s : State) : Host.Outcome State Fault Refusal :=
  .next (
    if !linkWorks s port then s
    else if !inView s port f || !ideOk s port then s.emit (.barData port f [] 3)
    else if !barReach s f false off len then s.emit (.barData port f [] 2)
    else
      let ps := barPieces len off len
      let (waits, s1) := askPieces s port f ps
      if waits then s1
      else
        let (b, pois, bad, s2) := takePieces s port f ps
        if bad = 9 ∧ (regionOf off = .store ∨ regionOf off = .scratch) then s2.emit (.barData port f [] 2)
        else s2.emit (.barData port f b (if pois || bad = 9 then 1 else 0)))

/-- BAR4_WRITE: a write by an agent without a cache, or a host port's chute write (R297, R327, R328). -/
def execBar4Write (port f : Nat) (off : Nat) (data : List Byte) (s : State) : Host.Outcome State Fault Refusal :=
  .next (
    if !linkWorks s port ∨ !inView s port f ∨ !ideOk s port then s
    else if !barReach s f true off data.length then odAdd s 0x6001 8 1
    else if regionOf off = .chute then
      (if chuteBusy s off || hostBehind s (.hostPort port) then s else chuteSpaceWrite s off (some (.hostPort port)) data)
    else (engineWrite s (.bar port f) 4096 off data false).2)

/-! ## Control-page registers -/

/-- ERR_CAUSE: a write of 1 clears a bit (R330). -/
def execErrCause (f : Nat) (value : W64) (s : State) : Host.Outcome State Fault Refusal :=
  .next (if f < 64 ∧ (s.dom 77).st = .on then s.setFn f { s.fn f with err := (s.fn f).err &&& ~~~(value.truncate 5) } else s)

/-- Does a request still use a translation that TLB_INV names: read not returned, write not acknowledged or handed (R339)? -/
def usesOld (ctx upTo : Nat) (r : Req) : Bool :=
  r.ctx == ctx && decide (r.id < upTo) && !(isWriteKind r.kind && handedWrite r)

/-- Does a cached translation serve a page of a span: its own page, or any of its 64 KiB group (R337)? -/
def servesSpan (e : Nat × Nat × W64) (first count : Nat) : Bool :=
  let base := if e.2.2.getLsbD 7 then e.2.1 / 16 * 16 else e.2.1
  decide (base < first + count) && decide (first < base + (if e.2.2.getLsbD 7 then 16 else 1))

/-- TLB_INV: a write starts an invalidation; one while DONE is 0 is discarded and sets TLBDROP (R339). -/
def execTlbInv (f : Nat) (word : W64) (s : State) : Host.Outcome State Fault Refusal :=
  let w := word.toNat
  let ctx := bits w 62 51
  let x := s.fn f
  let sz := bits w 5 0
  let hit := fun (e : Nat × Nat × W64) => e.1 == ctx && (w.testBit 63 || decide (45 < sz) || servesSpan e (bits w 50 6) (2 ^ sz))
  .next (
    if 64 ≤ f ∨ (s.dom 77).st ≠ .on then s
    else if !x.tlbDone then raiseErr s f 3
    else if ctxFn s ctx ≠ some f then
      s.setFn f { x with tlbDone := false, tlbCode := 0x02000091#32, tlbCtx := 4096, tlbUpTo := 0 }
    else
      let s1 := s.setMem { s.mem with tlb := s.mem.tlb.filter fun e => !hit e }
      s1.setFn f { x with tlbDone := false, tlbCode := 0#32, tlbCtx := ctx, tlbUpTo := s.mem.nextReq })

/-- TLB_INV_DONE: DONE is set once every access that used a named translation has finished (R339). DEDUCED, log 66. -/
def execTlbInvDone (f : Nat) (s : State) : Host.Outcome State Fault Refusal :=
  let x := s.fn f
  .next (if x.tlbDone ∨ s.mem.reqs.any (usesOld x.tlbCtx x.tlbUpTo) then s else s.setFn f { x with tlbDone := true })

/-! ## The mailbox (R331) -/

/-- H_SEND: the first LEN bytes of the request buffer go to the MC, or the write is discarded and sets HMBOX. -/
def execHSend (value : W64) (bytes : List Byte) (s : State) : Host.Outcome State Fault Refusal :=
  let n := bits value.toNat 10 0
  .next (
    if (s.dom 77).st ≠ .on then s
    else if s.mbox.busy ∨ s.mbox.resp ∨ n = 0 ∨ 1536 < n then raiseErr s 0 4
    else { s with mbox := { s.mbox with busy := true, req := sliceD bytes 0 n 0#8 } })

/-- H_ACK: a write of 1 clears RESP. -/
def execHAck (value : W64) (s : State) : Host.Outcome State Fault Refusal :=
  .next (if value.getLsbD 0 ∧ (s.dom 77).st = .on then { s with mbox := { s.mbox with resp := false } } else s)

/-! ## Function-level reset, VFs -/

/-- FUNCTION_LEVEL_RESET: it goes on, when the command comes again, until every context has stopped and every shared page is free
(R335). -/
def execFunctionLevelReset (f : Nat) (s : State) : Host.Outcome State Fault Refusal :=
  .next (if f < 64 ∧ (s.dom 77).st = .on then (flrStep s f).1 else s)

/-- VFs above a count leave a port's view, highest first; one homed there is reset first (R334). -/
def removeVfs (port : Nat) : Nat → Nat → State → State
  | 0, _, s => s
  | n + 1, keep, s =>
    if n + 1 ≤ keep then s
    else
      let lower := fun (t : State) => t.setPort port { t.port port with numVfs := n }
      if homePort s (n + 1) = port then
        let (s1, done) := flrStep s (n + 1)
        if done then removeVfs port n keep (lower s1) else s1
      else removeVfs port n keep (lower s)

/-- VF_DISABLE: VF Enable is cleared (`numVfs` 0) or NumVFs lowered in a view. -/
def execVfDisable (port : Nat) (numVfs : Nat) (s : State) : Host.Outcome State Fault Refusal :=
  .next (
    if 2 ≤ port ∨ !(s.port port).vfEnable then s
    else
      let s1 := removeVfs port (min 63 (s.port port).numVfs) numVfs s
      if numVfs = 0 ∧ (s1.port port).numVfs = 0 then s1.setPort port { s1.port port with vfEnable := false } else s1)

/-- The messages that wait at a port go out in order, where their function may originate (R325, R342). -/
def flushMsgs (s : State) (p : Nat) : State :=
  let go := fun (m : Nat × Nat) => homePort s m.1 == p && mayOriginate s m.1 && portOpen s p
  let x := s.port p
  let s1 := s.setPort p { x with msgs := x.msgs.filter fun m => !go m }
  (x.msgs.filter go).foldl (fun t m => t.emit (.msix m.1 m.2 p)) s1

/-- VF_ENABLE: the host sets Bus Master Enable of a function, or VF Enable and NumVFs of the PF, in a view (R325). -/
def execVfEnable (port : Nat) (f : Nat) (busMaster : Bool) (vfEnable numVfs : Nat) (s : State) : Host.Outcome State Fault Refusal :=
  .next (
    if 2 ≤ port ∨ 64 ≤ f ∨ (s.dom 77).st ≠ .on then s
    else
      let s1 := s.setFn f { s.fn f with busMaster := (s.fn f).busMaster.set port busMaster }
      let x := s1.port port
      let s2 := if f = 0 ∧ vfEnable = 1 then s1.setPort port { x with vfEnable := true, numVfs := max x.numVfs (min 63 numVfs) } else s1
      flushMsgs s2 port)

/-! ## ATS -/

/-- ATS_TRANSLATION_COMPLETION: the rights the host grants are held until it takes them back (R338). DEDUCED, log 66. -/
def execAtsTranslationCompletion (port : Nat) (pasid : Nat) (page : Nat) (r w x : Bool) (s : State) : Host.Outcome State Fault Refusal :=
  let keep := s.mem.ats.filter fun a => !(a.1 == port && a.2.1 == pasid && a.2.2.1 == page)
  .next (if linkWorks s port then s.setMem { s.mem with ats := (port, pasid, page, r, w, x) :: keep } else s)

/-- Does a request use one of the host pages named by an invalidation: read not returned, write not handed (R340)? -/
def usesAts (s : State) (port pasid page pages : Nat) (r : Req) : Bool :=
  homePort s (reqFn s r) == port && (match fget s.ctxs r.ctx with
    | some c => c.pasid.toNat == pasid
    | none => false) &&
  (r.lanes.any fun l => regionOf l.pa == .host && !l.done && decide (page ≤ (l.pa - hostBase) / 4096) &&
    decide ((l.pa - hostBase) / 4096 < page + pages)) && !(isWriteKind r.kind && handedWrite r)

/-- ATS_INVALIDATION: use of the translations stops at once; the completion goes out when no access uses them, now or when the
command comes again (R340). -/
def execAtsInvalidation (port : Nat) (pasid : Nat) (page : Nat) (pages : Nat) (s : State) : Host.Outcome State Fault Refusal :=
  let hit := fun (a : Nat × Nat × Nat × Bool × Bool × Bool) =>
    a.1 == port && a.2.1 == pasid && decide (page ≤ a.2.2.1) && decide (a.2.2.1 < page + pages)
  .next (
    if !linkWorks s port then s
    else
      let s1 := s.setMem { s.mem with ats := s.mem.ats.filter fun a => !hit a }
      if s.mem.reqs.any (usesAts s port pasid page pages) then s1 else s1.emit (.atsInvDone port))

/-! ## Link loss -/

/-- States in which a loss of the link counts (R496). -/
def liveState (s : State) : Bool := s.mod.op == .service || s.mod.op == .test || s.mod.op == .recovery

/-- The link-loss time of a port, in ns. -/
def lossTime (s : State) (p : Nat) : Nat := 1000000 * odNat s 0x6001 (1 + p)

/-- Has the link-loss time of a port run out, or is a reset due already? -/
def lossElapsed (s : State) (p : Nat) : Bool :=
  (s.port p).resetDue || (match (s.port p).lostAt with
    | some t => decide (t + lossTime s p ≤ s.now)
    | none => false)

/-- The data link layer goes down. -/
def dropLink (s : State) (p : Nat) : State :=
  let x := s.port p
  if x.up then s.setPort p { x with up := false, lostAt := if liveState s then some s.now else none } else s

/-- LINK_DOWN: the requests the port would originate wait (R342). -/
def execLinkDown (port : Nat) (s : State) : Host.Outcome State Fault Refusal := .next (if port < 2 then dropLink s port else s)

/-- May a port train: domain 77 on, its PERST high, its reference clock present (R489, R495, Table 19.5)? -/
def mayTrain (s : State) (p : Nat) : Bool :=
  decide (p < 2) && (s.dom 77).st == .on && (s.mod.perstN[p]?).getD false && (s.mod.refclk[p]?).getD false

/-- LINK_UP: a link that returns within the link-loss time lets what waits proceed (R342); one that returns later is reset first.
DEDUCED, log 67. -/
def execLinkUp (port : Nat) (s : State) : Host.Outcome State Fault Refusal :=
  .next (
    if !mayTrain s port ∨ (s.port port).up then s
    else if lossElapsed s port then portLost s port
    else flushMsgs (s.setPort port { s.port port with up := true, lostAt := none }) port)

/-- LINK_LOSS_RESET: the link-loss time has run out (R342, R343). -/
def execLinkLossReset (port : Nat) (s : State) : Host.Outcome State Fault Refusal :=
  .next (if port < 2 ∧ !(s.port port).up ∧ lossElapsed s port then portLost s port else s)

/-- A loss whose time has already elapsed (R342); in START only the views reset, in STANDBY nothing happens (Table 19.6).
DEDUCED, log 67. -/
def lossAtOnce (s : State) (p : Nat) : State :=
  let s1 := s.setPort p { s.port p with up := false, lostAt := none }
  match s.mod.op with
  | .start => resetViews s1 p
  | .standby => s1
  | _ => portLost s1 p

/-- DEDUCED, log 67. -/
def execHotReset (port : Nat) (s : State) : Host.Outcome State Fault Refusal :=
  .next (if linkWorks s port then lossAtOnce s port else s)

/-- PERST_ASSERT: PERSTp_N falls (Table 19.6). -/
def execPerstAssert (port : Nat) (s : State) : Host.Outcome State Fault Refusal :=
  .next (
    if 2 ≤ port ∨ !(s.mod.perstN[port]?).getD false then s
    else
      let s1 := { s with mod := { s.mod with perstN := s.mod.perstN.set port false } }
      if (s.dom 77).st = .on then lossAtOnce s1 port else s1)

/-- PERST_RELEASE: PERSTp_N rises; the port may train (R495). -/
def execPerstRelease (port : Nat) (s : State) : Host.Outcome State Fault Refusal :=
  .next (if port < 2 then { s with mod := { s.mod with perstN := s.mod.perstN.set port true } } else s)

/-- IDE_INTEGRITY_FAILURE: the stream is Insecure, and the port takes its link down (R341). -/
def execIdeIntegrityFailure (port : Nat) (s : State) : Host.Outcome State Fault Refusal :=
  .next (
    if !linkWorks s port then s
    else dropLink (s.setPort port { s.port port with insecure := true, secure := false }) port)

end Sys2Proof.Machine
end

