-- ==== Sys2Proof/Machine/ScribeMsg.lean ====
section
/-! DEFINITION. Scribe messages: the whole-message check, the records in order, and the response (R402 to R408, R331). -/

namespace Sys2Proof.Machine

/-- One operation record of a message: its header (Table 15.3) and the data of a WRITE or STAGE. -/
structure ScribeRec where
  hdr : Nat
  data : List Byte

def ScribeRec.op (r : ScribeRec) : Nat := bits r.hdr 63 56
def ScribeRec.idx (r : ScribeRec) : Nat := bits r.hdr 55 40
def ScribeRec.sub (r : ScribeRec) : Nat := bits r.hdr 39 32
def ScribeRec.len (r : ScribeRec) : Nat := bits r.hdr 31 20
def ScribeRec.off (r : ScribeRec) : Nat := bits r.hdr 19 0

def pad4 (n : Nat) : Nat := (n + 3) / 4 * 4

/-- Splits a message's records; none where they do not fill the bytes exactly. -/
def splitRecs : Nat → List Byte → Option (List ScribeRec)
  | 0, b => if b.isEmpty then some [] else none
  | n + 1, b =>
    if b.length < 8 then none
    else
      let h := leNat (b.take 8)
      let op := bits h 63 56
      let k := if op = 2 ∨ op = 3 then bits h 31 20 else 0
      if b.length < 8 + pad4 k then none
      else (splitRecs n (b.drop (8 + pad4 k))).map fun l => { hdr := h, data := (b.drop 8).take k } :: l

/-- Is a record's OP listed, and has one of 0x10 to 0x14 the other fields 0 (R402)? -/
def recListed (r : ScribeRec) : Bool :=
  (decide (1 ≤ r.op) && decide (r.op ≤ 5)) || (decide (0x10 ≤ r.op) && decide (r.op ≤ 0x14) && r.hdr % 2 ^ 56 == 0)

/-- The message limit of a port (R402). -/
def portLimit : Port → Nat
  | .f => 1500
  | .h => 1536

/-- The header and records of a message that R402 accepts. DEDUCED, log 64. -/
def parseMsg (p : Port) (b : List Byte) : Option (Nat × List ScribeRec) :=
  let h := leNat (b.take 16)
  let len := bits h 95 80
  if b.length < 16 ∨ b.length < len ∨ len < 16 ∨ portLimit p < len ∨ bits h 127 124 ≠ 1 ∨ bits h 123 120 ≠ 0 ∨ bits h 79 64 ≠ 0 ∨
      bits h 119 112 = 0 ∨ 64 < bits h 119 112 then none
  else
    match splitRecs (bits h 119 112) ((b.take len).drop 16) with
    | some l => if l.all recListed then some (h, l) else none
    | none => none

/-- A broadcast is executed only when every record reads an entry from 0x1000 to 0x13FF (R408). -/
def broadcastOk (l : List ScribeRec) : Bool :=
  l.all fun r => (r.op == 1 || r.op == 4 || r.op == 5) && decide (0x1000 ≤ r.idx) && decide (r.idx ≤ 0x13FF)

/-- A module reset is carried out once the response is sent (R420). -/
def resetsModule (r : ScribeRec) : Bool := r.op == 2 && r.idx == 0x2000 && r.sub == 4 && r.len == 1 && r.off == 0 && leNat r.data == 1

/-- One record; `room` is what its data may take of the response. A COMMIT in a message finds flash ready. -/
def runRec (s : State) (p : Port) (room : Nat) (r : ScribeRec) : OdRes :=
  match r.op with
  | 1 => readOp s r.idx r.sub r.len r.off room
  | 2 => if resetsModule r && !romOnly s then odOk s else writeOp s r.idx r.sub r.off r.data
  | 4 => infoOp s r.idx r.sub
  | 5 => nextOp s r.idx r.sub
  | n =>
    if romOnly s then .abort 0x05000001
    else match n with
      | 3 => stageOp s p r.idx r.sub r.off r.data
      | 0x10 => takeOp s p
      | 0x11 => renewOp s p
      | 0x12 => releaseOp s p
      | 0x13 => commitOp s p true
      | _ => discardOp s p

/-- A response record: the header with LEN set to the bytes returned, the code, the data padded (R403). -/
def respRec (r : ScribeRec) (code : Nat) (data : List Byte) : List Byte :=
  leBytes 8 (r.hdr / 2 ^ 32 * 2 ^ 32 + data.length % 4096 * 2 ^ 20 + r.hdr % 2 ^ 20) ++ leBytes 4 code ++
    sliceD data 0 (pad4 data.length) 0#8

/-- The records in order: the first refusal stops execution, and a response that does not fit is one (R404, R406). `stop` is the code
of records that are not executed. Answers the response records and the state. DEDUCED, log 64. -/
def runRecs (p : Port) : State → Nat → Option Nat → List ScribeRec → List Byte × State
  | s, _, _, [] => ([], s)
  | s, used, some c, r :: rest =>
    let (b, t) := runRecs p s (used + 12) (some c) rest
    (respRec r c [] ++ b, t)
  | s, used, none, r :: rest =>
    let room := portLimit p - (used + 12 + 12 * rest.length)
    let done := fun (t : State) (code : Nat) (d : List Byte) =>
      let (b, u) := runRecs p t (used + 12 + pad4 d.length) (if code = 0 then none else some 0x03000003) rest
      (respRec r code d ++ b, u)
    match runRec s p room r with
    | .ok t d => if room < pad4 d.length then done s 0x060000F1 [] else done t 0 d
    | .abort c => done s c []
    | .refuse t c d => done t c (if room < pad4 d.length then [] else d)

/-- Executes a message and builds its response. -/
def runMsg (s : State) (p : Port) (h : Nat) (l : List ScribeRec) : List Byte × State :=
  let gen := bits h 63 0
  let (b, t) := runRecs p s 16 (if gen ≠ 0 ∧ gen ≠ s.dict.generation then some 0x03000004 else none) l
  let head := 2 ^ 124 + 2 ^ 120 + l.length * 2 ^ 112 + bits h 111 96 * 2 ^ 96 + (16 + b.length) * 2 ^ 80 + t.dict.generation % 2 ^ 64
  (leBytes 16 head ++ b, t)

/-- A message that is discarded, and counted (R402, R408). -/
def discardMsg (s : State) (p : Port) : State :=
  let s1 := odAdd s 0x1100 7 1
  match p with
  | .f => s1
  | .h => { s1 with mbox := { s1.mbox with busy := false } }

/-- The response leaves by its port (R331, R407). -/
def sendResponse (s : State) (p : Port) (env : Envelope) (b : List Byte) : State :=
  match p with
  | .f => s.emit (.scribe .f (some env) b)
  | .h =>
    let s1 := { s with mbox := { s.mbox with busy := false, resp := true, rlen := b.length, rsp := b } }
    sendMsi s1 0 (s1.fn 0).hvec

/-- Did the record that resets the module execute: is the code of every record up to it 0? -/
def codesZero : List Byte → List ScribeRec → Bool
  | _, [] => false
  | b, r :: rest =>
    leNat ((b.drop 8).take 4) == 0 &&
      (resetsModule r || codesZero (b.drop (12 + pad4 (bits (leNat (b.take 8)) 31 20))) rest)

/-- SCRIBE_MESSAGE: checked whole, executed in order, answered; or discarded (R402 to R408). On Port H it is the request that the
mailbox holds. -/
def execScribeMessage (p : Port) (env : Envelope) (bytes : List Byte) (s : State) : Host.Outcome State Fault Refusal :=
  .next (
    let here := match p with
      | .f => true
      | .h => s.mbox.busy && s.mbox.req == bytes
    if !portWorks s p ∨ !here then s
    else match parseMsg p bytes with
      | none => discardMsg s p
      | some (h, l) =>
        let wide := p == .f && env.broadcast
        if wide ∧ !broadcastOk l then discardMsg s p
        else
          let (b, s1) := runMsg s p h l
          let s2 := sendResponse (if wide then odAdd s1 0x1100 8 1 else s1) p env b
          if !romOnly s && codesZero (b.drop 16) l then releasePoint (resetModule s2) 3 else s2)

end Sys2Proof.Machine
end

