-- ==== Sys2Proof/Machine/Trust.lean ====
section
/-! DEFINITION. Images and slots (R425, R426), the update window (R434, R435), and attestation (R436 to R438). -/

namespace Sys2Proof.Machine

/-! ## Images -/

/-- A little-endian field of an image header. -/
def hdrField (h : List Byte) (off n : Nat) : Nat := leNat ((h.drop off).take n)

def hdrZero (h : List Byte) (off n : Nat) : Bool := ((h.drop off).take n).all (· == 0#8)

/-- Does the image at an offset of a slot verify as one of a type (R426, Table 16.2)? -/
def imageOk (m : Mem) (off typ : Nat) : Bool :=
  let h := slotRead m off 0x1000
  let len := hdrField h 0x10 4
  let fkey := (h.drop 0x80).take 0x180
  hdrField h 0 4 == 0x5A4D4657 && hdrField h 4 2 == typ && hdrField h 6 2 == 1 && len % 0x1000 == 0 && decide (0x1000 ≤ len) &&
  decide (len ≤ 0xC00000) && hdrZero h 0x14 12 && hdrZero h 0x40 64 && hdrZero h 0x500 0xB00 &&
  sha256 (slotRead m (off + 0x1000) len) == (h.drop 0x20).take 32 &&
  Config.pssVerifies Config.rootModulus fkey ((h.drop 0x200).take 0x180) &&
  Config.pssVerifies fkey (h.take 0x380) ((h.drop 0x380).take 0x180)

/-- Where an image ends, by its header. -/
def imageEnd (m : Mem) (off : Nat) : Nat := off + 0x1000 + hdrField (slotRead m off 0x1000) 0x10 4

/-- DESIGN CHOICE, log 6. -/
def imageSvn (m : Mem) (off : Nat) : Nat := hdrField (slotRead m off 0x1000) 0xC 4
def imageVersion (m : Mem) (off : Nat) : Nat := hdrField (slotRead m off 0x1000) 8 4

/-- The offsets of a slot's three images (R425). -/
def imageOffs (m : Mem) : List Nat :=
  let b := imageEnd m 0
  [0, b, imageEnd m b]

/-- A slot that verifies: its SVN and the VERSION of its images (R426). The shipped images of slot A verify. DESIGN CHOICE, log 6. -/
def slotVerdict (s : State) (n : Nat) : Option (Nat × List Nat) :=
  if n = 0 ∧ s.flash.factory then some (0, [0, 0, 0])
  else
    let m := slotMem s n
    if !imageOk m 0 1 then none
    else
      let offs := imageOffs m
      let b := (offs[1]?).getD 0
      let c := (offs[2]?).getD 0
      if imageOk m b 2 && imageOk m c 3 && decide (imageEnd m c ≤ 0x1000000) && imageSvn m b == imageSvn m 0 && imageSvn m c == imageSvn m 0
      then some (imageSvn m 0, offs.map (imageVersion m))
      else none

/-- The MC image check of the boot ROM: the SVN of an MC image that verifies (R428). -/
def mcVerdict (s : State) (n : Nat) : Option Nat :=
  if n = 0 ∧ s.flash.factory then some 0
  else if imageOk (slotMem s n) 0 1 then some (imageSvn (slotMem s n) 0)
  else none

def bootable (s : State) (n : Nat) : Bool := (slotVerdict s n).any fun v => decide (s.flash.boot.counter ≤ v.1)

/-! ## Update operations (R435) -/

/-- A write to UPD_CTL: it starts an operation, or is discarded while one runs. -/
def startUpdate (s : State) (op : UpdOp) : State :=
  let t := s.trust
  if !t.done then { s with trust := { t with dropped := true } }
  else
    let keeps := op == .erase || op == .confirm
    { s with trust := { t with op := some op, done := false, dropped := false, writable := t.writable && keeps } }

def updateWrite (s : State) (a : CtlAgent) (code : Nat) (op : UpdOp) : State :=
  if pfAgent s a then ctlAgentDone (startUpdate s op) a updCtlAddr (leBytes 8 (code * 2 ^ 60)) else s

def execErase (agent : CtlAgent) (s : State) : Host.Outcome State Fault Refusal := .next (updateWrite s agent 1 .erase)

def execCheck (agent : CtlAgent) (s : State) : Host.Outcome State Fault Refusal := .next (updateWrite s agent 2 .check)

def execActivate (agent : CtlAgent) (s : State) : Host.Outcome State Fault Refusal := .next (updateWrite s agent 3 .activate)

def execConfirm (agent : CtlAgent) (s : State) : Host.Outcome State Fault Refusal := .next (updateWrite s agent 4 .confirm)

def execCancel (agent : CtlAgent) (s : State) : Host.Outcome State Fault Refusal := .next (updateWrite s agent 5 .cancel)

def execRevert (agent : CtlAgent) (s : State) : Host.Outcome State Fault Refusal := .next (updateWrite s agent 6 .revert)

/-- May an operation run at all (Table 16.5)? -/
def updateAllowed (s : State) (op : UpdOp) : Bool :=
  let t := s.trust
  match op with
  | .erase => !t.onTrial && !t.pend
  | .check => true
  | .activate => !t.onTrial
  | .confirm => t.onTrial
  | .cancel => t.pend
  | .revert => t.onTrial && bootable s (inactiveSlot s)

/-- The result of checking the inactive slot: 0, 1 or 2 (R426). -/
def checkResult (s : State) : Nat :=
  match slotVerdict s (inactiveSlot s) with
  | none => 1
  | some v => if v.1 < s.flash.boot.counter then 2 else 0

/-- Does an operation write the boot record? -/
def writesBoot (op : UpdOp) : Bool := op != .erase && op != .check

/-- The RESULT of an operation (Tables 16.4 and 16.5). -/
def updateResult (s : State) (op : UpdOp) (flashOk : Bool) : Nat :=
  let checked := if op = .check ∨ op = .activate then checkResult s else 0
  if !updateAllowed s op then 3
  else if checked ≠ 0 then checked
  else if writesBoot op ∧ !s.trust.keyAvailable then 5
  else if op ≠ .check ∧ !flashOk then 4
  else 0

def setBoot (s : State) (b : BootRec) : State := { s with flash := { s.flash with boot := b } }

/-- The effect of an operation whose result is 0. -/
def updateEffect (s : State) (op : UpdOp) : State :=
  let t := s.trust
  let b := s.flash.boot
  let other := inactiveSlot s
  let svn := ((slotVerdict s other).map (·.1)).getD 0
  match op with
  | .erase =>
    let s1 := setSlotMem s other []
    let s2 := if other = 0 then { s1 with flash := { s1.flash with factory := false } } else s1
    { s2 with trust := { t with writable := true } }
  | .check => { s with trust := { t with svn := svn } }
  | .activate =>
    { setBoot s { b with pref := other, trial := true, tries := 0 } with trust := { t with svn := svn, pend := true } }
  | .cancel => { setBoot s { b with pref := t.runSlot, trial := false } with trust := { t with pend := false } }
  | .revert => { setBoot s { b with pref := other, trial := false } with trust := { t with pend := true, onTrial := false } }
  | .confirm => { setBoot s { b with counter := max b.counter t.runSvn, trial := false } with trust := { t with onTrial := false } }

/-- UPDATE_OPERATION_DONE: DONE reads 1 with the RESULT; an operation whose result is not 0 changes nothing (R435). -/
def execUpdateOperationDone (flashOk : Bool) (s : State) : Host.Outcome State Fault Refusal :=
  .next (match s.trust.op with
    | none => s
    | some op =>
      let r := updateResult s op flashOk
      let s1 := if r = 0 then updateEffect s op else s
      { s1 with trust := { s1.trust with op := none, done := true, result := r } })

/-- An access to slot bytes that the window accepts: aligned, 4, 8 or 16 B from a core, 64 B from the girt DMA (R434). -/
def slotShape (a : CtlAgent) (off n : Nat) : Bool :=
  decide (off + n ≤ 0x1000000) && (match a with
    | .core _ => (n == 4 || n == 8 || n == 16) && off % n == 0
    | .dma _ => n == 64 && off % 64 == 0
    | .dbg => true)

/-- SLOT_WRITE: programs flash after an ERASE, or is discarded and sets DROPPED (R434). -/
def execSlotWrite (agent : CtlAgent) (off : Nat) (data : List Byte) (s : State) : Host.Outcome State Fault Refusal :=
  .next (
    if !pfAgent s agent then s
    else
      let n := inactiveSlot s
      let s1 := if s.trust.writable ∧ s.trust.done ∧ slotShape agent off data.length then
          setSlotMem s n (slotProgram (slotMem s n) off data)
        else { s with trust := { s.trust with dropped := true } }
      ctlAgentDone s1 agent (slotBase + off) data)

/-! ## Measurements (R438) -/

/-- The digest of image k (0 MC, 1 bay microcode, 2 Framer) of the running slot, header included. -/
def imageDigest (s : State) (k : Nat) : List Byte :=
  let n := s.trust.runSlot
  if n = 0 ∧ s.flash.factory then Config.romDigest (2 + k)
  else
    let m := slotMem s n
    let off := ((imageOffs m)[k]?).getD 0
    sha256 (slotRead m off (imageEnd m off - off))

/-- The spare-map record's contents as numbers, for its digest. -/
def spareBytes (m : SpareMap) : List Byte :=
  m.groves.flatMap (fun e => u16s [e.1, e.2.bay, e.2.col, e.2.row, e.2.removed.toNat, if e.2.lost then 1 else 0]) ++
    u16s m.dead ++ u16s m.out ++ u16s m.retired ++ u16s m.setOut ++ m.moves.flatMap (fun e => u16s (e.before ++ e.lost) ++ leBytes 8 e.oldLines) ++
    leBytes 8 m.seq

/-- Bits of block 10 (Table 16.8). -/
def modeBits (s : State) : Nat :=
  (if s.trust.debugSeen then 1 else 0) + (if s.trust.onTrial then 2 else 0) + 4 * odNat s 0x6001 9 + 8 * odNat s 0x6001 10 +
    (if s.trust.restored then 16 else 0)

/-- The DMTF type and value of a measurement block; bit 7 of the type says raw. -/
def measurement (s : State) (i : Nat) : Option (Nat × List Byte) :=
  match i with
  | 1 => some (0, Config.romDigest 0)
  | 2 => some (1, imageDigest s 0)
  | 3 => some (1, imageDigest s 1)
  | 4 => some (1, imageDigest s 2)
  | 5 => some (2, Config.romDigest 1)
  | 6 => some (2, Config.spdmBody 6 (spareBytes s.flash.spare))
  | 7 => some (0x87, leBytes 4 s.trust.startCounter ++ leBytes 4 s.trust.runSvn)
  | 8 => some (0x86, u32s (sliceD s.trust.runVersions 0 3 0))
  | 9 => some (0x83, leBytes 8 s.dict.generation ++ configDigest s)
  | 10 => some (0x85, leBytes 4 (modeBits s))
  | 11 => some (1, sliceD (s.trust.fwdig.headD []) 0 32 0#8)
  | 12 => some (1, sliceD ((s.trust.fwdig.drop 1).headD []) 0 32 0#8)
  | _ => none

/-- One measurement block as SPDM carries it: index, specification 1, sizes, type, value. -/
def measBlock (s : State) (i : Nat) : List Byte :=
  match measurement s i with
  | none => []
  | some (ty, v) => [BitVec.ofNat 8 i, 1#8] ++ leBytes 2 (v.length + 3) ++ [BitVec.ofNat 8 ty] ++ leBytes 2 v.length ++ v

/-- An SPDM ERROR response. -/
def spdmError (code : Nat) : List Byte := [0x12#8, 0x7F#8, BitVec.ofNat 8 code, 0#8]

/-- Does a transport take SPDM: the MC runs, and its port works (R436, R437)? -/
def spdmWorks (s : State) (t : Transport) : Bool :=
  moduleOn s && !romOnly s && (match t with
    | .doe p => linkWorks s p
    | .portF => odNat s 0x1100 6 == 1)

def transportKey : Transport → Nat
  | .doe p => p
  | .portF => 2

/-- The response to GET_MEASUREMENTS: the blocks asked for, signed where that is asked (R431, R438). -/
def measurements (s : State) (signed : Bool) (index : Nat) (nonce : List Byte) : List Byte :=
  let all := (List.range' 1 12)
  let blocks := if index = 0xFF then all else all.filter fun i => i == index
  if index ≠ 0 ∧ blocks.isEmpty then spdmError 1
  else if signed ∧ !s.trust.keyAvailable then spdmError 4
  else
    let rec_ := blocks.flatMap (measBlock s)
    let body := [0x12#8, 0x60#8, BitVec.ofNat 8 (if index = 0 then 12 else 0), 0#8, BitVec.ofNat 8 blocks.length] ++
      leBytes 3 rec_.length ++ rec_ ++ sliceD nonce 0 32 0#8 ++ leBytes 2 0
    if signed then body ++ Config.identitySign body else body

/-- Has the connection of a transport negotiated its algorithms? -/
def negotiated (s : State) (t : Transport) : Bool := decide (3 ≤ fgetD s.trust.spdm (transportKey t) 0)

def execGetMeasurements (t : Transport) (seq : W16) (signed : Bool) (index : Nat) (nonce : List Byte) (s : State) :
    Host.Outcome State Fault Refusal :=
  .next (
    if !spdmWorks s t then s
    else s.emit (.spdm t seq (if negotiated s t then measurements s signed index nonce else spdmError 4)))

/-! ## Other SPDM requests (R436, R437) -/

/-- Does a Port F frame's header match (Table 16.7)? -/
def spdmHeaderOk (f : SpdmFrame) : Bool :=
  f.ver == 1#4 && f.kind == 0#4 && f.z1 == 0#8 && f.z2 == 0#16 && decide (1 ≤ f.len.toNat) && decide (f.len.toNat ≤ 1492) &&
  decide (f.len.toNat ≤ f.msg.length) && !f.env.broadcast

/-- What a connection knows after a request code, and the response code; none for a request that is not supported. PRESUMED, log 11. -/
def spdmReply (t : Transport) (phase code : Nat) : Option (Nat × Nat) :=
  let doe := match t with
    | .doe _ => true
    | .portF => false
  match code with
  | 0x84 => some (1, 0x04)
  | 0xE1 => some (max phase 2, 0x61)
  | 0xE3 => some (max phase 3, 0x63)
  | 0x81 => some (phase, 0x01)
  | 0x82 => some (phase, 0x02)
  | 0x83 => some (phase, 0x03)
  | 0x85 => some (phase, 0x05)
  | 0x86 => some (phase, 0x06)
  | 0xE4 => if doe then some (phase, 0x64) else none
  | 0xE5 => if doe then some (4, 0x65) else none
  | 0xE8 => if doe then some (phase, 0x68) else none
  | 0xE9 => if doe then some (phase, 0x69) else none
  | 0xEC => if doe then some (3, 0x6C) else none
  | 0xFE => if doe then some (phase, 0x7E) else none
  | _ => none

/-- The phase a request code needs: versions, then capabilities, then algorithms, then the rest; a secured session for its own. -/
def spdmNeeds (code : Nat) : Nat :=
  match code with
  | 0x84 => 0
  | 0xE1 => 1
  | 0xE3 => 2
  | 0xE8 => 4
  | 0xE9 => 4
  | 0xEC => 4
  | 0xFE => 4
  | _ => 3

/-- Requests whose response carries a signature. PRESUMED, log 11. -/
def spdmSigns (code : Nat) : Bool := code == 0x83 || code == 0xE4

/-- K_SET_GO of IDE_KM makes the port's link stream Secure (R341). PRESUMED, log 11. -/
def ideGo (s : State) (t : Transport) (code : Nat) (m : List Byte) : State :=
  match t with
  | .doe p => if code = 0xFE ∧ (m[11]?) = some 0#8 ∧ (m[12]?) = some 4#8 then flushMsgs (s.setPort p { s.port p with secure := true, insecure := false }) p else s
  | .portF => s

/-- The answer to one SPDM request. PRESUMED, log 11. -/
def spdmAnswer (s : State) (t : Transport) (seq : W16) (m : List Byte) : State :=
  let code := ((m[1]?).getD 0#8).toNat
  let phase := fgetD s.trust.spdm (transportKey t) 0
  match spdmReply t phase code with
  | none => s.emit (.spdm t seq (spdmError 7))
  | some (next, resp) =>
    if phase < spdmNeeds code ∨ (spdmSigns code ∧ !s.trust.keyAvailable) then s.emit (.spdm t seq (spdmError 4))
    else
      let s1 := { s with trust := { s.trust with spdm := fset s.trust.spdm (transportKey t) next } }
      (ideGo s1 t code m).emit (.spdm t seq ((m.headD 0x12#8) :: BitVec.ofNat 8 resp :: Config.spdmBody code m))

/-- SPDM_MESSAGE: answered, or on Port F discarded and counted (R437). -/
def execSpdmMessage (t : Transport) (frame : SpdmFrame) (s : State) : Host.Outcome State Fault Refusal :=
  .next (match t with
    | .portF =>
      if !moduleOn s ∨ romOnly s then s
      else if !spdmHeaderOk frame ∨ odNat s 0x1100 6 = 0 then odAdd s 0x1100 7 1
      else spdmAnswer s t frame.seq (frame.msg.take frame.len.toNat)
    | .doe _ => if spdmWorks s t then spdmAnswer s t 0#16 frame.msg else s)

end Sys2Proof.Machine
end

