-- ==== Sys2Proof/Machine/Observe.lean ====
section
/-! DEFINITION. The acknowledgement of fault-log entries (R444), the shared epoch tick (R471) and the sampler (R475). -/

namespace Sys2Proof.Machine

/-! ## Fault log and epochs -/

/-- A write to FLOG_ACK: the value, or FLOG_COUNT if the value is larger; one below the present FLOG_ACK is discarded. -/
def ackLog (s : State) (v : W64) : State :=
  if v < s.flog.ack then s
  else { s with flog := { s.flog with ack := if s.flog.count < v.toNat then BitVec.ofNat 64 s.flog.count else v } }

/-- FLOG_ACK: a write by an agent that reaches the fault log (R442). -/
def execFlogAck (agent : CtlAgent) (value : W64) (s : State) : Host.Outcome State Fault Refusal :=
  .next (if pfAgent s agent then ctlAgentDone (ackLog s value) agent flogAckAddr (leBytes 8 value.toNat) else s)

/-- EPTICK: any write raises one tick (Table 18.4). DEDUCED, log 79. -/
def execEptick (agent : CtlAgent) (value : W64) (s : State) : Host.Outcome State Fault Refusal :=
  .next (if pfAgent s agent then ctlAgentDone (epochTick s) agent (obsBase + 8) (leBytes 8 value.toNat) else s)

/-! ## The sampler -/

/-- Bank keys of the instances of an engine kind, in ascending block address (Tables 18.1 and 18.2). -/
def kindBanks (k : Nat) : List Nat :=
  match k with
  | 4 => (List.range 128).map sliceBank
  | 5 => (List.range 32).map fun i => ctrlBank (i / 8) (i % 8)
  | 6 => (List.range 160).map fun i => tenonBank (i / 16) (i % 16)
  | 7 => [framerBank]
  | 8 => (List.range 256).map chuteBank
  | _ => if k < 4 then (List.range 12288).map fun c => coreBank c k else []

/-- How many instances a kind has. -/
def kindSize (k : Nat) : Nat :=
  match k with
  | 4 => 128
  | 5 => 32
  | 6 => 160
  | 7 => 1
  | 8 => 256
  | _ => if k < 4 then 12288 else 0

def selected (s : State) : List Nat := (List.range 9).filter fun k => s.obs.sel.getLsbD k

/-- Z, the size of a sample slot (R475). -/
def sampleSize (s : State) : Nat := 64 + 64 * (selected s).foldl (fun n k => n + kindSize k) 0

/-- The bay whose joint to the girt die carries an instance's words; none for the girt die's own. -/
def bankBay (s : State) (k : Nat) : Option Nat :=
  if k < 0x10000 then some (groveEnt s (coreGrove (k / 4))).bay
  else if k < 0x10800 then some (sliceBay (k - 0x10000))
  else if k < 0x11000 then some ((k - 0x10800) / 8)
  else if k < 0x11800 then
    let j := (k - 0x11000) / 16
    if j < 4 then some j else if j < 8 then some (j - 4) else none
  else none

/-- Words 0 to 7 of a RUN bank as 64 bytes. -/
def bankBytes (s : State) (k : Nat) : List Byte := (List.range 8).flatMap fun i => leBytes 8 (bankWord s k i)

def sampleBanks (s : State) : List Nat := (selected s).flatMap kindBanks

/-- A whole sample (R475). -/
def sampleBytes (s : State) : List Byte :=
  leBytes 8 s.now ++ leBytes 8 s.obs.smpWptr ++ leBytes 8 (s.obs.epochSh % 2 ^ 32 + s.obs.sel.toNat * 2 ^ 32) ++ leBytes 40 0 ++
  (sampleBanks s).flatMap (bankBytes s)

/-- Bytes a sample puts on each joint (0 to 3) and at each slice (from 16 on). -/
def sampleLoad (s : State) (a n : Nat) : FMap Nat :=
  let joints := (sampleBanks s).foldl (fun (m : FMap Nat) k => match bankBay s k with
    | some b => fset m b (fgetD m b 0 + 64)
    | none => m) []
  (List.range (n / 64)).foldl (fun (m : FMap Nat) i =>
    let key := 16 + homeSlice s ((a + 64 * i) / 1024)
    fset m key (fgetD m key 0 + 64)) joints

/-- Where the next sample lies. -/
def sampleSlot (s : State) : Nat := s.obs.smpBase.toNat + (s.obs.smpWptr % s.obs.smpN) * sampleSize s

/-- Does the sample have its slot in the PF's share and fit every allowance it uses (R475, R480)? -/
def sampleFits (s : State) : Bool :=
  let a := sampleSlot s
  let z := sampleSize s
  decide (a + z ≤ usableSize s) && inShare s 0 a z && (sampleLoad s a z).all fun e => obsFits s e.1 e.2

/-- One sample is written, or skipped and counted. DEDUCED, log 79. -/
def takeSample (s : State) : State :=
  if sampleFits s then
    let a := sampleSlot s
    let s1 := (sampleLoad s a (sampleSize s)).foldl (fun t e => obsCharge t e.1 e.2) s
    let s2 := (engineWrite s1 .framer 4096 a (sampleBytes s) false).2
    { s2 with obs := { s2.obs with smpWptr := s2.obs.smpWptr + 1 } }
  else { s with obs := { s.obs with smpSkip := s.obs.smpSkip + 1 } }

/-- Is a sample due: the sampler on, the device not felled, its time reached (R475)? -/
def sampleDue (s : State) : Bool :=
  s.obs.period != 0 && !s.felled && decide (s.obs.nextSample ≤ s.now) && (s.dom 77).st == .on

/-- SAMPLE: one every PERIOD microseconds of device time. DEDUCED, log 79. -/
def execSample (s : State) : Host.Outcome State Fault Refusal :=
  .next (
    if !sampleDue s then s
    else
      let p := 1000 * s.obs.period
      let s1 := takeSample s
      { s1 with obs := { s1.obs with nextSample := s.obs.nextSample + p * ((s.now - s.obs.nextSample) / p + 1) } })

end Sys2Proof.Machine
end

