-- ==== Sys2Proof/Machine/DebugAccess.lean ====
section
/-! DEFINITION. The debug access (R481 to R484): the TAP's data registers, debug messages through the TAP and the UART, and the
debug operations of Table 18.9. -/

namespace Sys2Proof.Machine

/-! ## Responses -/

/-- A response: a UART frame sent at once, or the words that the TAP's captures take (R482). The status is in ARG; the spec does
not say what the response's ADDR holds, which is a free value. DEDUCED, log 80. -/
def debugAnswer (s : State) (port : DebugPort) (op seq status : Nat) (data : List Byte) : State :=
  match port with
  | .uart => s.emit (.dbg .uart (BitVec.ofNat 16 seq) status data)
  | .jtag =>
    let (v, s1) := s.draw
    let head := status + seq % 2 ^ 16 * 2 ^ 32 + v.toNat % 2 ^ 48 * 2 ^ 48 + data.length * 2 ^ 104 + op * 2 ^ 120
    let bytes := leBytes 16 head ++ data
    let words := (List.range ((bytes.length + 3) / 4)).map fun i => BitVec.ofNat 32 (leNat ((bytes.drop (4 * i)).take 4))
    { s1 with dbg := { s1.dbg with resp := s1.dbg.resp ++ words, req := [] } }

/-- A status with no data. -/
def debugStatus (s : State) (port : DebugPort) (op : Nat) (seq : W16) (status : Nat) : State :=
  debugAnswer s port op seq.toNat status []

/-- An operation that needs open debug (R483), in a state in which domain 76 is powered (R484). -/
def debugGate (s : State) (port : DebugPort) (op : Nat) (seq : W16) (run : State → State) : State :=
  if !moduleOn s then s else if !s.dbg.opened then debugStatus s port op seq 1 else run s

/-! ## READ and WRITE (R484) -/

/-- The domain that serves an address, less what always has power with domain 76. -/
def targetDomain (s : State) (pa : Nat) : Nat :=
  match regionOf pa with
  | .dram => 19 * sliceBay (homeSlice s (pa / 1024)) + 16 + homeSlice s (pa / 1024) / 16 % 2
  | .scratch => 19 * sliceBay (scratchSlice pa) + 16 + scratchSlice pa / 16 % 2
  | .store => coreDomain s (storeCore pa)
  | .ctl => if pa < slotBase then 77 else 76
  | _ => 77

/-- Does boot ROM serve an address: the update window, UPD_CTL, UPD_STATUS and the fault log (R484)? -/
def romServes (pa len : Nat) : Bool :=
  (decide (slotBase ≤ pa) && decide (pa + len ≤ updStatusAddr + 8)) ||
    (decide (flogBase ≤ pa) && decide (pa + len ≤ flogAckAddr + 8))

/-- May the debug access reach these bytes (R13, R214, R484)? -/
def debugReach (s : State) (write : Bool) (pa len : Nat) : Bool :=
  if romOnly s then romServes pa len
  else
    regionOf pa == regionOf (pa + len - 1) && (s.dom (targetDomain s pa)).st != .off &&
    (match regionOf pa with
     | .ctl => true
     | .chute => decide (chuteOf pa < 256) && !write
     | _ => barReach s 0 write pa len)

/-- Is a debug write not yet done? The requests execute one at a time (R482). -/
def debugBusy (s : State) : Bool := s.mem.reqs.any fun r => r.agent == .dbg && r.kind == .fwrite

/-- DESIGN CHOICE, log 25. -/
def debugAsk (s : State) (ps : List (Nat × Nat)) : Bool × State :=
  ps.foldl (fun acc x => match engineRead acc.2 .dbg 4096 0 false x.1 x.2 0 [] with
    | .wait t => (true, t)
    | .data _ _ _ _ => acc) (false, s)

def debugTake (s : State) (ps : List (Nat × Nat)) : List Byte × Nat × State :=
  ps.foldl (fun acc x => match engineRead acc.2.2 .dbg 4096 0 false x.1 x.2 0 [] with
    | .wait t => (acc.1, acc.2.1, t)
    | .data b _ bad t => (acc.1 ++ b, max acc.2.1 bad, t)) ([], 0, s)

/-- READ: an NR request; one that its home must answer first ends when the command comes again. DEDUCED, log 80. -/
def debugReadOp (port : DebugPort) (addr len : Nat) (seq : W16) (s : State) : State :=
  if len % 8 ≠ 0 ∨ len < 8 ∨ 1024 < len ∨ addr % 8 ≠ 0 then debugStatus s port 1 seq 4
  else if !debugReach s false addr len then debugStatus s port 1 seq 2
  else if debugBusy s then s
  else
    let ps := barPieces len addr len
    let (waits, s1) := debugAsk s ps
    if waits then s1
    else
      let (b, bad, s2) := debugTake s ps
      if bad = 0 then debugAnswer s2 port 1 seq.toNat 0 b else debugStatus s2 port 1 seq 2

/-- A debug write of 8 bytes of control space; the row of its register names the effect. -/
def debugCtlWrite (s : State) (pa : Nat) (b : List Byte) : State :=
  let v := leNat b
  let op : Option UpdOp := match v / 2 ^ 60 with
    | 1 => some .erase
    | 2 => some .check
    | 3 => some .activate
    | 4 => some .confirm
    | 5 => some .cancel
    | 6 => some .revert
    | _ => none
  if inSlotBytes pa then
    (if s.trust.writable ∧ s.trust.done then
       setSlotMem s (inactiveSlot s) (slotProgram (slotMem s (inactiveSlot s)) (pa - slotBase) b)
     else { s with trust := { s.trust with dropped := true } })
  else if pa = updCtlAddr then
    (match op with
     | some o => if v % 2 ^ 60 = 0 then startUpdate s o else s
     | none => updReserved s v)
  else if pa = flogAckAddr then ackLog s (BitVec.ofNat 64 v)
  else if pa = bayResetAddr then bayResetWrite s (BitVec.ofNat 64 v)
  else if pa = obsBase + 8 then epochTick s
  else ctlOther s pa b

/-- WRITE: a write by an agent without a cache (R229, R484). DEDUCED, log 80. -/
def debugWriteOp (port : DebugPort) (addr : Nat) (seq : W16) (data : List Byte) (s : State) : State :=
  let n := data.length
  if addr % 8 ≠ 0 ∨ 1152 < n then debugStatus s port 2 seq 4
  else if n = 0 then debugStatus s port 2 seq 0
  else if regionOf addr = .chute ∧ chuteOf addr < 256 ∧ !romOnly s then
    debugStatus (chuteSpaceWrite s addr none data) port 2 seq 2
  else if !debugReach s true addr n then debugStatus s port 2 seq 2
  else if regionOf addr = .ctl then
    debugStatus ((barPieces n addr n).foldl (fun t x => debugCtlWrite t x.1 ((data.drop (x.1 - addr)).take x.2)) s) port 2 seq 0
  else debugStatus (engineWrite s .dbg 4096 addr data false).2 port 2 seq 0

def execDebugRead (addr : W48) (len : W16) (seq : W16) (port : DebugPort) (s : State) : Host.Outcome State Fault Refusal :=
  .next (debugGate s port 1 seq (debugReadOp port addr.toNat len.toNat seq))

def execDebugWrite (addr : W48) (seq : W16) (port : DebugPort) (data : List Byte) (s : State) : Host.Outcome State Fault Refusal :=
  .next (debugGate s port 2 seq (debugWriteOp port addr.toNat seq data))

/-! ## FELL and RESUME -/

/-- FELL: reason 0xFF02 (R459); in START and STANDBY nothing can be felled. -/
def debugFellOp (port : DebugPort) (seq : W16) (s : State) : State :=
  if romOnly s ∨ s.mod.op = .start ∨ s.mod.op = .standby then debugStatus s port 3 seq 3
  else debugStatus (startFell s 0xFF02 3) port 3 seq 0

def debugResumeOp (port : DebugPort) (seq : W16) (s : State) : State :=
  if mayBeginResume s then debugStatus (beginResume s) port 4 seq 0 else debugStatus s port 4 seq 3

def execDebugFell (seq : W16) (port : DebugPort) (s : State) : Host.Outcome State Fault Refusal :=
  .next (debugGate s port 3 seq (debugFellOp port seq))

def execDebugResume (seq : W16) (port : DebugPort) (s : State) : Host.Outcome State Fault Refusal :=
  .next (debugGate s port 4 seq (debugResumeOp port seq))

/-! ## TAG_READ -/

/-- Recency rank of a stamp among the ways of a set. -/
def lruRank (s : State) (n set stamp : Nat) : Nat :=
  (s.mem.lines.filter fun e => e.2.slice == n && lineSet e.1 == set && !e.2.ovf && decide (stamp < e.2.stamp)).length +
  (s.mem.near.filter fun x => 16 * x.half + x.slice == n && x.set == set && decide (stamp < x.stamp)).length

def LineSt.code : LineSt → Nat
  | .i => 0
  | .s => 1
  | .e => 2
  | .f => 3
  | .o => 4
  | .m => 5

def SecSt.code : SecSt → Nat
  | .invalid => 0
  | .clean => 1
  | .dirty => 2

/-- The entry of a way (Table 08.2); an unused way reads 0. -/
def tagEntry (s : State) (n set way : Nat) : Nat :=
  match s.mem.lines.find? fun e => e.2.slice == n && e.2.way == way && lineSet e.1 == set && !e.2.ovf with
  | some (line, e) =>
    let own := if e.st = .m then e.own else n / 16
    let secs := (List.range 4).foldl (fun v i => v + (e.secAt i).code * 4 ^ i) 0
    line * 2 ^ 58 + e.st.code * 2 ^ 55 + own * 2 ^ 51 + e.pres.toNat * 2 ^ 39 + e.hsec.toNat * 2 ^ 35 + secs * 2 ^ 27 +
      e.pois.toNat * 2 ^ 23 + (match e.pin with
        | some p => 2 ^ 22 + p * 2 ^ 16
        | none => 0) + (if (missOf s line).isSome then 2 ^ 14 else 0) + min 15 (lruRank s n set e.stamp) * 2 ^ 10
  | none =>
    match s.mem.near.find? fun x => 16 * x.half + x.slice == n && x.way == way && x.set == set with
    | some x =>
      let secs := (List.range 4).foldl (fun v i => v + (if x.sectors.getLsbD i then 4 ^ i else 0)) 0
      let pois := ((s.line? x.line).map fun e => (e.pois &&& x.sectors).toNat).getD 0
      x.line * 2 ^ 58 + secs * 2 ^ 27 + pois * 2 ^ 23 + 2 ^ 15 + min 15 (lruRank s n set x.stamp) * 2 ^ 10
    | none => 0

/-- TAG_READ: in TEST only; ARG names half, slice, set and way (Table 18.9). -/
def tagReadOp (port : DebugPort) (arg : W32) (seq : W16) (s : State) : State :=
  let a := arg.toNat
  if s.mod.op ≠ .test then debugStatus s port 5 seq 3
  else if a / 2 ^ 20 ≠ 0 then debugStatus s port 5 seq 4
  else debugAnswer s port 5 seq.toNat 0 (leBytes 16 (tagEntry s (16 * bits a 2 0 + bits a 6 3) (bits a 15 7) (bits a 19 16)))

def execTagRead (arg : W32) (seq : W16) (port : DebugPort) (s : State) : Host.Outcome State Fault Refusal :=
  .next (debugGate s port 5 seq (tagReadOp port arg seq))

/-! ## STATUS, CHALLENGE and UNLOCK, which closed debug takes too (R483) -/

/-- STATUS: 8 bytes; the bits that Table 18.9 does not name are a free value. -/
def statusOp (port : DebugPort) (seq : W16) (s : State) : State :=
  let (v, s1) := s.draw
  let flags := (if s.dbg.opened then 1 else 0) + (if s.mod.phase = .romRecovery then 2 else 0)
  let word := opCode s.mod.op + s.fell.st * 2 ^ 8 + (flags + v.toNat / 2 ^ 18 * 4) % 2 ^ 48 * 2 ^ 16
  debugAnswer s1 port 6 seq.toNat 0 (leBytes 8 word)

def execStatus (seq : W16) (port : DebugPort) (s : State) : Host.Outcome State Fault Refusal :=
  .next (if moduleOn s then statusOp port seq s else s)

/-- CHALLENGE: a nonce of 32 bytes from the SE's generator, or status 5 during the lockout. -/
def challengeOp (port : DebugPort) (seq : W16) (s : State) : State :=
  if s.now < s.dbg.lockedUntil then debugStatus s port 7 seq 5
  else
    let n := sliceD (Config.random32 s.free) 0 32 0#8
    let s1 := { s with free := s.free + 1, dbg := { s.dbg with nonce := some (n, s.now) } }
    debugAnswer s1 port 7 seq.toNat 0 n

def execChallenge (seq : W16) (port : DebugPort) (s : State) : Host.Outcome State Fault Refusal :=
  .next (if moduleOn s then challengeOp port seq s else s)

/-- Does an UNLOCK verify against its nonce within 60 s (R422, R483)? DEDUCED, log 80. -/
def unlockOk (s : State) (data : List Byte) : Bool :=
  match s.dbg.nonce with
  | none => false
  | some (n, t) =>
    let key := data.take 384
    let serial := (live1 s 0x1000 2).getD []
    decide (s.now ≤ t + 60000000000) && Config.pssVerifies Config.rootModulus key ((data.drop 384).take 384) &&
      Config.pssVerifies key (sha256 (n ++ serial)) ((data.drop 768).take 384)

/-- UNLOCK: one that verifies opens debug and marks the measurements; the third failure in a row starts the lockout. -/
def unlockOp (port : DebugPort) (seq : W16) (data : List Byte) (s : State) : State :=
  if data.length ≠ 1152 then debugStatus s port 8 seq 4
  else
    let d := { s.dbg with nonce := none }
    if unlockOk s data then
      debugStatus { s with dbg := { d with opened := true, fails := 0 }, trust := { s.trust with debugSeen := true } } port 8 seq 0
    else
      let d1 := if d.fails < 2 then { d with fails := d.fails + 1 } else { d with fails := 0, lockedUntil := s.now + 10000000000 }
      debugStatus { s with dbg := d1 } port 8 seq 2

def execUnlock (seq : W16) (port : DebugPort) (data : List Byte) (s : State) : Host.Outcome State Fault Refusal :=
  .next (if moduleOn s then unlockOp port seq data s else s)

/-- UNLOCK_LOCKOUT_END: 10 s have passed. -/
def execUnlockLockoutEnd (s : State) : Host.Outcome State Fault Refusal :=
  .next (if s.dbg.lockedUntil ≠ 0 ∧ s.dbg.lockedUntil ≤ s.now then { s with dbg := { s.dbg with lockedUntil := 0 } } else s)

/-! ## Messages (R482) -/

/-- A whole request: header number and data. The LEN of a READ is what its response carries; no data follow it. DEDUCED, log 81. -/
def runDebug (port : DebugPort) (h : Nat) (data : List Byte) (s : State) : State :=
  let op := bits h 127 120
  let len := bits h 119 104
  let addr := bits h 95 48
  let seq := BitVec.ofNat 16 (bits h 47 32)
  let junk := bits h 103 96 != 0 || decide (1152 < len)
  if !moduleOn s then s
  else if op < 6 ∨ 8 < op then
    (if !s.dbg.opened then debugStatus s port op seq 1
     else if junk then debugStatus s port op seq 4
     else match op with
       | 1 => debugReadOp port addr len seq s
       | 2 => debugWriteOp port addr seq data s
       | 3 => debugFellOp port seq s
       | 4 => debugResumeOp port seq s
       | 5 => tagReadOp port (BitVec.ofNat 32 h) seq s
       | _ => debugStatus s port op seq 4)
  else if junk then debugStatus s port op seq 4
  else match op with
    | 6 => statusOp port seq s
    | 7 => challengeOp port seq s
    | _ => unlockOp port seq data s

/-- The data bytes that a request's header announces. -/
def debugDataLen (h : Nat) : Nat := if bits h 127 120 = 1 ∨ 1152 < bits h 119 104 then 0 else bits h 119 104

/-- The bytes of the words of a request, low word first. -/
def wordBytes (ws : List W32) : List Byte := ws.flatMap fun w => leBytes 4 w.toNat

/-- Has the request all its bytes? -/
def requestWhole (ws : List W32) : Bool :=
  decide (4 ≤ ws.length) && decide (16 + debugDataLen (leNat ((wordBytes ws).take 16)) ≤ 4 * ws.length)

/-- What a capture of DBG_MSG shows: bit 33 and a response word, bit 32 room for a request word. -/
def msgCapture (d : Debug) : Nat :=
  (match d.resp with
   | w :: _ => 2 ^ 33 + w.toNat
   | [] => 0) + (if requestWhole d.req then 0 else 2 ^ 32)

/-- The request that the register holds executes. -/
def runRequest (s : State) : State :=
  let b := wordBytes s.dbg.req
  let h := leNat (b.take 16)
  runDebug .jtag h ((b.drop 16).take (debugDataLen h)) s

/-- DBG_MSG: one pass through the data register: the capture takes a response word, the update appends a request word; a whole request
that waits for a home is tried again (R482). -/
def execDbgMsg (value : BitVec 34) (s : State) : Host.Outcome State Fault Refusal :=
  .next (
    if !moduleOn s then s
    else
      let d := s.dbg
      let s1 := { s with dbg := { d with ir := 0x10#8, resp := d.resp.drop 1 } }
      let s2 := s1.emit (.tap (msgCapture d))
      if requestWhole d.req then runRequest s2
      else if !value.getLsbD 33 then s2
      else
        let s3 := { s2 with dbg := { s2.dbg with req := d.req ++ [value.truncate 32] } }
        if requestWhole s3.dbg.req then runRequest s3 else s3)

/-- The IEEE 802.3 frame check sequence, one byte more. -/
def crcByte (c : W32) (b : Byte) : W32 :=
  (List.range 8).foldl (fun x _ => if x.getLsbD 0 then (x >>> 1) ^^^ 0xEDB88320#32 else x >>> 1) (c ^^^ b.setWidth 32)

def crc32 (bs : List Byte) : W32 := ~~~(bs.foldl crcByte 0xFFFFFFFF#32)

/-- UART_FRAME: a frame's length and message; one with a bad CRC is discarded (R482). DEDUCED, log 81. -/
def execUartFrame (body : List Byte) (crc : W32) (s : State) : Host.Outcome State Fault Refusal :=
  .next (
    if !moduleOn s ∨ crc32 body ≠ crc ∨ leNat (body.take 2) + 2 ≠ body.length ∨ body.length < 18 then s
    else
      let h := leNat ((body.drop 2).take 16)
      let data := body.drop 18
      if data.length ≠ debugDataLen h then debugStatus s .uart (bits h 127 120) (BitVec.ofNat 16 (bits h 47 32)) 4
      else runDebug .uart h data s)

/-! ## The TAP's other registers (R481, Table 18.7) -/

/-- CHAIN_SEL: an update places TAPs in the chain; with debug closed it acts as BYPASS. -/
def execChainSel (value : Byte) (s : State) : Host.Outcome State Fault Refusal :=
  .next (
    if !moduleOn s then s
    else
      let d := { s.dbg with ir := 0x11#8 }
      { s with dbg := if s.dbg.opened then { d with chain := value &&& 0x3F#8 } else d })

/-- What a capture of TENON_TEST shows. -/
def tenonCapture (s : State) : Nat :=
  if s.mod.op ≠ .test then 0
  else (if s.test.running then 2 ^ 63 else 0) + ((s.test.errors[s.dbg.lane]?).getD 0#16).toNat

/-- An update of TENON_TEST: the fields of OD 0xB010, in range, and a start (Table 13.8). -/
def tenonUpdate (s : State) (v : Nat) : State :=
  let joint := bits v 7 0
  let mode := bits v 15 8
  let span := bits v 47 16
  let s1 := { s with dbg := { s.dbg with lane := bits v 63 49 } }
  if 9 < joint ∨ 2 < mode ∨ span = 0 ∨ 60000 < span then s1
  else
    let s2 := odPutNat (odPutNat (odPutNat s1 0xB010 1 joint) 0xB010 2 mode) 0xB010 3 span
    if v.testBit 48 ∧ !s2.test.running then
      (match tenonTestStart s2 with
       | .ok s3 _ => s3
       | _ => s2)
    else s2

/-- TAP_TENON_TEST: capture, then update; outside TEST the capture is 0 and the update ignored, closed debug is BYPASS. -/
def execTapTenonTest (value : W64) (s : State) : Host.Outcome State Fault Refusal :=
  .next (
    if !moduleOn s then s
    else
      let s1 := { s with dbg := { s.dbg with ir := 0x12#8 } }
      if !s.dbg.opened then s1
      else
        let s2 := s1.emit (.tap (tenonCapture s))
        if s.mod.op = .test then tenonUpdate s2 value.toNat else s2)

/-- TEST_LOGIC_RESET: IDCODE is selected, CHAIN_SEL is 0, and the boundary register lets the pins go. -/
def execTestLogicReset (s : State) : Host.Outcome State Fault Refusal :=
  .next { s with dbg := { s.dbg with ir := 1#8, chain := 0#8, drive := none } }

/-- The boundary register's capture: cells 0 to 12 of Table 19.1. UART_TX and UART_RX carry whatever the UART carries: free. -/
def boundaryCapture (s : State) (v : W64) : Nat :=
  let bit := fun (b : Bool) (i : Nat) => if b then 2 ^ i else 0
  bit ((s.mod.perstN[0]?).getD true) 0 + bit ((s.mod.perstN[1]?).getD true) 1 + bit s.mod.modResetN 2 + bit s.mod.haltN 3 +
  bit s.mod.throttleN 4 + bit (!alertAsserted s) 5 + s.mod.slotId.toNat * 2 ^ 6 + v.toNat % 4 * 2 ^ 11

/-- EXTEST: captures the sideband pins, then drives the outputs, ALERT_N and UART_TX, from their cells. DEDUCED, log 81. -/
def execExtest (cells : BitVec 13) (s : State) : Host.Outcome State Fault Refusal :=
  .next (
    if !moduleOn s then s
    else
      let (v, s1) := s.draw
      let s2 := { s1 with dbg := { s1.dbg with ir := 3#8, drive := some cells } }
      ((s2.emit (.tap (boundaryCapture s v))).emit (.pin "ALERT_N" (cells.getLsbD 5))).emit (.pin "UART_TX" (cells.getLsbD 11)))

end Sys2Proof.Machine
end

