-- ==== Sys2Proof/Machine/Startup.lean ====
section
/-! DEFINITION. Start-up (R427 to R431, R493, R494, Table 19.5), the identity key, device time and its source (R38 to R41), and
the core-steps that time charges (R307). -/

namespace Sys2Proof.Machine

/-! ## The boot ROM's choice (R428) -/

/-- The boot record in use; where no copy verifies, the one rebuilt from the slots. DEDUCED, log 83. -/
def bootRecord (s : State) (copies : Bool) : BootRec :=
  if copies then s.flash.boot
  else
    let blank := fun (svn slot : Nat) => ({ counter := svn, pref := slot, trial := false, tries := 0 } : BootRec)
    match (slotVerdict s 0).map (·.1), (slotVerdict s 1).map (·.1) with
    | some a, some b => if a < b then blank b 1 else blank a 0
    | some a, none => blank a 0
    | none, some b => blank b 1
    | none, none => blank 0 0

/-- Does a slot's MC image verify with an SVN that COUNTER allows? -/
def mcBootable (s : State) (counter n : Nat) : Bool := (mcVerdict s n).any fun v => decide (counter ≤ v)

/-- The record after the choice, or none where no slot is bootable. DEDUCED, log 83. -/
def bootChoice (s : State) (r : BootRec) : Option BootRec :=
  let a := if r.trial ∧ 3 ≤ r.tries then { r with pref := 1 - r.pref, trial := false } else r
  let b := if mcBootable s r.counter a.pref then a else { a with pref := 1 - a.pref, trial := false }
  if mcBootable s r.counter b.pref then some (if b.trial then { b with tries := b.tries + 1 } else b) else none

/-! ## Classes that a reset loses (R416, Table 15.5) -/

/-- P-class entries that only the device writes; they are kept as it last stored them. DEDUCED, log 82. -/
def isDeviceP (k : Nat) : Bool :=
  match odRow (k / 256) (k % 256) with
  | some r => r.per == .p && r.acc == .ro
  | none => false

/-- The P class as module flash holds it (R400, R423). DEDUCED, log 82. -/
def loadP (s : State) (copies : Bool) : State :=
  let kept := s.dict.od.filter fun e => !isPKey e.1 || (copies && isDeviceP e.1)
  let stored := if copies then s.flash.dictP.filter fun e => !isDeviceP e.1 else []
  { s with dict := { s.dict with od := stored.foldl (fun m e => fset m e.1 e.2) kept },
           flash := { s.flash with dictP := if copies then s.flash.dictP else [] } }

/-- The generation gains 1 where a configuration-class value differs (R415). -/
def bumpIfChanged (before after : State) : State :=
  if configKeys.any fun k => odValue before (k / 256) (k % 256) != odValue after (k / 256) (k % 256) then bumpGeneration after
  else after

/-- S, V and T return to their defaults, with the peg and what it staged (Table 15.6). -/
def loseSVT (s : State) : State :=
  let all := fun (_ : Nat) => true
  let s1 := loseClass (loseClass (loseV s all) .s all) .t all
  { s1 with dict := { s1.dict with peg := none, staged := [], leaseEnd := 0 } }

/-- The classes that the start-up's cause loses, P with them where a value that could not be signed goes (R7, R431), and those lost with the dictionary record, each recorded (R416, R417). DEDUCED, log 82. -/
def startClasses (s : State) (copies : Bool) : State :=
  let cause := s.mod.cause
  let s1 := if cause = 0 then s else
    let t := loadP (loseSVT s) copies
    let t1 := if copies then t else { t with dict := { t.dict with resets := [] } }
    let lostP := s.dict.od.any fun e => isPKey e.1 && (fget t1.dict.od e.1).isNone && odNow s (e.1 / 256) (e.1 % 256) != odNow t1 (e.1 / 256) (e.1 % 256)
    recordReset (bumpIfChanged s t1) cause 0xFF (if lostP then 15 else 14)
  if copies then s1
  else
    let t := loadP (loseSVT s1) false
    logEvent (recordReset (bumpIfChanged s1 t) 8 0xFF 15) 0x0012 3 0 0

/-! ## What start-up sets -/

/-- The release of domain 76 (Table 19.5 at 0 ms). -/
def releaseLogic (s : State) (f : StartFacts) : State :=
  let s1 := darkModule s
  let m := { s1.mod with op := .start, phase := .running, pwrGood := true, slotId := f.slotId, jtagSel := f.jtagSel,
                         time := if s.mod.cause = 0 then s1.mod.time else 0#64,
                         fullAt := if s.mod.cause = 0 then s1.mod.fullAt else 0, maxSkew := 0, haltSeen := false,
                         startResult := if !f.identityOk then 1 else if !f.calOk then 2 else 0, wasShort := false, dvsecSize := 0 }
  let t := { s1.trust with keyAvailable := false, keyDerived := false, op := none, done := true, pend := false, dropped := false,
                           svn := 0, result := 0, writable := false, restored := !f.bootCopies, debugSeen := false,
                           logMark := s1.flog.count, spdm := [], fwdig := [[], []] }
  let p := { s1.power with throttled := !s1.mod.throttleN }
  ({ s1 with mod := m, trust := t, power := p }).emit (.pin "PWR_GOOD" true)

/-- Counters and observation registers (R473, Table 18.4): banks restart with their domains, EPOCH_SH with the module. DEDUCED, log 84. -/
def resetObs (s : State) : State :=
  let shared := (List.range 128).map sliceBank ++ (List.range 32).map (fun i => ctrlBank (i / 8) (i % 8)) ++
    (List.range 160).map (fun i => tenonBank (i / 16) (i % 16)) ++ [framerBank] ++ (List.range 256).map chuteBank
  let epoch := if s.mod.cause = 0 then s.obs.epochSh else 0
  let o := State.reset.obs
  clearClasses { s with obs := { o with epochSh := epoch, banks := if epoch = 0 then [] else shared.map fun k => (k, Bank.zero) } }

/-- The slot that runs: its versions, SVN and trial. -/
def startSlot (s : State) (r : BootRec) (copies : Bool) : State :=
  let n := r.pref
  let known := slotVerdict s n
  let svn := (known.map (·.1)).getD ((mcVerdict s n).getD 0)
  let versions := (known.map (·.2)).getD [imageVersion (slotMem s n) 0, 0, 0]
  let keep := if copies ∧ r ≠ s.flash.boot then some s.flash.boot else none
  { s with flash := { s.flash with boot := r },
           trust := { s.trust with runSlot := n, runSvn := svn, runVersions := versions, onTrial := r.trial, bootKeep := keep } }

/-- The spare-map record is applied; where no copy verifies it starts again from the first spare map (R423);
a change of the mapping advances the generation (R10). DEDUCED, log 84. -/
def applySpareMap (s : State) (copies : Bool) : State :=
  let m : SpareMap := if copies then s.flash.spare else Flash.shipped.spare
  let bay := fun (n : Nat) => (n, if m.retired.contains n then { Bay.offBay with st := BaySt.retired } else Bay.offBay)
  let s1 := { s with groves := m.groves, deadGroves := m.dead, bays := (List.range 4).map bay,
                     flash := { s.flash with spare := m },
                     mem := { s.mem with mappedOut := m.out, setOut := m.setOut, mapouts := m.moves, correctedAt := [], failedAt := [] } }
  let s2 := if m.groves = s.groves then s1 else bumpGeneration s1
  publishOut (if copies then s2 else logEvent s2 0x0012 2 0 0)

/-- A bay is powered: joint ring, cache halves, compute domains at point 3 (Table 19.5 at 460 ms). -/
def powerBay (s : State) (n : Nat) : State :=
  if (s.bay n).st = .retired then s
  else
    let s1 := (List.range 19).foldl (fun t d => t.setDom (19 * n + d) { Dom.offDom with pt := 3 }) s
    bayDomains (s1.setBay n { Bay.offBay with st := .running }) n .on

/-- Bays are powered, those short of groves retired, and DRAM trained (R200, R452, Table 19.5 at 460 and 760 ms). -/
def powerBays (s : State) (bad : List Nat) : State :=
  let s1 := retireShort ((List.range 4).foldl powerBay s)
  let live := bad.filter fun ch => decide (ch < 1024) && bayUp s1 (chanBay ch)
  let s2 := mapOutAll s1 live 1
  let s3 := if (List.range 4).any (fun n => decide (workingGroves s2 n < 160)) then { s2 with mod := { s2.mod with wasShort := true } } else s2
  s3.setMem { s3.mem with zeroMarks := if usableLines s3 = 0 then [] else [(0, usableLines s3)] }

/-- Function resources: the defaults of f = 0 where the S class was lost (Table 12.5), and only groves that still exist. DEDUCED, log 53. -/
def startFns (s : State) (lost : Bool) : State :=
  let live := fun (g : Nat) => !(groveEnt s g).lost && (s.bay (groveEnt s g).bay).st != .retired
  if lost then
    odPutNat { s with fns := [(0, { Fn.blank with groves := (List.range 768).filter live })] } 0x6010 3 (usableSize s / 2 ^ 30)
  else { s with fns := s.fns.map fun e => (e.1, { e.2 with groves := e.2.groves.filter live }) }

/-- Domains 77, 78 and 79 are powered; admission of the rafter dies follows (R354). -/
def powerGirt (s : State) : State :=
  let s1 := s.setDom 77 { Dom.offDom with st := .on, pt := 3 }
  [0, 1].foldl (fun t n => if odNat t (0x1400 + n) 6 = 1 then t.setDom (78 + n) { Dom.offDom with st := .on, pt := 3 } else t) s1

/-- The CXL DVSEC before START ends (R323, Table 19.5 at 360 ms). -/
def showDvsec (s : State) : State :=
  { s with mod := { s.mod with memInfoValid := true, memActive := false, dvsecSize := usableSize s / 2 ^ 28 * 2 ^ 28 } }

/-- Do the steps that need the bay microcode, Framer firmware and calibration record run (R427, R494)? -/
def mayPower (s : State) : Bool := s.mod.startResult != 2 && bootable s s.trust.runSlot

/-- The greatest skew of the groves as the last full counts measured it (R41): a free value within R40's bound. DESIGN CHOICE, log 54. -/
def measureSkew (s : State) : State :=
  let (x, s1) := s.draw
  { s1 with mod := { s1.mod with maxSkew := max s1.mod.maxSkew (x.toNat % 21) } }

/-- The MC's part of start-up. DEDUCED, log 84. -/
def startMc (s : State) (f : StartFacts) (r : BootRec) (lost : Bool) : State :=
  let s1 := startSlot s r f.bootCopies
  let s2 := powerGirt (applySpareMap s1 f.spareCopies)
  let s3 := if mayPower s2 then measureSkew (powerBays s2 f.badChannels) else s2
  let s4 := showDvsec (startFns s3 lost)
  { s4 with power := { s4.power with capNow := capTarget s4 } }

/-- START_UP: the sequence of Table 19.5 up to 760 ms, as one step; device time goes on with its tokens. DESIGN CHOICE, log 55. -/
def execStartUp (facts : StartFacts) (s : State) : Host.Outcome State Fault Refusal :=
  .next (
    if s.mod.phase ≠ .released then s
    else
      let s1 := resetObs (startClasses (releaseLogic s facts) facts.dictCopies)
      let s2 := if facts.bootCopies then s1 else logEvent s1 0x0012 1 0 0
      let r := bootRecord s2 facts.bootCopies
      match bootChoice s2 r with
      | none =>
        { s2 with mod := { s2.mod with phase := .romRecovery }, trust := { s2.trust with runSlot := r.pref, bootKeep := none } }
      | some c => startMc s2 facts c (decide (s.mod.cause ≠ 0) || !facts.dictCopies))

/-! ## The identity key (R431) -/

/-- Events whose record must be signed: their log entries gain bit 31 when it cannot be (R443). -/
def recordEvent (e : Nat) : Bool := (2 ≤ e && e ≤ 4) || e == 8 || e == 9 || e == 0x12

/-- The key is unavailable: changed records stay unwritten, and the entries that report them say so. DEDUCED, log 63. -/
def keyFails (s : State) : State :=
  let mark := fun (x : FlogEnt) =>
    if x.seq < s.trust.logMark ∨ !recordEvent x.event then x else { x with detail := x.detail ||| 0x80000000#32 }
  let boot := s.trust.bootKeep.getD s.flash.boot
  logEvent { s with flog := { s.flog with entries := s.flog.entries.map mark }, flash := { s.flash with boot := boot },
                    trust := { s.trust with bootKeep := none } } 0x0011 0 0 0

/-- IDENTITY_DERIVED: the key is available where its modulus matches the device certificate; what waited is written.
DESIGN CHOICE, log 55. -/
def execIdentityDerived (matched : Bool) (s : State) : Host.Outcome State Fault Refusal :=
  .next (
    if s.trust.keyDerived ∨ (s.mod.phase ≠ .running ∧ s.mod.phase ≠ .romRecovery) then s
    else
      let ok := matched && s.mod.startResult != 1
      let s1 := { s with trust := { s.trust with keyDerived := true, keyAvailable := ok } }
      if !ok then keyFails s1
      else
        let s2 := { s1 with trust := { s1.trust with bootKeep := none } }
        if s2.mod.phase = .romRecovery then s2 else writeDictRecord (writeSpareMap s2))

/-! ## The end of START (R429, R494) -/

/-- A held start keeps the device in START (R424). DEDUCED, log 83. -/
def holdStart (s : State) (why : Nat) : State :=
  logEvent { s with mod := { s.mod with phase := .held, startResult := why } } 0x0010 0 0 why

/-- The MC points PREF at the other slot and resets the module with cause 3 (R429). DEDUCED, log 83. -/
def fallBack (s : State) : State :=
  let b := { s.flash.boot with pref := inactiveSlot s, trial := false }
  releasePoint (resetModule (setBoot s b)) 3

/-- The state that START ends in. DEDUCED, log 84. -/
def afterStart (s : State) : OpState :=
  if s.mod.wasShort then .recovery else if odNat s 0x2000 3 = 1 then .test else .service

/-- START ends: Memory_Active is 1, TRIES returns to 0 where the boot record can be signed, and a low HALT_N fells. DEDUCED, log 83. -/
def leaveStart (s : State) : State :=
  let b := if s.trust.keyAvailable then { s.flash.boot with tries := 0 } else s.flash.boot
  let s1 := setBoot s b
  let s2 := { s1 with mod := { s1.mod with op := afterStart s, phase := .ended, memActive := true, haltSeen := false },
                      trust := { s1.trust with startCounter := b.counter } }
  if s.mod.haltSeen || !s.mod.haltN then startFell s2 0xFF01 2 else s2

/-- START_END: once the identity derivation has ended. DESIGN CHOICE, log 55. -/
def execStartEnd (s : State) : Host.Outcome State Fault Refusal :=
  .next (
    if s.mod.phase ≠ .running ∨ !s.trust.keyDerived then s
    else if s.mod.startResult ≠ 0 then holdStart s s.mod.startResult
    else if bootable s s.trust.runSlot then leaveStart s
    else if s.trust.keyAvailable && bootable s (inactiveSlot s) then fallBack s
    else holdStart s 3)

/-! ## Core-steps (R307) -/

/-- The kernel of a context that a held core is charged to: that of its lowest slot. -/
def heldBy (s : State) (core : Nat) : List (Nat × Nat) :=
  ((s.core core).slots).foldl (fun (l : List (Nat × Nat)) e => match fget s.kerns e.2.kernel with
    | some k => if l.any (fun x => x.1 == k.ctx) then l else l ++ [(k.ctx, e.2.kernel)]
    | none => l) []

/-- Charges core-steps to a kernel's class (R307, R308) and to the energy division (R320). -/
def chargeSteps (s : State) (core kernel n : Nat) : State :=
  match fget s.kerns kernel with
  | none => s
  | some k =>
    let s1 := odAdd (s.setKern kernel { k with charged := k.charged + n }) (0x7100 + k.cls) 2 n
    let key := coreDomain s core * 2 ^ 32 + kernel
    { s1 with classC := bump s1.classC (classKey k.part k.cls) n, power := { s1.power with steps := bump s1.power.steps key n } }

/-- The steps that each domain with a held core makes in 64 ns: its own self-timed rate, a free value. DESIGN CHOICE, log 8. -/
def drawSteps (s : State) : FMap Nat × State :=
  s.cores.foldl (fun acc e =>
    let g := coreDomain acc.2 e.1
    if e.2.slots.isEmpty || (fget acc.1 g).isSome || (acc.2.dom g).st != .on then acc
    else
      let (x, t) := acc.2.draw
      (fset acc.1 g (x.toNat % 256), t)) ([], s)

/-- Every held core is charged to the contexts that hold it. -/
def chargeAll (s : State) : State :=
  let (rates, s1) := drawSteps s
  s1.cores.foldl (fun t e => (heldBy t e.1).foldl (fun u x => chargeSteps u e.1 x.2 (fgetD rates (coreDomain u e.1) 0)) t) s1

/-! ## Device time (R38 to R41) -/

/-- Does device time run: domain 76 released, and the count started? -/
def timeRuns (s : State) : Bool := moduleOn s && (s.mod.phase != .released || s.mod.cause == 0)

/-- The instant of the next time token: the next multiple of 64 ns (R39). -/
def nextToken (t : W64) : W64 := t + BitVec.ofNat 64 (64 - t.toNat % 64)

/-- TIME_TOKEN: device time comes to the next token (R39), every held core's steps are charged, and what waited for a translation is tried
again. DESIGN CHOICE, log 3, 54. -/
def execTimeToken (s : State) : Host.Outcome State Fault Refusal :=
  .next (if timeRuns s then drainResets (chargeAll (framerDues (writeFaultRecords { s with mod := { s.mod with time := nextToken s.mod.time } }))) else s)

/-- FULL_COUNT_TOKEN: once in each interval of 65,536 ns the groves whose domain is on get the full count and issue timestamps again
(R39, R41). DEDUCED, log 85. -/
def execFullCountToken (s : State) : Host.Outcome State Fault Refusal :=
  .next (
    if !timeRuns s ∨ s.now / 65536 ≤ s.mod.fullAt then s
    else
      measureSkew { s with mod := { s.mod with fullAt := s.now / 65536,
                                               groveWait := s.mod.groveWait.filter fun g => (s.dom (groveDomain s g)).st != .on } })

/-- TIME_SOURCE_CHANGE: a port's reference clock is lost; the count goes on, and the port's link is lost (R38, R489). DEDUCED, log 85. -/
def execTimeSourceChange (port : Nat) (s : State) : Host.Outcome State Fault Refusal :=
  .next (
    if 2 ≤ port then s
    else
      let s1 := { s with mod := { s.mod with refclk := s.mod.refclk.set port false } }
      if (s.mod.refclk[port]?).getD false then dropLink s1 port else s1)

/-- REFERENCE_CLOCK_RETURN: the count goes on from the clock of highest precedence (R38). -/
def execReferenceClockReturn (port : Nat) (s : State) : Host.Outcome State Fault Refusal :=
  .next (if port < 2 then { s with mod := { s.mod with refclk := s.mod.refclk.set port true } } else s)

end Sys2Proof.Machine
end

