-- ==== Sys2Proof/Machine/Tile.lean ====
section
/-! DEFINITION. The matrix array: entry of tile instructions into the tile queue, the TILE slot, passes, sequences, stores,
clears and the folded logical tiles (R100, R101, R107 to R134, R140 to R143). -/

namespace Sys2Proof.Machine

/-- The value of an input element of a floating tile type. -/
def tileElem (ty v : Nat) : FV :=
  match ty with
  | 0 => fvDecode fmtBF16 v
  | 1 => fvDecode fmtF16 v
  | 2 => fvDecode fmtE4M3 v
  | 3 => fvDecode fmtE5M2 v
  | 6 => fvDecode fmtE4M3 v
  | 7 => fvDecode fmtE5M2 v
  | 8 => fvDecode fmtE2M3 v
  | 9 => fvDecode fmtE3M2 v
  | 10 => fvDecode fmtE2M1 v
  | _ => let n := signedOf 8 v; .fin (decide (n < 0)) n.natAbs (-6)

/-- Element k of row or column i of an operand (Table 04.1). -/
def operandElem (ty : Nat) (b : List Byte) (i k : Nat) : Nat :=
  leNat ((b.drop (tileRow ty * i)).take (tileRow ty)) / 2 ^ (tileBits ty * k) % 2 ^ tileBits ty

/-! ## One pass -/

/-- A product scaled by the E8M0 scales of its row and column (R138, R140). -/
def scaleBy (xa xb : Nat) : FV → FV
  | .fin n m e => .fin n m (e + xa + xb - 254)
  | v => v

/-- The new element of a floating pass (R140 to R142): products and held value summed exactly, rounded once. A negative sum that
rounds to zero gives −0, as IEEE 754 rounds it. DESIGN CHOICE, log 90. -/
def floatCell (ty : Nat) (a b : List Byte) (sa sb i j held : Nat) : Nat :=
  if tileMx ty ∧ (sa = 255 ∨ sb = 255) then 0x7FC00000
  else
    let prods := (List.range (tileK ty)).map fun k =>
      let v := fvMul (tileElem ty (operandElem ty a i k)) (tileElem ty (operandElem ty b j k))
      if tileMx ty then scaleBy sa sb v else v
    fvEncode fmtF32 0 false 0 (prods.foldl fvAdd (fvDecode fmtF32 held))

/-- The new element of an integer pass, modulo 2^32 (R143). -/
def intCell (ty : Nat) (a b : List Byte) (i j held : Nat) : Nat :=
  let n := tileBits ty
  patternOf 32 ((List.range (tileK ty)).foldl
    (fun acc k => acc + signedOf n (operandElem ty a i k) * signedOf n (operandElem ty b j k)) (held : Int))

/-- Element (i, j) of a tile. -/
def Whorl.cell (wh : Whorl) (t e : Nat) : Nat := (fgetD wh.acc (16 * t + e) 0#32).toNat

def Whorl.setCell (wh : Whorl) (t e n : Nat) : Whorl := { wh with acc := fset wh.acc (16 * t + e) (BitVec.ofNat 32 n) }

/-- Marks a tile live (R312). -/
def Whorl.touchTile (wh : Whorl) (t : Nat) : Whorl := { wh with liveT := wh.liveT ||| bitN 4 t }

/-- One pass into tile t (R108): A and B bytes, and the scales of rows and columns. -/
def tilePass (wh : Whorl) (ty t : Nat) (a b sa sb : List Byte) : Whorl :=
  (List.range 16).foldl (fun w e =>
    let i := e / 4
    let j := e % 4
    w.setCell t e (if tileInt ty then intCell ty a b i j (wh.cell t e)
      else floatCell ty a b ((sa[i]?).getD 0#8).toNat ((sb[j]?).getD 0#8).toNat i j (wh.cell t e))) (wh.touchTile t)

/-- Clears tile t and sets its element type for a tile type (R101, R117, R142). -/
def tileClear (wh : Whorl) (ty t : Nat) : Whorl :=
  let w := { wh with acc := wh.acc.filter fun e => e.1 / 16 != t }
  { w.touchTile t with accInt := if tileInt ty then wh.accInt ||| bitN 4 t else wh.accInt &&& ~~~(bitN 4 t) }

/-- Does the tile hold the element type that a tile type calls for (R101)? -/
def tileFits (wh : Whorl) (ty t : Nat) : Bool := ty == 12 || wh.accInt.getLsbD t == tileInt ty

/-- Writes bytes of a tile. -/
def tileWrite (s : State) (ctx core va : Nat) (b : List Byte) : State :=
  match tilePlaces s ctx core .write va b.length with
  | (some ps, _, s1) =>
    (ps.foldl (fun (acc : State × List Byte) p => (storeWrite acc.1 p.1 (acc.2.take p.2) false, acc.2.drop p.2)) (s1, b)).1
  | (none, _, s1) => s1

/-! ## Legality and entry (R100, R101, R111) -/

/-- Fields that are 0 where an instruction does not use them, and its accepted types. -/
def legalTile (k : TileKind) (f : FTile) : Bool :=
  let ty := f.ty.toNat
  match k with
  | .mac => decide (ty < 12) && uOk f.a && uOk f.b && (if tileMx ty then uOk f.c else f.c == 0#7) && f.rnd == 0#2 &&
      f.sat == 0#1
  | .seq => decide (ty < 12) && uOk f.a && uOk f.b && uOk f.c && f.rnd == 0#2 && f.sat == 0#1
  | .fold => decide (ty < 6) && uOk f.a && uOk f.b && uOk f.c && decide (f.rnd.toNat < 2) && f.sat == 0#1 && f.acc == 0#2
  | .st => (decide (ty < 6) || ty == 12) && uOk f.a && f.b == 0#7 && f.c == 0#7 && f.rnd != 3#2 &&
      (f.rnd == 0#2 || decide (ty < 4)) && (f.sat == 0#1 || ty == 2 || ty == 3)
  | .zero => decide (ty < 12) && f.a == 0#7 && f.b == 0#7 && f.c == 0#7 && f.rnd == 0#2 && f.sat == 0#1 && f.ms == 0#1 &&
      f.mask == 0#16

/-- A tile fault: KIND bit 3, and bit 0 for a write (Table 02.6). -/
def tileFault (code : Nat) (write : Bool) (addr : Nat) (lanes : BitVec 16) : FaultInfo :=
  { code := code, lanes := lanes, kind := if write then 9 else 8, addr := addr, other := 0 }

/-- The first fault of a list of ranges: alignment before translation (R76). -/
def rangeFault (s : State) (ctx core : Nat) (lanes : BitVec 16) (rs : List (Nat × Nat × Nat × Bool)) : Option FaultInfo :=
  match rs.find? (fun r => r.1 % r.2.1 != 0) with
  | some r => some (tileFault 2 r.2.2.2 r.1 lanes)
  | none =>
    match rs.find? (fun r => !tileInside s ctx core (if r.2.2.2 then .write else .read) r.1 r.2.2.1) with
    | some r =>
      if (tilePlaces s ctx core (if r.2.2.2 then .write else .read) r.1 r.2.2.1).2.1
      then some { tileFault 4 r.2.2.2 r.1 lanes with kind := (if r.2.2.2 then 9 else 8) + 32 }
      else some (tileFault 3 r.2.2.2 r.1 lanes)
    | none => none

/-- The entry of a tile instruction into its whorl's queue. -/
def tileEntry (s : State) (wh : Whorl) (k : TileKind) (f : FTile) (pc : W64) (lanes : BitVec 16) : TileOp :=
  let u := fun (r : BitVec 7) => BitVec.ofNat 64 (wh.uget (regNo r % 32))
  { kind := k, f := f, a := u f.a, b := u f.b, c := u f.c, pc := pc, lanes := lanes, mark := s.mem.nextReq }

/-- A last member that finds the tile queue full stops the watchdog of its instance (R127). -/
def queueFull (s : State) (w : Wid) (wh : Whorl) (p : Path) (m : BitVec 16) : State :=
  putWhorl s w { wh with colls := wh.colls.map fun c =>
    if c.pc = p.pc ∧ c.mask = m ∧ (c.arrived ||| p.lanes) = m ∧ c.fullAt = none then { c with fullAt := some s.now } else c }

/-- An entry of the tile queue has freed: the watchdogs that it stopped go on (R127). -/
def queueFreed (now : Nat) (wh : Whorl) : Whorl :=
  { wh with colls := wh.colls.map fun c => match c.fullAt with
    | some t => { c with opened := c.opened + (now - t), fullAt := none }
    | none => c }

/-- The major opcode of a tile instruction (Table 03.9). -/
def TileKind.opc : TileKind → BitVec 6
  | .mac => 0x28#6
  | .seq => 0x29#6
  | .fold => 0x2A#6
  | .st => 0x2B#6
  | .zero => 0x2C#6

/-- A tile collective: it executes by entering the queue (R111); a full queue makes its path not ready. -/
def tileIssue (s : State) (w : Wid) (f : FTile) (k : TileKind) (legal : Bool) : State :=
  let keys := [f.a, f.b, f.c].flatMap (fun r => if isU r then regKeys 1 r else []) ++
    (if f.ms = 1#1 then [64 + f.mask.toNat % 32] else [])
  issueInstr s w false (tileWord ⟨k.opc, 0⟩ f) f.gn f.gp (guardAll f.gn f.gp && maskFieldOk f.ms f.mask && legalTile k f && legal) keys
    fun s1 wh p =>
      let m := memberMask wh f.ms f.mask
      if m = 0#16 then .fault { code := 1, lanes := p.lanes, kind := 0, addr := 0, other := 0 } s1
      else if acquireOpen s1 w p then .stay
      else if 2 ≤ wh.tileQ.length then .held (queueFull s1 w wh p m)
      else
        match arrive s1 w wh p m (.tile k f) with
        | .mismatch i => .fault i s1
        | .waits s2 => .jumped s2
        | .complete wh1 =>
          let t := tileEntry s1 wh k f p.pc m
          match rangesNeed s1 (whorlCtx s1 wh) (entryRanges k f t.a.toNat t.b.toNat t.c.toNat) with
          | some e => .held (callLine s1 e 8 (.core w.core w.slot))
          | none =>
          match rangeFault s1 (whorlCtx s1 wh) w.core m (entryRanges k f t.a.toNat t.b.toNat t.c.toNat) with
          | some i => .fault i s1
          | none => .jumped (putWhorl s1 w { wh1 with tileQ := wh1.tileQ ++ [t] })

def execTileMac (w : Wid) (f : FTile) (s : State) : Host.Outcome State Fault Refusal := .next (tileIssue s w f .mac true)
def execTileSeq (w : Wid) (f : FTile) (s : State) : Host.Outcome State Fault Refusal := .next (tileIssue s w f .seq true)
def execTileSt (w : Wid) (f : FTile) (s : State) : Host.Outcome State Fault Refusal := .next (tileIssue s w f .st true)

/-- The partition's SN2 compatibility mode, OD 0x6010 + f:06 (R129). -/
def sn2Mode (s : State) (w : Wid) : Bool :=
  match whorlOf s w with
  | some wh =>
    (match ctxFn s (whorlCtx s wh) with
     | some f => odNat s (0x6010 + f) 6 == 1
     | none => false)
  | none => false

def execTileL (w : Wid) (f : FTile) (s : State) : Host.Outcome State Fault Refusal :=
  .next (tileIssue s w f .fold (sn2Mode s w))

/-- TILE.ZERO is no collective: it enters the queue once for the path, by the guard of its lowest thread (R117). -/
def execTileZero (w : Wid) (f : FTile) (s : State) : Host.Outcome State Fault Refusal :=
  .next (issueInstr s w false (tileWord ⟨0x2C, 0⟩ f) f.gn f.gp (guardOk f.gn f.gp && legalTile .zero f) [] fun s1 wh p =>
    if !wh.guard f.gn f.gp (lowLane p) then .next s1
    else if 2 ≤ wh.tileQ.length then .stay
    else .next (putWhorl s1 w { wh with tileQ := wh.tileQ ++ [tileEntry s1 wh .zero f p.pc p.lanes] }))

/-! ## What a started instruction does -/

/-- The outcome of a started tile instruction. -/
inductive TileDone where
  | ok (s : State) (wh : Whorl)
  | fault (i : FaultInfo) (s : State)

/-- Reads an operand, or reports its fault. -/
def withOperand (s : State) (ctx core : Nat) (lanes : BitVec 16) (va len : Nat) (k : List Byte → State → TileDone) :
    TileDone :=
  match tileRead s ctx core va len with
  | .ok b s1 => k b s1
  | .outside s1 => .fault (tileFault 3 false va lanes) s1
  | .poisoned s1 => .fault (tileFault 4 false va lanes) s1

def illegalTile (t : TileOp) (s : State) : TileDone :=
  .fault { code := 1, lanes := t.lanes, kind := 0, addr := 0, other := 0 } s

/-- Streamer counters: bytes read and written (Table 18.1). -/
def countStream (s : State) (core word n : Nat) : State := count s (coreBank core 2) word n

/-- TILE.MAC: one pass (R116). -/
def startMac (s : State) (w : Wid) (ctx : Nat) (wh : Whorl) (t : TileOp) : TileDone :=
  let ty := t.f.ty.toNat
  if !tileFits wh ty t.f.acc.toNat then illegalTile t s
  else
    withOperand s ctx w.core t.lanes t.a.toNat (tileSize ty) fun a s1 =>
    withOperand s1 ctx w.core t.lanes t.b.toNat (tileSize ty) fun b s2 =>
      let sc := leBytes 8 t.c.toNat
      let s3 := count (countStream s2 w.core 3 (2 * tileSize ty)) (coreBank w.core 0) 3 1
      .ok s3 (tilePass wh ty t.f.acc.toNat a b (sc.take 4) (sc.drop 4))

/-- The scales of one run of 16 groups (R121): its number, 64 B of A scales and 64 B of B scales. -/
structure SeqScales where
  run : Option Nat
  a : List Byte
  b : List Byte

/-- The scales that a pass needs, read before the first issued pass of each run (R121). -/
def withScales (ctx core : Nat) (ty : Nat) (t : TileOp) (d : SeqDesc) (p : Nat) (sc : SeqScales) (s : State)
    (k : SeqScales → State → TileDone) : TileDone :=
  let run := p / groupPasses ty / 16
  if !tileMx ty || sc.run == some run then k sc s
  else
    withOperand s ctx core t.lanes (d.sca + 64 * run) 64 fun a s1 =>
    withOperand s1 ctx core t.lanes (d.scb + 64 * run) 64 fun b s2 =>
    k { run := some run, a := a, b := b } (countStream s2 core 3 128)

/-- The passes of a sequence in order (R119, R121, R123). -/
def seqPasses (ctx core : Nat) (ty : Nat) (t : TileOp) (d : SeqDesc) (bmap : Nat) : List Nat → SeqScales → State → Whorl → TileDone
  | [], _, s, wh => .ok s wh
  | p :: ps, sc, s, wh =>
    if d.bmap ≠ 0 ∧ !bmap.testBit p then seqPasses ctx core ty t d bmap ps sc (count s (coreBank core 0) 5 1) wh
    else
      let g := p / groupPasses ty % 16
      withScales ctx core ty t d p sc s fun sc1 s1 =>
      withOperand s1 ctx core t.lanes (passAddr t.a.toNat d.astr p) (tileSize ty) fun a s2 =>
      withOperand s2 ctx core t.lanes (passAddr t.b.toNat d.bstr p) (tileSize ty) fun b s3 =>
        let s4 := count (countStream s3 core 3 (2 * tileSize ty)) (coreBank core 0) 3 1
        seqPasses ctx core ty t d bmap ps sc1 s4
          (tilePass wh ty t.f.acc.toNat a b ((sc1.a.drop (4 * g)).take 4) ((sc1.b.drop (4 * g)).take 4))

/-- TILE.SEQ (R118 to R123). -/
def startSeq (s : State) (w : Wid) (ctx : Nat) (wh : Whorl) (t : TileOp) : TileDone :=
  let ty := t.f.ty.toNat
  match rangeFault s ctx w.core t.lanes [(t.c.toNat, 32, 32, false)] with
  | some i => .fault i s
  | none =>
    withOperand s ctx w.core t.lanes t.c.toNat 32 fun db s1 =>
      let d := seqDesc db
      if !d.zeros || (if tileMx ty then d.sca == 0 || d.scb == 0 else d.sca != 0 || d.scb != 0) ||
          (!d.zf && !tileFits wh ty t.f.acc.toNat) then illegalTile t s1
      else
        match rangeFault s1 ctx w.core t.lanes (seqRanges ty t d) with
        | some i => .fault i s1
        | none =>
          let go := fun (bm : List Byte) (s2 : State) =>
            let wh1 := if d.zf then tileClear wh ty t.f.acc.toNat else wh
            seqPasses ctx w.core ty t d (leNat bm) (List.range d.n) { run := none, a := [], b := [] } (countStream s2 w.core 3 32) wh1
          if d.bmap = 0 then go [] s1
          else withOperand s1 ctx w.core t.lanes d.bmap 32 fun bm s2 => go bm (countStream s2 w.core 3 32)

/-- The stored code of one element under TILE.ST (R124): output type, rounding, draw. -/
def storeElem (ty rnd : Nat) (sat int : Bool) (draw held : Nat) : Nat :=
  let v := if int then fvInt (signedOf 32 held) else fvDecode fmtF32 held
  match ty with
  | 0 => fvEncode fmtBF16 rnd sat draw v
  | 1 => fvEncode fmtF16 rnd sat draw v
  | 2 => fvEncode fmtE4M3 rnd sat draw v
  | 3 => fvEncode fmtE5M2 rnd sat draw v
  | 4 => elemConvert 11 0 false 0 v
  | 5 => elemConvert 12 0 false 0 v
  | _ => held

/-- Elements converted in order of index, each with its draw under RND 10 (R147, R148). -/
def storeElems (ty rnd : Nat) (sat : Bool) (wh : Whorl) (t : Nat) : List Nat → W64 → List Nat × W64
  | [], g => ([], g)
  | e :: es, g =>
    let g1 := if rnd = 2 then genStep g else g
    let v := storeElem ty rnd sat (wh.accInt.getLsbD t) (g1.toNat / 2 ^ 48) (wh.cell t e)
    let (vs, g2) := storeElems ty rnd sat wh t es g1
    (v :: vs, g2)

/-- Elements packed low bits first. -/
def packElems (n : Nat) (vs : List Nat) : Nat := (vs.reverse).foldl (fun acc v => acc * 2 ^ n + v % 2 ^ n) 0

/-- TILE.ST (R124, R125). -/
def startSt (s : State) (w : Wid) (ctx : Nat) (wh : Whorl) (t : TileOp) : TileDone :=
  let ty := t.f.ty.toNat
  let tile := t.f.acc.toNat
  if !tileFits wh ty tile then illegalTile t s
  else
    match rangeFault s ctx w.core t.lanes (entryRanges .st t.f t.a.toNat 0 0) with
    | some i => .fault i s
    | none =>
      let (vs, g) := storeElems ty t.f.rnd.toNat (t.f.sat == 1#1) wh tile (List.range 16) (genOf s w.core ctx)
      let s1 := if t.f.rnd = 2#2 then setGen s w.core ctx g else s
      let n := if ty = 12 then 32 else tileBits ty
      let b := leBytes (2 * n) (packElems n vs)
      .ok (countStream (tileWrite s1 ctx w.core t.a.toNat b) w.core 4 b.length) wh

/-- Eight bytes at a byte offset of four rows 32 B apart (R131). -/
def gather (rows : List Byte) (first chunk : Nat) : List Byte :=
  (List.range 4).flatMap fun r => (rows.drop (32 * (first + r) + 8 * chunk)).take 8

/-- One output block of TILE.L: four passes over its C block, read before and returned (R131). -/
def foldBlock (wh : Whorl) (ty nb t : Nat) (a b c : List Byte) : List Byte :=
  let i := t / nb
  let j := t % nb
  let w0 := (List.range 16).foldl (fun x e => x.setCell 0 e (leNat (sliceD c (4 * e) 4 0#8))) wh
  let w1 := [0, 1, 2, 3].foldl (fun x ch => tilePass x ty 0 (gather a (4 * i) ch) (gather b (4 * j) ch) [] []) w0
  (List.range 16).flatMap fun e => leBytes 4 (w1.cell 0 e)

/-- The sixteen blocks of TILE.L: block t is read and computed before block t - 2 is written. -/
def foldBlocks (ctx : Nat) (w : Wid) (wh : Whorl) (t : TileOp) (am bm nb : Nat) :
    List Nat → List (Nat × List Byte) → State → TileDone
  | [], waiting, s => .ok (waiting.foldl (fun x b => tileWrite x ctx w.core b.1 b.2) s) wh
  | k :: ks, waiting, s =>
    let ty := t.f.ty.toNat
    let ca := t.c.toNat + 64 * k
    withOperand s ctx w.core t.lanes ca 64 fun c s1 =>
    withOperand s1 ctx w.core t.lanes t.a.toNat am fun a s2 =>
    withOperand s2 ctx w.core t.lanes t.b.toNat bm fun b s3 =>
      let out := (ca, foldBlock wh ty nb k a b c)
      match waiting with
      | [x, y] => foldBlocks ctx w wh t am bm nb ks [y, out] (tileWrite s3 ctx w.core x.1 x.2)
      | _ => foldBlocks ctx w wh t am bm nb ks (waiting ++ [out]) s3

/-- TILE.L (R130, R131): it leaves all four tiles zero, with the type of R101; one that faults on the way has written nothing
(R77). -/
def startFold (s : State) (w : Wid) (ctx : Nat) (wh : Whorl) (t : TileOp) : TileDone :=
  let wide := t.f.rnd == 1#2
  match rangeFault s ctx w.core t.lanes (entryRanges .fold t.f t.a.toNat t.b.toNat t.c.toNat) with
  | some i => .fault i s
  | none =>
    match foldBlocks ctx w wh t (if wide then 1024 else 512) (if wide then 256 else 512) (if wide then 2 else 4)
        (List.range 16) [] s with
    | .fault i _ => .fault i s
    | .ok s1 _ =>
      let s2 := count (countStream (countStream s1 w.core 3 (1024 + 64 * 64)) w.core 4 1024) (coreBank w.core 0) 3 64
      .ok s2 ([0, 1, 2, 3].foldl (fun x k => tileClear x t.f.ty.toNat k) wh)

/-- A started tile instruction (R112). -/
def startTile (s : State) (w : Wid) (wh : Whorl) (t : TileOp) : TileDone :=
  let ctx := whorlCtx s wh
  match t.kind with
  | .mac => startMac s w ctx wh t
  | .seq => startSeq s w ctx wh t
  | .st => startSt s w ctx wh t
  | .fold => startFold s w ctx wh t
  | .zero => .ok s (tileClear wh t.f.ty.toNat t.f.acc.toNat)

/-- Is the head of a whorl's tile queue ready: every earlier write of the whorl to the core's store has been made (R115)?
DEDUCED, log 40. -/
def tileHeadReady (s : State) (core slot : Nat) (wh : Whorl) : Bool :=
  !wh.tileQ.isEmpty && !wh.stopped && kernelRuns s wh.kernel &&
  !(s.mem.reqs.any fun r => r.agent == .core core slot && isWriteKind r.kind &&
      decide (r.id < (wh.tileQ.head?.map (·.mark)).getD 0) && r.lanes.any fun l => !l.done && ownStore core l.pa)

/-- The slot that takes the TILE slot next, in round-robin order (R112). -/
def nextTileSlot (s : State) (core : Nat) : Option Nat :=
  let c := s.core core
  ((List.range 8).map fun i => (c.tileRr + 1 + i) % 8).find? fun k =>
    match fget c.slots k with
    | some wh => tileHeadReady s core k wh
    | none => false

/-- Does a request of R69 item 2 wait for the core's store? -/
def remoteWaits (s : State) (core : Nat) : Bool :=
  s.mem.reqs.any fun r => reqCore r != some core && r.phase == .sent &&
    r.lanes.any fun l => !l.done && ownStore core l.pa

/-- TILE_START: the next ready queue head takes the TILE slot and is carried out whole, once the walks of its ranges have their entries
(R112, R134, R336). A port-B yield that is
due goes first (R114). -/
def execTileStart (core : Nat) (s : State) : Host.Outcome State Fault Refusal :=
  .next (if !coreRuns s core || ((s.core core).yield && remoteWaits s core) then s
    else
      match nextTileSlot s core with
      | none => s
      | some slot =>
        let w : Wid := { core := core, slot := slot }
        match whorlOf s w with
        | none => s
        | some wh =>
          match wh.tileQ with
          | [] => s
          | t :: rest =>
            match rangesNeed s (whorlCtx s wh) (tileRanges s (whorlCtx s wh) core t) with
            | some e => callLine s e 8 (.core core slot)
            | none =>
            let c := s.core core
            let s1 := count (count (s.setCore core { c with tileRr := slot }) (coreBank core 0) 0 1) (coreBank core 0) 6 1
            match startTile s1 w wh t with
            | .fault i s2 => faultWhorl s2 w t.pc i
            | .ok s2 wh1 => unblock (retireWhorl (putWhorl s2 w (queueFreed s2.now { wh1 with tileQ := rest })) w))

/-- PORT_B_YIELD: a waiting request of another agent takes the next port-B step (R114). -/
def execPortBYield (core : Nat) (s : State) : Host.Outcome State Fault Refusal :=
  .next (if remoteWaits s core then s.setCore core { s.core core with yield := true } else s)

/-- May filler passes issue in a domain: not while its limit is set for heat, nor in a fall that ignores the ramp (R391, R392)? -/
def fillerAllowed (s : State) (d : Nat) : Bool :=
  !(s.dom d).why.testBit 3 && !(s.dom d).why.testBit 4 && !(s.dom d).ptWhy.testBit 3 && !(s.power.throttled && odNat s 0x3000 4 == 1)

/-- FILLER_PASS: a filler pass issues in an array step that no tile instruction uses; it reads and changes no tile (R133). -/
def execFillerPass (core : Nat) (s : State) : Host.Outcome State Fault Refusal :=
  .next (if coreUsed s core && (s.dom (coreDomain s core)).st == .on && fillerAllowed s (coreDomain s core) && (nextTileSlot s core).isNone
    then count s (coreBank core 0) 4 1 else s)

end Sys2Proof.Machine
end

