-- ==== Sys2Proof/Machine/Dispatch.lean ====
section
/-! DEFINITION. One arm per command: a direct call of its meaning. -/

namespace Sys2Proof.Machine

open Sys2Proof

/-- The effect of a command on everything but the queue of waiting commands. -/
def exec (i : Instr) (s : State) : Host.Outcome State Fault Refusal :=
  match i with
  | .enterService p => Sys2Proof.Machine.execEnterService p s
  | .enterTest p => Sys2Proof.Machine.execEnterTest p s
  | .enterRecovery p => Sys2Proof.Machine.execEnterRecovery p s
  | .enterStandby p => Sys2Proof.Machine.execEnterStandby p s
  | .standbyEntered => Sys2Proof.Machine.execStandbyEntered s
  | .wakeFromStandby p => Sys2Proof.Machine.execWakeFromStandby p s
  | .moduleResetRequest p => Sys2Proof.Machine.execModuleResetRequest p s
  | .startUp facts => Sys2Proof.Machine.execStartUp facts s
  | .startEnd => Sys2Proof.Machine.execStartEnd s
  | .identityDerived matched => Sys2Proof.Machine.execIdentityDerived matched s
  | .retireGrove p n => Sys2Proof.Machine.execRetireGrove p n s
  | .timeToken => Sys2Proof.Machine.execTimeToken s
  | .fullCountToken => Sys2Proof.Machine.execFullCountToken s
  | .timeSourceChange port => Sys2Proof.Machine.execTimeSourceChange port s
  | .iadd w f => Sys2Proof.Machine.execIadd w f s
  | .isub w f => Sys2Proof.Machine.execIsub w f s
  | .imin w f => Sys2Proof.Machine.execImin w f s
  | .imax w f => Sys2Proof.Machine.execImax w f s
  | .and w f => Sys2Proof.Machine.execAnd w f s
  | .or w f => Sys2Proof.Machine.execOr w f s
  | .xor w f => Sys2Proof.Machine.execXor w f s
  | .shl w f => Sys2Proof.Machine.execShl w f s
  | .shr w f => Sys2Proof.Machine.execShr w f s
  | .sar w f => Sys2Proof.Machine.execSar w f s
  | .iabs w f => Sys2Proof.Machine.execIabs w f s
  | .movi w f => Sys2Proof.Machine.execMovi w f s
  | .movhi w f => Sys2Proof.Machine.execMovhi w f s
  | .imul w f => Sys2Proof.Machine.execImul w f s
  | .imulhi w f => Sys2Proof.Machine.execImulhi w f s
  | .imad w f => Sys2Proof.Machine.execImad w f s
  | .idiv w f => Sys2Proof.Machine.execIdiv w f s
  | .irem w f => Sys2Proof.Machine.execIrem w f s
  | .ones w f => Sys2Proof.Machine.execOnes w f s
  | .zlead w f => Sys2Proof.Machine.execZlead w f s
  | .bitrev w f => Sys2Proof.Machine.execBitrev w f s
  | .fldx w f => Sys2Proof.Machine.execFldx w f s
  | .fldi w f => Sys2Proof.Machine.execFldi w f s
  | .eq w f => Sys2Proof.Machine.execEq w f s
  | .ne w f => Sys2Proof.Machine.execNe w f s
  | .lt w f => Sys2Proof.Machine.execLt w f s
  | .le w f => Sys2Proof.Machine.execLe w f s
  | .gt w f => Sys2Proof.Machine.execGt w f s
  | .ge w f => Sys2Proof.Machine.execGe w f s
  | .num w f => Sys2Proof.Machine.execNum w f s
  | .nan w f => Sys2Proof.Machine.execNan w f s
  | .pand w f => Sys2Proof.Machine.execPand w f s
  | .por w f => Sys2Proof.Machine.execPor w f s
  | .pxor w f => Sys2Proof.Machine.execPxor w f s
  | .pnot w f => Sys2Proof.Machine.execPnot w f s
  | .sel w f => Sys2Proof.Machine.execSel w f s
  | .fadd w f => Sys2Proof.Machine.execFadd w f s
  | .fsub w f => Sys2Proof.Machine.execFsub w f s
  | .fmul w f => Sys2Proof.Machine.execFmul w f s
  | .ffma w f => Sys2Proof.Machine.execFfma w f s
  | .fmin w f => Sys2Proof.Machine.execFmin w f s
  | .fmax w f => Sys2Proof.Machine.execFmax w f s
  | .fabs w f => Sys2Proof.Machine.execFabs w f s
  | .fneg w f => Sys2Proof.Machine.execFneg w f s
  | .frcp w f => Sys2Proof.Machine.execFrcp w f s
  | .frsq w f => Sys2Proof.Machine.execFrsq w f s
  | .fsqrt w f => Sys2Proof.Machine.execFsqrt w f s
  | .fex2 w f => Sys2Proof.Machine.execFex2 w f s
  | .flg2 w f => Sys2Proof.Machine.execFlg2 w f s
  | .fsin w f => Sys2Proof.Machine.execFsin w f s
  | .fcos w f => Sys2Proof.Machine.execFcos w f s
  | .cvt w f => Sys2Proof.Machine.execCvt w f s
  | .ld w f => Sys2Proof.Machine.execLd w f s
  | .ldS w f => Sys2Proof.Machine.execLdS w f s
  | .st w f => Sys2Proof.Machine.execSt w f s
  | .atomAdd w f => Sys2Proof.Machine.execAtomAdd w f s
  | .atomMinS w f => Sys2Proof.Machine.execAtomMinS w f s
  | .atomMaxS w f => Sys2Proof.Machine.execAtomMaxS w f s
  | .atomMinU w f => Sys2Proof.Machine.execAtomMinU w f s
  | .atomMaxU w f => Sys2Proof.Machine.execAtomMaxU w f s
  | .atomAnd w f => Sys2Proof.Machine.execAtomAnd w f s
  | .atomOr w f => Sys2Proof.Machine.execAtomOr w f s
  | .atomXor w f => Sys2Proof.Machine.execAtomXor w f s
  | .exch w f => Sys2Proof.Machine.execExch w f s
  | .cas w f => Sys2Proof.Machine.execCas w f s
  | .atomFadd w f => Sys2Proof.Machine.execAtomFadd w f s
  | .fadd32 w f => Sys2Proof.Machine.execFadd32 w f s
  | .bf16add w f => Sys2Proof.Machine.execBf16add w f s
  | .iadd32 w f => Sys2Proof.Machine.execIadd32 w f s
  | .fmax32 w f => Sys2Proof.Machine.execFmax32 w f s
  | .imax32 w f => Sys2Proof.Machine.execImax32 w f s
  | .prefLlc w f => Sys2Proof.Machine.execPrefLlc w f s
  | .prefNear w f => Sys2Proof.Machine.execPrefNear w f s
  | .bra w f => Sys2Proof.Machine.execBra w f s
  | .brx w f => Sys2Proof.Machine.execBrx w f s
  | .call w f => Sys2Proof.Machine.execCall w f s
  | .ret w f => Sys2Proof.Machine.execRet w f s
  | .parkedPathRelease w path => Sys2Proof.Machine.execParkedPathRelease w path s
  | .pathSwitch w => Sys2Proof.Machine.execPathSwitch w s
  | .shflPick w f => Sys2Proof.Machine.execShflPick w f s
  | .shflRot w f => Sys2Proof.Machine.execShflRot w f s
  | .shflSwap w f => Sys2Proof.Machine.execShflSwap w f s
  | .shflLead w f => Sys2Proof.Machine.execShflLead w f s
  | .voteAny w f => Sys2Proof.Machine.execVoteAny w f s
  | .voteAll w f => Sys2Proof.Machine.execVoteAll w f s
  | .voteBallot w f => Sys2Proof.Machine.execVoteBallot w f s
  | .collectiveTimeout w mask => Sys2Proof.Machine.execCollectiveTimeout w mask s
  | .waitEq w f => Sys2Proof.Machine.execWaitEq w f s
  | .waitNe w f => Sys2Proof.Machine.execWaitNe w f s
  | .waitT w f => Sys2Proof.Machine.execWaitT w f s
  | .waitConditionMet w path => Sys2Proof.Machine.execWaitConditionMet w path s
  | .waitDeadline w path => Sys2Proof.Machine.execWaitDeadline w path s
  | .watchReread w path hw => Sys2Proof.Machine.execWatchReread w path hw s
  | .nop w f => Sys2Proof.Machine.execNop w f s
  | .exit w f => Sys2Proof.Machine.execExit w f s
  | .fence w f => Sys2Proof.Machine.execFence w f s
  | .rdsr w f => Sys2Proof.Machine.execRdsr w f s
  | .tileMac w f => Sys2Proof.Machine.execTileMac w f s
  | .tileSeq w f => Sys2Proof.Machine.execTileSeq w f s
  | .tileL w f => Sys2Proof.Machine.execTileL w f s
  | .tileSt w f => Sys2Proof.Machine.execTileSt w f s
  | .tileZero w f => Sys2Proof.Machine.execTileZero w f s
  | .tileStart core => Sys2Proof.Machine.execTileStart core s
  | .portBYield core => Sys2Proof.Machine.execPortBYield core s
  | .fillerPass core => Sys2Proof.Machine.execFillerPass core s
  | .chuteRd w f => Sys2Proof.Machine.execChuteRd w f s
  | .chuteRds w f => Sys2Proof.Machine.execChuteRds w f s
  | .chuteLvl w f => Sys2Proof.Machine.execChuteLvl w f s
  | .kerf w f => Sys2Proof.Machine.execKerf w f s
  | .pin w f => Sys2Proof.Machine.execPin w f s
  | .unpin w f => Sys2Proof.Machine.execUnpin w f s
  | .loadReturn id hw => Sys2Proof.Machine.execLoadReturn id hw s
  | .writeAcknowledged id => Sys2Proof.Machine.execWriteAcknowledged id s
  | .contextStopDone ctx => Sys2Proof.Machine.execContextStopDone ctx s
  | .kernelTimeLimit kernel => Sys2Proof.Machine.execKernelTimeLimit kernel s
  | .granuleZero core granule => Sys2Proof.Machine.execGranuleZero core granule s
  | .remoteStoreAccess id => Sys2Proof.Machine.execRemoteStoreAccess id s
  | .rd id => Sys2Proof.Machine.execRd id s
  | .wr id => Sys2Proof.Machine.execWr id s
  | .nr id => Sys2Proof.Machine.execNr id s
  | .ds id => Sys2Proof.Machine.execDs id s
  | .missFill line corrected uncorrectable => Sys2Proof.Machine.execMissFill line corrected uncorrectable s
  | .heldRequestRelease slice => Sys2Proof.Machine.execHeldRequestRelease slice s
  | .memrd port meta_ addr tag => Sys2Proof.Machine.execMemrd port meta_ addr tag s
  | .meminv port addr tag => Sys2Proof.Machine.execMeminv port addr tag s
  | .memclnevct port addr => Sys2Proof.Machine.execMemclnevct port addr s
  | .memwr port addr data poison => Sys2Proof.Machine.execMemwr port addr data poison s
  | .birspi port line sector => Sys2Proof.Machine.execBirspi port line sector s
  | .birsps port line sector => Sys2Proof.Machine.execBirsps port line sector s
  | .birspe port line sector => Sys2Proof.Machine.execBirspe port line sector s
  | .biconflict port line => Sys2Proof.Machine.execBiconflict port line s
  | .biTimeout line sector => Sys2Proof.Machine.execBiTimeout line sector s
  | .snpdata port haddr => Sys2Proof.Machine.execSnpdata port haddr s
  | .snpinv port haddr => Sys2Proof.Machine.execSnpinv port haddr s
  | .snpcur port haddr => Sys2Proof.Machine.execSnpcur port haddr s
  | .go id => Sys2Proof.Machine.execGo id s
  | .biasFlipShared f port word => Sys2Proof.Machine.execBiasFlipShared f port word s
  | .biasFlipDeviceOwned f port word => Sys2Proof.Machine.execBiasFlipDeviceOwned f port word s
  | .biasFlipDone f => Sys2Proof.Machine.execBiasFlipDone f s
  | .biasDone f => Sys2Proof.Machine.execBiasDone f s
  | .dirtyWritebackPeriod half => Sys2Proof.Machine.execDirtyWritebackPeriod half s
  | .patrolScrub channel row corrected uncorrectable parityBad => Sys2Proof.Machine.execPatrolScrub channel row corrected uncorrectable parityBad s
  | .channelMapOut p ch => Sys2Proof.Machine.execChannelMapOut p ch s
  | .lineMove line readable => Sys2Proof.Machine.execLineMove line readable s
  | .rebuild line readable => Sys2Proof.Machine.execRebuild line readable s
  | .stripeBufferClose channel row => Sys2Proof.Machine.execStripeBufferClose channel row s
  | .mirrorCopy e => Sys2Proof.Machine.execMirrorCopy e s
  | .adminOperationDone f => Sys2Proof.Machine.execAdminOperationDone f s
  | .ctxCreate f arg addr z hw => Sys2Proof.Machine.execCtxCreate f arg addr z hw s
  | .ctxDestroy f arg addr z => Sys2Proof.Machine.execCtxDestroy f arg addr z s
  | .qCreate f arg addr z hw => Sys2Proof.Machine.execQCreate f arg addr z hw s
  | .qDestroy f arg addr z => Sys2Proof.Machine.execQDestroy f arg addr z s
  | .qPause f arg addr z => Sys2Proof.Machine.execQPause f arg addr z s
  | .qStart f arg addr z => Sys2Proof.Machine.execQStart f arg addr z s
  | .qResume f arg addr z => Sys2Proof.Machine.execQResume f arg addr z s
  | .graphCreate f arg addr z hw => Sys2Proof.Machine.execGraphCreate f arg addr z hw s
  | .graphPatch f arg addr z hw => Sys2Proof.Machine.execGraphPatch f arg addr z hw s
  | .graphDestroy f arg addr z => Sys2Proof.Machine.execGraphDestroy f arg addr z s
  | .tail agent q value hw => Sys2Proof.Machine.execTail agent q value hw s
  | .chead agent q value => Sys2Proof.Machine.execChead agent q value s
  | .slotFetch q hw => Sys2Proof.Machine.execSlotFetch q hw s
  | .kernel src => Sys2Proof.Machine.execKernel src s
  | .copy src hw => Sys2Proof.Machine.execCopy src hw s
  | .fill src => Sys2Proof.Machine.execFill src s
  | .waitCommand src hw => Sys2Proof.Machine.execWaitCommand src hw s
  | .waitCommandTimeout src => Sys2Proof.Machine.execWaitCommandTimeout src s
  | .signal src => Sys2Proof.Machine.execSignal src s
  | .graphLaunch q => Sys2Proof.Machine.execGraphLaunch q s
  | .jobBegin q => Sys2Proof.Machine.execJobBegin q s
  | .claimHeld q => Sys2Proof.Machine.execClaimHeld q s
  | .jobEnd q => Sys2Proof.Machine.execJobEnd q s
  | .flush src chute => Sys2Proof.Machine.execFlush src chute s
  | .stop src => Sys2Proof.Machine.execStop src s
  | .start src => Sys2Proof.Machine.execStart src s
  | .pinCommand src => Sys2Proof.Machine.execPinCommand src s
  | .unpinCommand src => Sys2Proof.Machine.execUnpinCommand src s
  | .kerfCommand src => Sys2Proof.Machine.execKerfCommand src s
  | .fellCommand q => Sys2Proof.Machine.execFellCommand q s
  | .completionRecordWrite src => Sys2Proof.Machine.execCompletionRecordWrite src s
  | .queueResumeWrite p q => Sys2Proof.Machine.execQueueResumeWrite p q s
  | .word src chute data => Sys2Proof.Machine.execWord src chute data s
  | .lastn src chute n data => Sys2Proof.Machine.execLastn src chute n data s
  | .producerResume chute => Sys2Proof.Machine.execProducerResume chute s
  | .placeWave kernel => Sys2Proof.Machine.execPlaceWave kernel s
  | .switchOut kernel => Sys2Proof.Machine.execSwitchOut kernel s
  | .switchOutDone kernel => Sys2Proof.Machine.execSwitchOutDone kernel s
  | .restore kernel => Sys2Proof.Machine.execRestore kernel s
  | .energyAttribution facts => Sys2Proof.Machine.execEnergyAttribution facts s
  | .bar4Read port f off len => Sys2Proof.Machine.execBar4Read port f off len s
  | .bar4Write port f off data => Sys2Proof.Machine.execBar4Write port f off data s
  | .errCause f value => Sys2Proof.Machine.execErrCause f value s
  | .hSend value bytes => Sys2Proof.Machine.execHSend value bytes s
  | .hAck value => Sys2Proof.Machine.execHAck value s
  | .functionLevelReset f => Sys2Proof.Machine.execFunctionLevelReset f s
  | .vfDisable port numVfs => Sys2Proof.Machine.execVfDisable port numVfs s
  | .tlbInv f word => Sys2Proof.Machine.execTlbInv f word s
  | .tlbInvDone f => Sys2Proof.Machine.execTlbInvDone f s
  | .atsTranslationCompletion port pasid page r w x => Sys2Proof.Machine.execAtsTranslationCompletion port pasid page r w x s
  | .atsInvalidation port pasid page pages => Sys2Proof.Machine.execAtsInvalidation port pasid page pages s
  | .linkDown port => Sys2Proof.Machine.execLinkDown port s
  | .linkUp port => Sys2Proof.Machine.execLinkUp port s
  | .linkLossReset port => Sys2Proof.Machine.execLinkLossReset port s
  | .ideIntegrityFailure port => Sys2Proof.Machine.execIdeIntegrityFailure port s
  | .zeroing line => Sys2Proof.Machine.execZeroing line s
  | .laneRepair joint tenon lane trained => Sys2Proof.Machine.execLaneRepair joint tenon lane trained s
  | .tenonRetrain joint tenon => Sys2Proof.Machine.execTenonRetrain joint tenon s
  | .tenonRetrainDone joint tenon => Sys2Proof.Machine.execTenonRetrainDone joint tenon s
  | .readmit p n => Sys2Proof.Machine.execReadmit p n s
  | .admission n facts => Sys2Proof.Machine.execAdmission n facts s
  | .rafterClock n present => Sys2Proof.Machine.execRafterClock n present s
  | .rds n h => Sys2Proof.Machine.execRds n h s
  | .rdo n h => Sys2Proof.Machine.execRdo n h s
  | .rdn n h => Sys2Proof.Machine.execRdn n h s
  | .jointWr n h data => Sys2Proof.Machine.execJointWr n h data s
  | .atm n h data => Sys2Proof.Machine.execAtm n h data s
  | .jointAcw n h data => Sys2Proof.Machine.execJointAcw n h data s
  | .data n h data => Sys2Proof.Machine.execData n h data s
  | .ack n h => Sys2Proof.Machine.execAck n h s
  | .nak n h => Sys2Proof.Machine.execNak n h s
  | .srsp n h data => Sys2Proof.Machine.execSrsp n h data s
  | .evn n h data => Sys2Proof.Machine.execEvn n h data s
  | .tenonTestStart p => Sys2Proof.Machine.execTenonTestStart p s
  | .tenonTestEnd errors => Sys2Proof.Machine.execTenonTestEnd errors s
  | .rafterWrite h data => Sys2Proof.Machine.execRafterWrite h data s
  | .rafterRead h => Sys2Proof.Machine.execRafterRead h s
  | .readResp h data => Sys2Proof.Machine.execReadResp h data s
  | .atomic h data => Sys2Proof.Machine.execAtomic h data s
  | .atomicResp h data => Sys2Proof.Machine.execAtomicResp h data s
  | .rafterAcw h data => Sys2Proof.Machine.execRafterAcw h data s
  | .error h => Sys2Proof.Machine.execError h s
  | .rafterAck h => Sys2Proof.Machine.execRafterAck h s
  | .rafterNak h => Sys2Proof.Machine.execRafterNak h s
  | .hold h => Sys2Proof.Machine.execHold h s
  | .syn h => Sys2Proof.Machine.execSyn h s
  | .synack h => Sys2Proof.Machine.execSynack h s
  | .refuse h => Sys2Proof.Machine.execRefuse h s
  | .close h => Sys2Proof.Machine.execClose h s
  | .keepalive h => Sys2Proof.Machine.execKeepalive h s
  | .synResend sess => Sys2Proof.Machine.execSynResend sess s
  | .ackTimer sess => Sys2Proof.Machine.execAckTimer sess s
  | .retransmitTimeout sess => Sys2Proof.Machine.execRetransmitTimeout sess s
  | .keepaliveSend sess => Sys2Proof.Machine.execKeepaliveSend sess s
  | .keepaliveLost sess => Sys2Proof.Machine.execKeepaliveLost sess s
  | .powerFastLoop facts => Sys2Proof.Machine.execPowerFastLoop facts s
  | .powerSlowLoop points => Sys2Proof.Machine.execPowerSlowLoop points s
  | .domainGate domain => Sys2Proof.Machine.execDomainGate domain s
  | .domainWakeDone domain => Sys2Proof.Machine.execDomainWakeDone domain s
  | .baySleepRequest p bay => Sys2Proof.Machine.execBaySleepRequest p bay s
  | .bayWakeRequest cause bay => Sys2Proof.Machine.execBayWakeRequest cause bay s
  | .baySleepEntered bay => Sys2Proof.Machine.execBaySleepEntered bay s
  | .bayWakeDone bay => Sys2Proof.Machine.execBayWakeDone bay s
  | .thermalSample facts => Sys2Proof.Machine.execThermalSample facts s
  | .throttleNAssert => Sys2Proof.Machine.execThrottleNAssert s
  | .throttleNRelease => Sys2Proof.Machine.execThrottleNRelease s
  | .scribeMessage p env bytes => Sys2Proof.Machine.execScribeMessage p env bytes s
  | .read p index sub len off => Sys2Proof.Machine.execRead p index sub len off s
  | .write p index sub off data => Sys2Proof.Machine.execWrite p index sub off data s
  | .stage p index sub off data => Sys2Proof.Machine.execStage p index sub off data s
  | .info p index sub => Sys2Proof.Machine.execInfo p index sub s
  | .next p index sub => Sys2Proof.Machine.execNext p index sub s
  | .pegTake p => Sys2Proof.Machine.execPegTake p s
  | .pegRenew p => Sys2Proof.Machine.execPegRenew p s
  | .pegRelease p => Sys2Proof.Machine.execPegRelease p s
  | .commit p flashOk => Sys2Proof.Machine.execCommit p flashOk s
  | .discard p => Sys2Proof.Machine.execDiscard p s
  | .leaseExpiry => Sys2Proof.Machine.execLeaseExpiry s
  | .fell p reason => Sys2Proof.Machine.execFell p reason s
  | .resume p => Sys2Proof.Machine.execResume p s
  | .cutComplete => Sys2Proof.Machine.execCutComplete s
  | .resumeComplete => Sys2Proof.Machine.execResumeComplete s
  | .erase agent => Sys2Proof.Machine.execErase agent s
  | .check agent => Sys2Proof.Machine.execCheck agent s
  | .activate agent => Sys2Proof.Machine.execActivate agent s
  | .confirm agent => Sys2Proof.Machine.execConfirm agent s
  | .cancel agent => Sys2Proof.Machine.execCancel agent s
  | .revert agent => Sys2Proof.Machine.execRevert agent s
  | .updateOperationDone flashOk => Sys2Proof.Machine.execUpdateOperationDone flashOk s
  | .slotWrite agent off data => Sys2Proof.Machine.execSlotWrite agent off data s
  | .getMeasurements t seq signed index nonce => Sys2Proof.Machine.execGetMeasurements t seq signed index nonce s
  | .spdmMessage t frame => Sys2Proof.Machine.execSpdmMessage t frame s
  | .coreFailed core detector => Sys2Proof.Machine.execCoreFailed core detector s
  | .groveFailure grove => Sys2Proof.Machine.execGroveFailure grove s
  | .domainFailed domain => Sys2Proof.Machine.execDomainFailed domain s
  | .bayReset trigger => Sys2Proof.Machine.execBayReset trigger s
  | .drainConfirmTimeout bay => Sys2Proof.Machine.execDrainConfirmTimeout bay s
  | .bayReturned bay => Sys2Proof.Machine.execBayReturned bay s
  | .bayReturnTimeout bay => Sys2Proof.Machine.execBayReturnTimeout bay s
  | .flogAck agent value => Sys2Proof.Machine.execFlogAck agent value s
  | .eptick agent value => Sys2Proof.Machine.execEptick agent value s
  | .sample => Sys2Proof.Machine.execSample s
  | .dbgMsg value => Sys2Proof.Machine.execDbgMsg value s
  | .uartFrame body crc => Sys2Proof.Machine.execUartFrame body crc s
  | .chainSel value => Sys2Proof.Machine.execChainSel value s
  | .tapTenonTest value => Sys2Proof.Machine.execTapTenonTest value s
  | .debugRead addr len seq port => Sys2Proof.Machine.execDebugRead addr len seq port s
  | .debugWrite addr seq port data => Sys2Proof.Machine.execDebugWrite addr seq port data s
  | .debugFell seq port => Sys2Proof.Machine.execDebugFell seq port s
  | .debugResume seq port => Sys2Proof.Machine.execDebugResume seq port s
  | .tagRead arg seq port => Sys2Proof.Machine.execTagRead arg seq port s
  | .status seq port => Sys2Proof.Machine.execStatus seq port s
  | .challenge seq port => Sys2Proof.Machine.execChallenge seq port s
  | .unlock seq port data => Sys2Proof.Machine.execUnlock seq port data s
  | .unlockLockoutEnd => Sys2Proof.Machine.execUnlockLockoutEnd s
  | .powerOn mv => Sys2Proof.Machine.execPowerOn mv s
  | .turnOff cause => Sys2Proof.Machine.execTurnOff cause s
  | .moduleReset => Sys2Proof.Machine.execModuleReset s
  | .modResetRelease => Sys2Proof.Machine.execModResetRelease s
  | .perstAssert port => Sys2Proof.Machine.execPerstAssert port s
  | .perstRelease port => Sys2Proof.Machine.execPerstRelease port s
  | .haltNFall => Sys2Proof.Machine.execHaltNFall s
  | .haltNRise => Sys2Proof.Machine.execHaltNRise s
  | .enterStart p => Sys2Proof.Machine.execEnterStart p s
  | .referenceClockReturn port => Sys2Proof.Machine.execReferenceClockReturn port s
  | .ethernetPortDown n port => Sys2Proof.Machine.execEthernetPortDown n port s
  | .ethernetPortUp n port => Sys2Proof.Machine.execEthernetPortUp n port s
  | .hotReset port => Sys2Proof.Machine.execHotReset port s
  | .vfEnable port f busMaster vfEnable numVfs => Sys2Proof.Machine.execVfEnable port f busMaster vfEnable numVfs s
  | .restoreDone kernel => Sys2Proof.Machine.execRestoreDone kernel s
  | .domainGateDone domain => Sys2Proof.Machine.execDomainGateDone domain s
  | .testLogicReset => Sys2Proof.Machine.execTestLogicReset s
  | .extest cells => Sys2Proof.Machine.execExtest cells s

end Sys2Proof.Machine
end

