-- ==== Sys2Proof/WellFormed.lean ====
section
/-! DEFINITION. Well-formed commands: every number a command carries names something the part has (Table 00.1, R9, R26,
R188, R267, R271, R296, R324, R332, R352, R364). Fields of fixed width are well formed by their type. -/

namespace Sys2Proof

/-- A whorl's name: a logical core and one of its 8 slots (R9, R42). -/
def okWid (w : Wid) : Bool := decide (w.core < 12288) && decide (w.slot < 8)

/-- A command's source: one of 4,096 queues, or a node of a launch (Table 00.1, R291). -/
def okSrc : CmdSrc → Bool
  | .queue q => decide (q < 4096)
  | .node _ n => decide (n < 65536)

/-- A flush may be a command's or the dictionary's (R301). -/
def okOptSrc : Option CmdSrc → Bool
  | none => true
  | some c => okSrc c

/-- A chute producer (R297). -/
def okChuteSrc : ChuteSrc → Bool
  | .hostPort p => decide (p < 2)
  | .rafter n => decide (n < 2)
  | .dma => true

/-- An agent of the control register space (R434). -/
def okCtlAgent : CtlAgent → Bool
  | .core c => decide (c < 4096)
  | .dma c => decide (c < 4096)
  | .dbg => true

/-- A writer of a doorbell (R264, R265). -/
def okBellAgent : BellAgent → Bool
  | .host f p => decide (f < 64) && decide (p < 2)
  | .core c => decide (c < 4096)

/-- A Rafter frame's envelope names one of two dies. -/
def okRhdr (h : RHdr) : Bool := decide (h.die < 2)

/-- Every check of one command. -/
def Instr.wellFormed : Instr → Bool
  | .enterService _ => true
  | .enterTest _ => true
  | .enterRecovery _ => true
  | .enterStandby _ => true
  | .standbyEntered => true
  | .wakeFromStandby _ => true
  | .moduleResetRequest _ => true
  | .startUp _ => true
  | .startEnd => true
  | .identityDerived _ => true
  | .retireGrove _ _ => true
  | .timeToken => true
  | .fullCountToken => true
  | .timeSourceChange port => decide (port < 2)
  | .iadd w _ => okWid w
  | .isub w _ => okWid w
  | .imin w _ => okWid w
  | .imax w _ => okWid w
  | .and w _ => okWid w
  | .or w _ => okWid w
  | .xor w _ => okWid w
  | .shl w _ => okWid w
  | .shr w _ => okWid w
  | .sar w _ => okWid w
  | .iabs w _ => okWid w
  | .movi w _ => okWid w
  | .movhi w _ => okWid w
  | .imul w _ => okWid w
  | .imulhi w _ => okWid w
  | .imad w _ => okWid w
  | .idiv w _ => okWid w
  | .irem w _ => okWid w
  | .ones w _ => okWid w
  | .zlead w _ => okWid w
  | .bitrev w _ => okWid w
  | .fldx w _ => okWid w
  | .fldi w _ => okWid w
  | .eq w _ => okWid w
  | .ne w _ => okWid w
  | .lt w _ => okWid w
  | .le w _ => okWid w
  | .gt w _ => okWid w
  | .ge w _ => okWid w
  | .num w _ => okWid w
  | .nan w _ => okWid w
  | .pand w _ => okWid w
  | .por w _ => okWid w
  | .pxor w _ => okWid w
  | .pnot w _ => okWid w
  | .sel w _ => okWid w
  | .fadd w _ => okWid w
  | .fsub w _ => okWid w
  | .fmul w _ => okWid w
  | .ffma w _ => okWid w
  | .fmin w _ => okWid w
  | .fmax w _ => okWid w
  | .fabs w _ => okWid w
  | .fneg w _ => okWid w
  | .frcp w _ => okWid w
  | .frsq w _ => okWid w
  | .fsqrt w _ => okWid w
  | .fex2 w _ => okWid w
  | .flg2 w _ => okWid w
  | .fsin w _ => okWid w
  | .fcos w _ => okWid w
  | .cvt w _ => okWid w
  | .ld w _ => okWid w
  | .ldS w _ => okWid w
  | .st w _ => okWid w
  | .atomAdd w _ => okWid w
  | .atomMinS w _ => okWid w
  | .atomMaxS w _ => okWid w
  | .atomMinU w _ => okWid w
  | .atomMaxU w _ => okWid w
  | .atomAnd w _ => okWid w
  | .atomOr w _ => okWid w
  | .atomXor w _ => okWid w
  | .exch w _ => okWid w
  | .cas w _ => okWid w
  | .atomFadd w _ => okWid w
  | .fadd32 w _ => okWid w
  | .bf16add w _ => okWid w
  | .iadd32 w _ => okWid w
  | .fmax32 w _ => okWid w
  | .imax32 w _ => okWid w
  | .prefLlc w _ => okWid w
  | .prefNear w _ => okWid w
  | .bra w _ => okWid w
  | .brx w _ => okWid w
  | .call w _ => okWid w
  | .ret w _ => okWid w
  | .parkedPathRelease w _ => okWid w
  | .pathSwitch w => okWid w
  | .shflPick w _ => okWid w
  | .shflRot w _ => okWid w
  | .shflSwap w _ => okWid w
  | .shflLead w _ => okWid w
  | .voteAny w _ => okWid w
  | .voteAll w _ => okWid w
  | .voteBallot w _ => okWid w
  | .collectiveTimeout w _ => okWid w
  | .waitEq w _ => okWid w
  | .waitNe w _ => okWid w
  | .waitT w _ => okWid w
  | .waitConditionMet w _ => okWid w
  | .waitDeadline w _ => okWid w
  | .watchReread w _ _ => okWid w
  | .nop w _ => okWid w
  | .exit w _ => okWid w
  | .fence w _ => okWid w
  | .rdsr w _ => okWid w
  | .tileMac w _ => okWid w
  | .tileSeq w _ => okWid w
  | .tileL w _ => okWid w
  | .tileSt w _ => okWid w
  | .tileZero w _ => okWid w
  | .tileStart core => decide (core < 12288)
  | .portBYield core => decide (core < 12288)
  | .fillerPass core => decide (core < 12288)
  | .chuteRd w _ => okWid w
  | .chuteRds w _ => okWid w
  | .chuteLvl w _ => okWid w
  | .kerf w _ => okWid w
  | .pin w _ => okWid w
  | .unpin w _ => okWid w
  | .loadReturn _ _ => true
  | .writeAcknowledged _ => true
  | .contextStopDone ctx => decide (ctx < 4096)
  | .kernelTimeLimit _ => true
  | .granuleZero core granule => decide (core < 12288) && decide (granule < 32)
  | .remoteStoreAccess _ => true
  | .rd _ => true
  | .wr _ => true
  | .nr _ => true
  | .ds _ => true
  | .missFill line _ _ => decide (line < 2 ^ 38)
  | .heldRequestRelease slice => decide (slice < 128)
  | .memrd port _ _ _ => decide (port < 2)
  | .meminv port _ _ => decide (port < 2)
  | .memclnevct port _ => decide (port < 2)
  | .memwr port _ _ _ => decide (port < 2)
  | .birspi port line sector => decide (port < 2) && decide (line < 2 ^ 38) && decide (sector < 4)
  | .birsps port line sector => decide (port < 2) && decide (line < 2 ^ 38) && decide (sector < 4)
  | .birspe port line sector => decide (port < 2) && decide (line < 2 ^ 38) && decide (sector < 4)
  | .biconflict port line => decide (port < 2) && decide (line < 2 ^ 38)
  | .biTimeout line sector => decide (line < 2 ^ 38) && decide (sector < 4)
  | .snpdata port _ => decide (port < 2)
  | .snpinv port _ => decide (port < 2)
  | .snpcur port _ => decide (port < 2)
  | .go _ => true
  | .biasFlipShared f port _ => decide (f < 64) && decide (port < 2)
  | .biasFlipDeviceOwned f port _ => decide (f < 64) && decide (port < 2)
  | .biasFlipDone f => decide (f < 64)
  | .biasDone f => decide (f < 64)
  | .dirtyWritebackPeriod half => decide (half < 8)
  | .patrolScrub channel row _ _ _ => decide (channel < 1024) && decide (row < 786432)
  | .channelMapOut _ _ => true
  | .lineMove line _ => decide (line < 2 ^ 38)
  | .rebuild line _ => decide (line < 2 ^ 38)
  | .stripeBufferClose channel row => decide (channel < 1024) && decide (row < 786432)
  | .mirrorCopy e => decide (e < 32)
  | .adminOperationDone f => decide (f < 64)
  | .ctxCreate f _ _ _ _ => decide (f < 64)
  | .ctxDestroy f _ _ _ => decide (f < 64)
  | .qCreate f _ _ _ _ => decide (f < 64)
  | .qDestroy f _ _ _ => decide (f < 64)
  | .qPause f _ _ _ => decide (f < 64)
  | .qStart f _ _ _ => decide (f < 64)
  | .qResume f _ _ _ => decide (f < 64)
  | .graphCreate f _ _ _ _ => decide (f < 64)
  | .graphPatch f _ _ _ _ => decide (f < 64)
  | .graphDestroy f _ _ _ => decide (f < 64)
  | .tail agent q _ _ => okBellAgent agent && decide (q < 4096)
  | .chead agent q _ => okBellAgent agent && decide (q < 4096)
  | .slotFetch q _ => decide (q < 4096)
  | .kernel src => okSrc src
  | .copy src _ => okSrc src
  | .fill src => okSrc src
  | .waitCommand src _ => okSrc src
  | .waitCommandTimeout src => okSrc src
  | .signal src => okSrc src
  | .graphLaunch q => decide (q < 4096)
  | .jobBegin q => decide (q < 4096)
  | .claimHeld q => decide (q < 4096)
  | .jobEnd q => decide (q < 4096)
  | .flush src chute => okOptSrc src && decide (chute < 256)
  | .stop src => okSrc src
  | .start src => okSrc src
  | .pinCommand src => okSrc src
  | .unpinCommand src => okSrc src
  | .kerfCommand src => okSrc src
  | .fellCommand q => decide (q < 4096)
  | .completionRecordWrite src => okSrc src
  | .queueResumeWrite _ _ => true
  | .word src chute _ => okChuteSrc src && decide (chute < 256)
  | .lastn src chute n _ => okChuteSrc src && decide (chute < 256) && decide ((1 ≤ n ∧ n ≤ 8))
  | .producerResume chute => decide (chute < 256)
  | .placeWave _ => true
  | .switchOut _ => true
  | .switchOutDone _ => true
  | .restore _ => true
  | .energyAttribution _ => true
  | .bar4Read port f _ _ => decide (port < 2) && decide (f < 64)
  | .bar4Write port f _ _ => decide (port < 2) && decide (f < 64)
  | .errCause f _ => decide (f < 64)
  | .hSend _ _ => true
  | .hAck _ => true
  | .functionLevelReset f => decide (f < 64)
  | .vfDisable port _ => decide (port < 2)
  | .tlbInv f _ => decide (f < 64)
  | .tlbInvDone f => decide (f < 64)
  | .atsTranslationCompletion port _ _ _ _ _ => decide (port < 2)
  | .atsInvalidation port _ _ _ => decide (port < 2)
  | .linkDown port => decide (port < 2)
  | .linkUp port => decide (port < 2)
  | .linkLossReset port => decide (port < 2)
  | .ideIntegrityFailure port => decide (port < 2)
  | .zeroing line => decide (line < 2 ^ 38)
  | .laneRepair joint tenon _ _ => decide (joint < 10) && decide (tenon < 16)
  | .tenonRetrain joint tenon => decide (joint < 10) && decide (tenon < 16)
  | .tenonRetrainDone joint tenon => decide (joint < 10) && decide (tenon < 16)
  | .readmit _ n => decide (n < 2)
  | .admission n _ => decide (n < 2)
  | .rafterClock n _ => decide (n < 2)
  | .rds n _ => decide (n < 2)
  | .rdo n _ => decide (n < 2)
  | .rdn n _ => decide (n < 2)
  | .jointWr n _ _ => decide (n < 2)
  | .atm n _ _ => decide (n < 2)
  | .jointAcw n _ _ => decide (n < 2)
  | .data n _ _ => decide (n < 2)
  | .ack n _ => decide (n < 2)
  | .nak n _ => decide (n < 2)
  | .srsp n _ _ => decide (n < 2)
  | .evn n _ _ => decide (n < 2)
  | .tenonTestStart _ => true
  | .tenonTestEnd _ => true
  | .rafterWrite h _ => okRhdr h
  | .rafterRead h => okRhdr h
  | .readResp h _ => okRhdr h
  | .atomic h _ => okRhdr h
  | .atomicResp h _ => okRhdr h
  | .rafterAcw h _ => okRhdr h
  | .error h => okRhdr h
  | .rafterAck h => okRhdr h
  | .rafterNak h => okRhdr h
  | .hold h => okRhdr h
  | .syn h => okRhdr h
  | .synack h => okRhdr h
  | .refuse h => okRhdr h
  | .close h => okRhdr h
  | .keepalive h => okRhdr h
  | .synResend sess => decide (sess < 1024)
  | .ackTimer sess => decide (sess < 1024)
  | .retransmitTimeout sess => decide (sess < 1024)
  | .keepaliveSend sess => decide (sess < 1024)
  | .keepaliveLost sess => decide (sess < 1024)
  | .powerFastLoop _ => true
  | .powerSlowLoop _ => true
  | .domainGate domain => decide (domain < 80)
  | .domainWakeDone domain => decide (domain < 80)
  | .baySleepRequest _ bay => decide (bay < 4)
  | .bayWakeRequest _ bay => decide (bay < 4)
  | .baySleepEntered bay => decide (bay < 4)
  | .bayWakeDone bay => decide (bay < 4)
  | .thermalSample _ => true
  | .throttleNAssert => true
  | .throttleNRelease => true
  | .scribeMessage _ _ _ => true
  | .read _ _ _ _ _ => true
  | .write _ _ _ _ _ => true
  | .stage _ _ _ _ _ => true
  | .info _ _ _ => true
  | .next _ _ _ => true
  | .pegTake _ => true
  | .pegRenew _ => true
  | .pegRelease _ => true
  | .commit _ _ => true
  | .discard _ => true
  | .leaseExpiry => true
  | .fell _ _ => true
  | .resume _ => true
  | .cutComplete => true
  | .resumeComplete => true
  | .erase agent => okCtlAgent agent
  | .check agent => okCtlAgent agent
  | .activate agent => okCtlAgent agent
  | .confirm agent => okCtlAgent agent
  | .cancel agent => okCtlAgent agent
  | .revert agent => okCtlAgent agent
  | .updateOperationDone _ => true
  | .slotWrite agent _ _ => okCtlAgent agent
  | .getMeasurements _ _ _ _ _ => true
  | .spdmMessage _ _ => true
  | .coreFailed core _ => decide (core < 12288)
  | .groveFailure grove => decide (grove < 768)
  | .domainFailed domain => decide (domain < 80)
  | .bayReset _ => true
  | .drainConfirmTimeout bay => decide (bay < 4)
  | .bayReturned bay => decide (bay < 4)
  | .bayReturnTimeout bay => decide (bay < 4)
  | .flogAck agent _ => okCtlAgent agent
  | .eptick agent _ => okCtlAgent agent
  | .sample => true
  | .dbgMsg _ => true
  | .uartFrame _ _ => true
  | .chainSel _ => true
  | .tapTenonTest _ => true
  | .debugRead _ _ _ _ => true
  | .debugWrite _ _ _ _ => true
  | .debugFell _ _ => true
  | .debugResume _ _ => true
  | .tagRead _ _ _ => true
  | .status _ _ => true
  | .challenge _ _ => true
  | .unlock _ _ _ => true
  | .unlockLockoutEnd => true
  | .powerOn _ => true
  | .turnOff _ => true
  | .moduleReset => true
  | .modResetRelease => true
  | .perstAssert port => decide (port < 2)
  | .perstRelease port => decide (port < 2)
  | .haltNFall => true
  | .haltNRise => true
  | .enterStart _ => true
  | .referenceClockReturn port => decide (port < 2)
  | .ethernetPortDown n port => decide (n < 2) && decide (port < 2)
  | .ethernetPortUp n port => decide (n < 2) && decide (port < 2)
  | .hotReset port => decide (port < 2)
  | .vfEnable port f _ _ _ => decide (port < 2) && decide (f < 64)
  | .restoreDone _ => true
  | .domainGateDone domain => decide (domain < 80)
  | .testLogicReset => true
  | .extest _ => true

end Sys2Proof
end

