-- ==== Sys2Proof/Safety.lean ====
section
/-! DEFINITION. The terms that statements use: what a safe run is, when a whorl issues, what an issue may change, and how a
register reads. -/

namespace Sys2Proof.Machine

/-- Every memory of the module is in canonical form. -/
def State.memWf (s : State) : Bool :=
  Memory.wf s.mem.dram && Memory.wf s.mem.llc && Memory.wf s.mem.scratch && Memory.wf s.mem.store &&
  Memory.wf s.mem.host && Memory.wf s.mem.mirror && Memory.wf s.flash.slotA && Memory.wf s.flash.slotB

/-- A step is safe where it answers a next state. -/
def stepSafe (s : State) : Prop := ∃ t, step s = .next t

/-- Every command that waits is well formed. -/
def State.pendingWf (s : State) : Bool := s.pending.all Instr.wellFormed

/-! ## Issue -/

/-- Whorl w issues its current path p now, in the SIMT slot or a TILE slot: it is ready and its turn has come (R46, R54, R55, R56,
R76), the paths of equal program counter have merged into wh (R53), the fetch gives the word `code` of a defined function (R48,
R85) and leaves state s1, and no outstanding result concerns the registers of `keys` (R83). -/
def Issues (s : State) (w : Wid) (simt : Bool) (code : W64) (keys : List Nat) (wh : Whorl) (p : Path) (s1 : State) : Prop :=
  (∃ wh0 c, issuePath s w simt = some (wh0, c) ∧ wh = mergeAtIssue wh0 c) ∧ wh.curPath? = some p ∧
  fetchAt (putWhorl s w wh) w wh p = .ok code s1 ∧ wordDefined code = true ∧ scoreboardFree s1 w wh keys = true

/-- From s1 to t only whorl w changed, beside the round robin of its core, the activity of its domain, the counters and the count
of free values. -/
def OnlyWhorl (s1 t : State) (w : Wid) : Prop :=
  t = { s1 with cores := t.cores, doms := t.doms, obs := t.obs, free := t.free } ∧
  (∀ c, c ≠ w.core → t.core c = s1.core c) ∧
  t.core w.core = { s1.core w.core with slots := (t.core w.core).slots, simtRr := (t.core w.core).simtRr } ∧
  (∀ n, n ≠ w.slot → fget (t.core w.core).slots n = fget (s1.core w.core).slots n)

/-- From wh to wh' only the paths moved on. -/
def PathsOnly (wh wh' : Whorl) : Prop :=
  wh' = { wh with paths := wh'.paths, cur := wh'.cur, curIssues := wh'.curIssues, issues := wh'.issues }

/-- From wh to wh' the registers changed in `lanes` only: v and u registers among `keys` (u registers count from 64) and the
predicates among `preds`. -/
def SameBut (wh wh' : Whorl) (lanes keys preds : List Nat) : Prop :=
  (∀ l r, r < 64 → ¬(l ∈ lanes ∧ r ∈ keys) → wh'.vget l r = wh.vget l r) ∧
  (∀ r, r < 32 → ¬(lanes ≠ [] ∧ 64 + r ∈ keys) → wh'.uget r = wh.uget r) ∧
  (∀ l r, r < 8 → ¬(l ∈ lanes ∧ r ∈ preds) → wh'.pget l r = wh.pget l r) ∧
  wh' = { wh with v := wh'.v, liveV := wh'.liveV, u := wh'.u, p := wh'.p, paths := wh'.paths, cur := wh'.cur,
                  curIssues := wh'.curIssues, issues := wh'.issues }

/-- What a destination field reads in a lane: a u register whole, a v register or pair as wide as the operation. -/
def Whorl.readD (wh : Whorl) (wide : Bool) (l : Nat) (d : BitVec 7) : Nat :=
  if isU d then wh.uget (regNo d) else wh.src wide l d

/-- What a destination holds of a result (R82): a u register takes it extended to 64 bits, a v register its low bits. -/
def heldIn (wide s32 : Bool) (d : BitVec 7) (n : Nat) : Nat :=
  if isU d then widenU wide s32 n else n % 2 ^ (if wide then 64 else 32)

/-- Wherever w issues command c, c completes: each lane that runs reads `res` in D, and nothing else changes. -/
def WritesD (c : Instr) (code : W64) (s : State) (w : Wid) (gn : BitVec 1) (gp : BitVec 3) (keys : List Nat) (wide s32 : Bool)
    (d : BitVec 7) (res : Whorl → Nat → Nat) : Prop :=
  ∀ wh p s1, Issues s w true code keys wh p s1 → ∃ t wh', exec c s = .next t ∧ whorlOf t w = some wh' ∧ OnlyWhorl s1 t w ∧
    (∀ l, l ∈ runLanes wh p gn gp (isU d) → wh'.readD wide l d = heldIn wide s32 d (res wh l)) ∧
    SameBut wh wh' (runLanes wh p gn gp (isU d)) (regKeys (if wide then 2 else 1) d) []

/-- Wherever w issues command c, c completes: each lane that runs reads `res` in predicate pd (p7 stays 1, R44), and nothing else
changes. -/
def WritesP (c : Instr) (code : W64) (s : State) (w : Wid) (gn : BitVec 1) (gp : BitVec 3) (keys : List Nat) (pd : BitVec 7)
    (res : Whorl → Nat → Bool) : Prop :=
  ∀ wh p s1, Issues s w true code keys wh p s1 → ∃ t wh', exec c s = .next t ∧ whorlOf t w = some wh' ∧ OnlyWhorl s1 t w ∧
    (∀ l, l ∈ execLanes wh p gn gp → wh'.pget l pd.toNat = (pd == 7#7 || res wh l)) ∧
    SameBut wh wh' (execLanes wh p gn gp) [] [pd.toNat]

/-- The issue of path p closes: in t the whorl is wh2 with p moved to its next instruction and its paths settled (R52, R55), and
nothing but the whorl changed from s2. -/
def ClosesNext (s2 t : State) (w : Wid) (p : Path) (wh2 : Whorl) : Prop :=
  whorlOf t w = some (closeWhorl wh2 p.pid true false) ∧ OnlyWhorl s2 t w

/-- The issue of path p closes with the paths where the instruction put them. -/
def ClosesJump (s2 t : State) (w : Wid) (p : Path) (wh2 : Whorl) : Prop :=
  whorlOf t w = some (closeWhorl wh2 p.pid false false) ∧ OnlyWhorl s2 t w

/-- Some path of the whorl holds lane l and stands at pc. -/
def LaneAt (wh : Whorl) (l : Nat) (pc : W64) : Prop := ∃ x, x ∈ wh.paths ∧ x.lanes.getLsbD l = true ∧ x.pc = pc

/-- Every byte of every memory reads in t as in s. -/
def SameBytes (s t : State) : Prop :=
  ∀ a, mget t.mem.dram a = mget s.mem.dram a ∧ mget t.mem.llc a = mget s.mem.llc a ∧
    mget t.mem.scratch a = mget s.mem.scratch a ∧ mget t.mem.store a = mget s.mem.store a ∧
    mget t.mem.host a = mget s.mem.host a ∧ mget t.mem.mirror a = mget s.mem.mirror a

/-- Every request in flight is numbered below the next number. -/
def State.reqIds (s : State) : Bool := s.mem.reqs.all fun r => decide (r.id < s.mem.nextReq)

/-- The lanes of an access resolve to physical addresses outside peer windows and the core's own store (each access of `as` is lane,
virtual address, physical address); for a load, none of them hits the L1. -/
def Resolves (s1 s2 : State) (w : Wid) (wh : Whorl) (p : Path) (f : FMem) (k : ReqKind) (once : Bool)
    (as : List (Nat × Nat × Nat)) : Prop :=
  runLanes wh p f.gn f.gp once ≠ [] ∧ acquireOpen s1 w p = false ∧ as ≠ [] ∧
  resolve s1 (.core w.core w.slot) (whorlCtx s1 wh) (useOf k) (kindBits k) (memSize f)
    ((runLanes wh p f.gn f.gp once).map fun l => (l, effAddr wh l f)) = .ok as s2 ∧
  (∀ a, a ∈ as → regionOf a.2.2 ≠ .peer ∧ ownStore w.core a.2.2 = false ∧
    (k.reads = true → f.ord.getLsbD 0 = true ∨ l1Find (s2.core w.core) (a.2.2 / 64) = none)) ∧
  openMisses s2 w.core (makeLanes as (fun _ => []) fun _ => []) ≤ 64 ∧ s2.reqIds = true

/-- The lanes of a request, but for the routes of their packets (R35). -/
def unrouted (ls : List LaneAcc) : List LaneAcc := ls.map fun l => { l with route := [] }

/-- Wherever w issues command c and its lanes resolve, c completes: a request with the lanes' addresses and operand bytes is in
flight (R70, R92, R247), no register and no byte of memory has changed. -/
def AccessLeaves (c : FMem → Instr) (code : Code) (w : Wid) (legal : FMem → Bool) (keys : FMem → List Nat) (k : ReqKind) (once : FMem → Bool)
    (data cmp : FMem → Whorl → Nat → List Byte) : Prop :=
  ∀ s f, legal f = true → ∀ wh p s1 s2 as, Issues s w true (memWord code f) (keys f) wh p s1 → Resolves s1 s2 w wh p f k (once f) as →
    ∃ t wh' r, exec (c f) s = .next t ∧ whorlOf t w = some wh' ∧ SameBut wh wh' [] [] [] ∧ SameBytes s2 t ∧ r ∈ t.mem.reqs ∧
      r.agent = .core w.core w.slot ∧ r.kind = k ∧ r.size = memSize f ∧ r.dest = f.d ∧ r.pc = p.pc ∧ r.once = once f ∧
      r.acq = f.ord.getLsbD 0 ∧ r.rel = f.ord.getLsbD 1 ∧ r.scope = f.sc.toNat ∧ r.cls = f.cls.toNat ∧
      unrouted r.lanes = makeLanes as (data f wh) (cmp f wh)

/-! ## Operand shapes of register instructions; `val` takes the signedness, the width and the operands (R86) -/

/-- D from A and B, format Reg. -/
def RegOp (c : FReg → Instr) (code : Code) (w : Wid) (val : Bool → Nat → Nat → Nat → Nat) : Prop :=
  ∀ s f, legalInt3 f = true →
    WritesD (c f) (regWord code f) s w f.gn f.gp (regsOf (regWide f) [f.d, f.a, f.b]) (regWide f) (f.ty == 0#4) f.d fun wh l =>
      val (tySigned f.ty.toNat) (regWidth f) (wh.src (regWide f) l f.a) (wh.src (regWide f) l f.b)

/-- D from A, format Reg. -/
def RegOp1 (c : FReg → Instr) (code : Code) (w : Wid) (val : Bool → Nat → Nat → Nat) : Prop :=
  ∀ s f, legalInt2 f = true →
    WritesD (c f) (regWord code f) s w f.gn f.gp (regsOf (regWide f) [f.d, f.a]) (regWide f) (f.ty == 0#4) f.d fun wh l =>
      val (tySigned f.ty.toNat) (regWidth f) (wh.src (regWide f) l f.a)

/-- D from A, B and C, format Reg. -/
def RegOp3 (c : FReg → Instr) (code : Code) (w : Wid) (legal : FReg → Bool) (regs : FReg → List (BitVec 7))
    (val : Bool → Nat → Nat → Nat → Nat → Nat) : Prop :=
  ∀ s f, legal f = true →
    WritesD (c f) (regWord code f) s w f.gn f.gp (regsOf (regWide f) (regs f)) (regWide f) (f.ty == 0#4) f.d fun wh l =>
      val (tySigned f.ty.toNat) (regWidth f) (wh.src (regWide f) l f.a) (wh.src (regWide f) l f.b)
        (wh.src (regWide f) l f.c)

/-- D from A and the immediate, format Imm. -/
def ImmOp (c : FImm → Instr) (code : Code) (w : Wid) (legal : FImm → Bool) (val : Nat → Nat → Nat → Nat) : Prop :=
  ∀ s f, legal f = true →
    WritesD (c f) (immWord code f) s w f.gn f.gp (regsOf (immWide f) [f.d, f.a]) (immWide f) false f.d fun wh l =>
      val (immWidth f) (wh.src (immWide f) l f.a) (immValue f)

/-- A floating-point function of A, and of B and C where it uses them, format Reg (R88). -/
def FloatOp (c : FReg → Instr) (code : Code) (w : Wid) (useB useC : Bool) (op : FV → FV → FV → FV) : Prop :=
  ∀ s f, legalFalu f useB useC = true →
    WritesD (c f) (regWord code f) s w f.gn f.gp
      (regsOf false ([f.d, f.a] ++ (if useB then [f.b] else []) ++ (if useC then [f.c] else []))) false false f.d fun wh l =>
      faluValue f op (wh.src false l f.a) (wh.src false l f.b) (wh.src false l f.c)

/-- A compare of A and B in format Reg, of A and an immediate in format Imm, and of two floating-point values. -/
def CompareOp (c : FCmp → Instr) (fn : BitVec 7) (w : Wid) (op : CmpOp) : Prop :=
  (∀ s f, legalSetp f = true →
    WritesP (c (.setp f)) (regWord ⟨0x0D, fn⟩ f) s w f.gn f.gp (regsOf (regWide f) [f.a, f.b]) f.d fun wh l =>
      icmp op (tySigned f.ty.toNat) (regWidth f) (wh.src (regWide f) l f.a) (wh.src (regWide f) l f.b)) ∧
  (∀ s f, legalSetpi f = true →
    WritesP (c (.setpi f)) (immWord ⟨0x0E, fn⟩ f) s w f.gn f.gp (regsOf (immWide f) [f.a]) f.d fun wh l =>
      icmp op true (immWidth f) (wh.src (immWide f) l f.a) (immValue f)) ∧
  (∀ s f, legalFsetp f = true →
    WritesP (c (.fsetp f)) (regWord ⟨0x13, fn⟩ f) s w f.gn f.gp (regsOf false [f.a, f.b]) f.d fun wh l =>
      fcmp op (elemValue f.ty.toNat (wh.src false l f.a)) (elemValue f.ty.toNat (wh.src false l f.b)))

/-- A test of two floating-point values. -/
def FloatTest (c : FReg → Instr) (code : Code) (w : Wid) (test : FV → FV → Bool) : Prop :=
  ∀ s f, legalFsetp f = true →
    WritesP (c f) (regWord code f) s w f.gn f.gp (regsOf false [f.a, f.b]) f.d fun wh l =>
      test (elemValue f.ty.toNat (wh.src false l f.a)) (elemValue f.ty.toNat (wh.src false l f.b))

/-- A predicate from two predicates. -/
def PredOp (c : FReg → Instr) (code : Code) (w : Wid) (op : Bool → Bool → Bool) : Prop :=
  ∀ s f, legalPred f = true →
    WritesP (c f) (regWord code f) s w f.gn f.gp [] f.d fun wh l => op (wh.pget l f.a.toNat) (wh.pget l f.b.toNat)

/-- A special function of A (R89): where the spec states no value, the lane's result is a free value. -/
def SpecialOp (c : FReg → Instr) (w : Wid) (fn : Nat) : Prop :=
  ∀ s f, legalFsfu f = true → ∀ wh p s1, Issues s w true (regWord ⟨0x11, BitVec.ofNat 7 fn⟩ f) (regsOf false [f.d, f.a]) wh p s1 →
    ∃ t wh', exec (c f) s = .next t ∧ whorlOf t w = some wh' ∧ OnlyWhorl s1 t w ∧
      (∀ l, l ∈ runLanes wh p f.gn f.gp (isU f.d) → wh'.readD false l f.d = heldIn false false f.d
        (fsfuResult fn (wh.src false l f.a) ((Config.freeWord (s1.free + l)).toNat % 2 ^ 32))) ∧
      SameBut wh wh' (runLanes wh p f.gn f.gp (isU f.d)) (regKeys 1 f.d) []

/-! ## Collectives, waits and faults -/

/-- The lanes at an instance once path p has arrived (R58). -/
def arrivedLanes (wh : Whorl) (p : Path) (m : BitVec 16) : BitVec 16 :=
  (match wh.colls.find? fun c => c.pc == p.pc && c.mask == m with
   | some c => c.arrived
   | none => 0#16) ||| p.lanes

/-- Path p arrives at a collective of members m without a mismatch (R58, R59). -/
def ArrivesAt (wh : Whorl) (p : Path) (m : BitVec 16) : Prop := m ≠ 0#16 ∧ mismatch wh p m = none

/-- The scoreboard key of a mask register (R99). -/
def maskKeys (ms : BitVec 1) (mask : BitVec 16) : List Nat := if ms = 1#1 then [64 + mask.toNat % 32] else []

/-- The scoreboard keys of a shuffle's operands. -/
def shuffleKeys (f : FCol) : List Nat := [f.d, f.a].flatMap (regKeys 1) ++ (if f.di = 1#1 then [] else regKeys 1 f.b)

/-- Issue of c completes: every thread of p reads `code` in D, and no other register changes. -/
def CodesInto (c : Instr) (s : State) (w : Wid) (wh : Whorl) (p : Path) (d : BitVec 7) (code : Nat) : Prop :=
  ∃ t wh', exec c s = .next t ∧ whorlOf t w = some wh' ∧ (∀ l, l ∈ lanesOf p.lanes → wh'.vget l (regNo d) = code) ∧
    SameBut wh wh' (lanesOf p.lanes) (regKeys 1 d) []

/-- The wait of a path on a word, or on a time where `at_` is the timer (R63, R64). -/
def waitOn (ne : Bool) (va pa size cmp dl : Nat) (acq : Bool) (scope dest : Nat) (pc : W64) (place : WatchAt) : WaitInfo :=
  { ne := ne, va := va, pa := pa, size := size, cmp := BitVec.ofNat 64 cmp, deadline := BitVec.ofNat 64 dl, acq := acq,
    scope := scope, dest := dest, pc := pc, at_ := place, nextPoll := 0 }

/-- Issue of c completes with p waiting on i. -/
def BeginsWait (c : Instr) (s : State) (w : Wid) (wh : Whorl) (p : Path) (i : WaitInfo) : Prop :=
  ∃ t, exec c s = .next t ∧ whorlOf t w = some (closeWhorl (wh.setPath { p with st := .waiting i }) p.pid false false)

/-- The context of whorl w is ctx, and no fault of it is recorded. -/
def RunsFor (s : State) (w : Wid) (ctx : Nat) : Prop :=
  ∃ wh k c, whorlOf s w = some wh ∧ fget s.kerns wh.kernel = some k ∧ k.ctx = ctx ∧ fget s.ctxs ctx = some c ∧ c.fault = 0

/-- Context ctx has faulted with a code, and whorl w has stopped (R77). -/
def FaultedWith (t : State) (w : Wid) (ctx code : Nat) : Prop :=
  (∃ c, fget t.ctxs ctx = some c ∧ c.fault = code) ∧ ∃ wh, whorlOf t w = some wh ∧ wh.stopped = true

/-! ## Memory -/

/-- The bytes of `bs` stand at address a. -/
def HoldsAt (m : Mem) (a : Nat) (bs : List Byte) : Prop := ∀ i, i < bs.length → mget m (a + i) = bs.getD i 0#8

/-- Outside [a, a + n) every byte of m' reads as in m. -/
def SameOutside (m m' : Mem) (a n : Nat) : Prop := ∀ b, b < a ∨ a + n ≤ b → mget m' b = mget m b

/-- No release waits for earlier operations (Table 09.3). -/
def NoBlocked (s : State) : Prop := ∀ r, r ∈ s.mem.reqs → r.phase ≠ .blocked

/-- The home of a line answers now (Table 08.4): its bay is up, no transaction is open on the line and no request held for it, it
stands in a way with all sectors valid, and no agent outside holds it. -/
def HomeReady (s : State) (line : Nat) (e : Line) : Prop :=
  lineAnswers s line = .up ∧ missOf s line = none ∧ lineHeld s line = false ∧ s.line? line = some e ∧ e.ovf = false ∧
  (∀ i, i < 4 → e.secAt i ≠ .invalid) ∧ e.extOwned = false ∧ e.st ≠ .f

/-- Request id has one lane l, in DRAM and within one line, that has not left yet and is in turn (R257). -/
def LeavesNow (s : State) (id : Nat) (r : Req) (l : LaneAcc) : Prop :=
  findReq s id = some r ∧ id ≠ 0 ∧ r.phase = .sent ∧ r.merged = none ∧ r.lanes = [l] ∧ l.sent = false ∧ l.done = false ∧
  regionOf l.pa = .dram ∧ 0 < l.data.length ∧ l.pa % 1024 + l.data.length ≤ 1024 ∧ inTurn s r l.pa = true

/-- Request id has its one lane answered with these bytes. -/
def LaneGot (t : State) (id : Nat) (b : List Byte) : Prop :=
  ∃ r l, findReq t id = some r ∧ r.lanes = [l] ∧ l.done = true ∧ l.got = some b

/-- Every lane of request id is done. -/
def LanesDone (t : State) (id : Nat) : Prop := ∃ r, findReq t id = some r ∧ ∀ l, l ∈ r.lanes → l.done = true

/-! ## ADMIN operations and queue commands -/

/-- The result of function f's ADMIN operation, waiting for its end (R268, Table 10.2). -/
def AdminResult (t : State) (f code num : Nat) : Prop :=
  (t.fn f).adminDone = false ∧ (t.fn f).adminCode = BitVec.ofNat 32 code ∧ (t.fn f).adminNum = num % 65536

/-- Queue q takes a command of a type whose record satisfies `ok`: in s1 it executes as e, in good order so far (R274). -/
def Takes (s : State) (q typ : Nat) (ok : Rec → Bool) (e : Exec) (s1 : State) (x : Queue) : Prop :=
  takeExec s (.queue q) typ ok = some (e, s1) ∧ fget s1.queues q = some x ∧ e.status = 0

/-- Queue q's command has finished its work with a status. -/
def Finishes (t : State) (q code : Nat) : Prop :=
  ∃ x e, fget t.queues q = some x ∧ x.exec = some e ∧ e.phase = .finished ∧ e.status = code

/-- Queue q's command goes on waiting. -/
def StillWaits (t : State) (q : Nat) : Prop := ∃ x e, fget t.queues q = some x ∧ x.exec = some e ∧ e.phase = .waiting

/-- A write of these bytes to pa is in flight. -/
def WriteInFlight (t : State) (k : ReqKind) (pa : Nat) (b : List Byte) : Prop :=
  ∃ r, r ∈ t.mem.reqs ∧ r.kind = k ∧ ∃ l, r.lanes = [l] ∧ l.pa = pa ∧ l.data = b ∧ l.done = false

/-! ## Rafter frames -/

/-- A frame that its port receives, without a reserved value, of session n (R365). -/
def FrameFor (s : State) (h : RHdr) (subMax n : Nat) : Prop :=
  portUp s h = true ∧ frameOk h subMax = true ∧ frameSession s h = some n

/-- Session n's operation of this frame is in flight at the home of its bytes. -/
def InboundInFlight (t : State) (n : Nat) (h : RHdr) (k : ReqKind) (ls : List LaneAcc) : Prop :=
  ∃ r, r ∈ t.mem.reqs ∧ r.agent = .session n ∧ r.kind = k ∧ unrouted r.lanes = ls ∧ r.pc = BitVec.ofNat 64 h.psn.toNat

/-! ## Failures, Scribe -/

/-- No kernel that still runs holds a whorl, or waits to be restored to one. -/
def NoWhorlHeld (s : State) : Prop :=
  ∀ e, e ∈ s.kerns → e.2.st = .ended ∨ (e.2.saved = [] ∧ kernWhorls s e.1 = [])

/-- The operation of Port p ends with an abort code, and nothing else happens. -/
def AbortsWith (c : Instr) (s : State) (p : Port) (code : Nat) : Prop :=
  exec c s = .next (s.emit (.abort p (BitVec.ofNat 32 code) []))

/-- Port p's last answer is these bytes, without an abort. -/
def Answers (t : State) (p : Port) (d : List Byte) : Prop := t.out.head? = some (.scribe p none d)

/-- An entry whose value no rule of storage rewrites: no session, no protected range, no region, parity or share entry. -/
def plainKey (k : Nat) : Bool :=
  decide (0x1A00 ≤ k / 256) && !(decide (0x5200 ≤ k / 256) && decide (k / 256 < 0x5220)) && !isRegionKey k && !isShareKey k

/-! ## Debug -/

/-- The 32-bit words of a response on the TAP: its header, then its data (R482). -/
def debugWords (head : Nat) (data : List Byte) : List W32 :=
  (List.range ((16 + data.length + 3) / 4)).map fun i =>
    BitVec.ofNat 32 (leNat (((leBytes 16 head ++ data).drop (4 * i)).take 4))

/-- A debug request is answered on its port; the ADDR of a TAP response is not stated (R482). -/
def DebugAnswered (s t : State) (port : DebugPort) (op : Nat) (seq : W16) (status : Nat) (data : List Byte) : Prop :=
  (port = .uart → t.out = .dbg .uart seq status data :: s.out) ∧
  (port = .jtag → t.out = s.out ∧ t.dbg.req = [] ∧ ∃ a, a < 2 ^ 48 ∧ t.dbg.resp = s.dbg.resp ++
    debugWords (status + seq.toNat * 2 ^ 32 + a * 2 ^ 48 + data.length * 2 ^ 104 + op * 2 ^ 120) data)

/-- A debug request is answered with a status alone, and changes no unit but the debug access. -/
def DebugRefused (c : Instr) (s : State) (port : DebugPort) (op : Nat) (seq : W16) (status : Nat) : Prop :=
  ∃ t, exec c s = .next t ∧ DebugAnswered s t port op seq status [] ∧ t.mem = s.mem ∧ t.fell = s.fell ∧ t.mod = s.mod ∧
    t.flash = s.flash

end Sys2Proof.Machine
end

