-- ==== Sys2Proof/Certificates/Slice0/Obligations.lean ====
section
/-! DEFINITION. The statements for the provers. -/

open Sys2Proof Sys2Proof.Machine

/-! ## Integer instructions -/

/-- R86, R87, Table 03.11: sums, differences, products and quotients, in every form, completing wherever the whorl issues them.
R88, R89, Table 03.12: the exact result of the function, rounded once, in each half of a packed operand. -/
def Obligations.ArithmeticWritesItsResult : Prop :=
  (∀ w : Wid,
  RegOp (fun f => .iadd w (.reg f)) ⟨0x08, 0x00⟩ w (fun _ n a b => (a + b) % 2 ^ n) ∧
  ImmOp (fun f => .iadd w (.imm f)) ⟨0x09, 0x00⟩ w legalImm (fun n a b => (a + b) % 2 ^ n) ∧
  RegOp (fun f => .isub w (.reg f)) ⟨0x08, 0x01⟩ w (fun _ n a b => patternOf n ((a : Int) - b)) ∧
  ImmOp (fun f => .isub w (.imm f)) ⟨0x09, 0x01⟩ w legalImm (fun n a b => patternOf n ((a : Int) - b)) ∧
  RegOp (.imul w) ⟨0x0A, 0x00⟩ w (fun _ n a b => a * b % 2 ^ n) ∧
  RegOp (.imulhi w) ⟨0x0A, 0x01⟩ w (fun g n a b => patternOf n (readInt g n a * readInt g n b / (2 ^ n : Nat))) ∧
  RegOp3 (.imad w) ⟨0x0A, 0x02⟩ w legalInt4 (fun f => [f.d, f.a, f.b, f.c]) (fun _ n a b c => (a * b + c) % 2 ^ n) ∧
  RegOp (.idiv w) ⟨0x0B, 0x00⟩ w (fun g n a b =>
    if b % 2 ^ n = 0 then 2 ^ n - 1 else patternOf n ((readInt g n a).tdiv (readInt g n b))) ∧
  RegOp (.irem w) ⟨0x0B, 0x01⟩ w (fun g n a b =>
    if b % 2 ^ n = 0 then a % 2 ^ n else patternOf n ((readInt g n a).tmod (readInt g n b)))) ∧
  (∀ w : Wid,
  FloatOp (.fadd w) ⟨0x10, 0x00⟩ w true false (fun a b _ => fvAdd a b) ∧ FloatOp (.fsub w) ⟨0x10, 0x01⟩ w true false (fun a b _ => fvAdd a (fvNeg b)) ∧
  FloatOp (.fmul w) ⟨0x10, 0x02⟩ w true false (fun a b _ => fvMul a b) ∧ FloatOp (.ffma w) ⟨0x10, 0x03⟩ w true true (fun a b c => fvAdd (fvMul a b) c) ∧
  FloatOp (.fmin w) ⟨0x10, 0x04⟩ w true false (fun a b _ => fvMin a b) ∧ FloatOp (.fmax w) ⟨0x10, 0x05⟩ w true false (fun a b _ => fvMax a b) ∧
  FloatOp (.fabs w) ⟨0x10, 0x06⟩ w false false (fun a _ _ => fvAbs a) ∧ FloatOp (.fneg w) ⟨0x10, 0x07⟩ w false false (fun a _ _ => fvNeg a))

/-- R86, R87, Table 03.11: minima, maxima, absolute values, moves and selection.
R86, R87, Table 03.11: logic, shifts, bit counts and fields. -/
def Obligations.MoveSelectMinMaxAndBitInstructionsWriteTheirResult : Prop :=
  (∀ w : Wid,
  RegOp (fun f => .imin w (.reg f)) ⟨0x08, 0x02⟩ w (fun g n a b => if readInt g n a ≤ readInt g n b then a % 2 ^ n else b % 2 ^ n) ∧
  ImmOp (fun f => .imin w (.imm f)) ⟨0x09, 0x02⟩ w legalImm
    (fun n a b => if signedOf n a ≤ signedOf n b then a % 2 ^ n else b % 2 ^ n) ∧
  RegOp (fun f => .imax w (.reg f)) ⟨0x08, 0x03⟩ w (fun g n a b => if readInt g n b ≤ readInt g n a then a % 2 ^ n else b % 2 ^ n) ∧
  ImmOp (fun f => .imax w (.imm f)) ⟨0x09, 0x03⟩ w legalImm
    (fun n a b => if signedOf n b ≤ signedOf n a then a % 2 ^ n else b % 2 ^ n) ∧
  RegOp1 (fun f => .iabs w (.reg f)) ⟨0x08, 0x0a⟩ w (fun g n a => if g then patternOf n (Int.natAbs (signedOf n a)) else a % 2 ^ n) ∧
  ImmOp (fun f => .iabs w (.imm f)) ⟨0x09, 0x0a⟩ w (fun f => legalImm f && f.imm == 0#32)
    (fun n a _ => patternOf n (Int.natAbs (signedOf n a))) ∧
  ImmOp (.movi w) ⟨0x09, 0x10⟩ w (fun f => legalImm f && f.a == 0#7) (fun _ _ b => b) ∧
  (∀ s f, (legalImm f && f.a == 0#7 && f.w == 1#1) = true →
    WritesD (.movhi w f) (immWord ⟨0x09, 0x11⟩ f) s w f.gn f.gp (regsOf true [f.d]) true false f.d fun wh l =>
      wh.src true l f.d % 2 ^ 32 + f.imm.toNat * 2 ^ 32) ∧
  (∀ s f, (usedOnly f { UseReg.none with d := true, a := true, b := true, ty := true, ps := true } && decide (f.ty.toNat < 5) &&
      pairOk (regWide f) f.d && pairOk (regWide f) f.a && pairOk (regWide f) f.b) = true →
    WritesD (.sel w f) (regWord ⟨0x14, 0x04⟩ f) s w f.gn f.gp (regsOf (regWide f) [f.d, f.a, f.b]) (regWide f) (f.ty == 0#4) f.d fun wh l =>
      if wh.pget l f.ps.toNat then wh.src (regWide f) l f.a else wh.src (regWide f) l f.b)) ∧
  (∀ w : Wid,
  RegOp (fun f => .and w (.reg f)) ⟨0x08, 0x04⟩ w (fun _ _ a b => a &&& b) ∧ ImmOp (fun f => .and w (.imm f)) ⟨0x09, 0x04⟩ w legalImm (fun _ a b => a &&& b) ∧
  RegOp (fun f => .or w (.reg f)) ⟨0x08, 0x05⟩ w (fun _ _ a b => a ||| b) ∧ ImmOp (fun f => .or w (.imm f)) ⟨0x09, 0x05⟩ w legalImm (fun _ a b => a ||| b) ∧
  RegOp (fun f => .xor w (.reg f)) ⟨0x08, 0x06⟩ w (fun _ _ a b => a ^^^ b) ∧ ImmOp (fun f => .xor w (.imm f)) ⟨0x09, 0x06⟩ w legalImm (fun _ a b => a ^^^ b) ∧
  RegOp (fun f => .shl w (.reg f)) ⟨0x08, 0x07⟩ w (fun _ n a b => a * 2 ^ (b % n) % 2 ^ n) ∧
  ImmOp (fun f => .shl w (.imm f)) ⟨0x09, 0x07⟩ w legalImm (fun n a b => a * 2 ^ (b % n) % 2 ^ n) ∧
  RegOp (fun f => .shr w (.reg f)) ⟨0x08, 0x08⟩ w (fun _ n a b => a % 2 ^ n / 2 ^ (b % n)) ∧
  ImmOp (fun f => .shr w (.imm f)) ⟨0x09, 0x08⟩ w legalImm (fun n a b => a % 2 ^ n / 2 ^ (b % n)) ∧
  RegOp (fun f => .sar w (.reg f)) ⟨0x08, 0x09⟩ w (fun _ n a b => patternOf n (signedOf n a / (2 ^ (b % n) : Nat))) ∧
  ImmOp (fun f => .sar w (.imm f)) ⟨0x09, 0x09⟩ w legalImm (fun n a b => patternOf n (signedOf n a / (2 ^ (b % n) : Nat))) ∧
  RegOp1 (.ones w) ⟨0x0C, 0x00⟩ w (fun _ n a => countTo n a.testBit) ∧
  RegOp1 (.zlead w) ⟨0x0C, 0x01⟩ w (fun _ n a => if a % 2 ^ n = 0 then n else n - 1 - Nat.log2 (a % 2 ^ n)) ∧
  RegOp1 (.bitrev w) ⟨0x0C, 0x02⟩ w (fun _ n a => (List.range n).foldl (fun r i => if a.testBit i then r + 2 ^ (n - 1 - i) else r) 0) ∧
  RegOp3 (.fldx w) ⟨0x0C, 0x03⟩ w legalFldx (fun f => [f.d, f.a, f.c]) (fun g n a _ c => fieldExtract g n a c) ∧
  RegOp3 (.fldi w) ⟨0x0C, 0x04⟩ w legalInt4 (fun f => [f.d, f.a, f.b, f.c]) (fun _ n a b c => fieldInsert n a b c))

/-- R44, R80, R86, R88, Table 03.11: compares and predicate logic, for every thread whose guard is 1. -/
def Obligations.ComparesAndPredicateLogicWriteTheirPredicate : Prop :=
  ∀ w : Wid,
  CompareOp (.eq w) 0 w .eq ∧ CompareOp (.ne w) 1 w .ne ∧ CompareOp (.lt w) 2 w .lt ∧ CompareOp (.le w) 3 w .le ∧
  CompareOp (.gt w) 4 w .gt ∧ CompareOp (.ge w) 5 w .ge ∧
  FloatTest (.num w) ⟨0x13, 0x06⟩ w (fun a b => !fvIsNan a && !fvIsNan b) ∧ FloatTest (.nan w) ⟨0x13, 0x07⟩ w (fun a b => fvIsNan a || fvIsNan b) ∧
  PredOp (.pand w) ⟨0x14, 0x00⟩ w and ∧ PredOp (.por w) ⟨0x14, 0x01⟩ w or ∧ PredOp (.pxor w) ⟨0x14, 0x02⟩ w xor ∧
  (∀ s f, (usedOnly f { UseReg.none with d := true, a := true } && predOk f.d && predOk f.a) = true →
    WritesP (.pnot w f) (regWord ⟨0x14, 0x03⟩ f) s w f.gn f.gp [] f.d fun wh l => !wh.pget l f.a.toNat)

/-! ## Floating point -/

/-- R89, R90, R148, R151: special functions; conversions, which draw from the generator only when they round stochastically,
once for each element converted. -/
def Obligations.SpecialFunctionsAndConversionsComplete : Prop :=
  ∀ w : Wid,
  SpecialOp (.frcp w) w 0 ∧ SpecialOp (.frsq w) w 1 ∧ SpecialOp (.fsqrt w) w 2 ∧ SpecialOp (.fex2 w) w 3 ∧
  SpecialOp (.flg2 w) w 4 ∧ SpecialOp (.fsin w) w 5 ∧ SpecialOp (.fcos w) w 6 ∧
  (∀ s f, legalCvt f = true → f.rnd ≠ 2#2 → ∀ wh p s1,
    Issues s w true (regWord ⟨0x12, 0x00⟩ f) (regsOf (regWide f) [f.d] ++ regsOf (tyWide f.b.toNat) [f.a]) wh p s1 →
    ∃ t wh', exec (.cvt w f) s = .next t ∧ whorlOf t w = some wh' ∧ OnlyWhorl s1 t w ∧
      (∀ l, l ∈ runLanes wh p f.gn f.gp (isU f.d) → wh'.readD (regWide f) l f.d = heldIn (regWide f) (f.ty == 0#4) f.d
        (cvtLane f (genOf s1 w.core (whorlCtx s1 wh)) (wh.src (tyWide f.b.toNat) l f.a)).1) ∧
      SameBut wh wh' (runLanes wh p f.gn f.gp (isU f.d)) (regKeys (if regWide f then 2 else 1) f.d) []) ∧
  (∀ s f, legalCvt f = true → f.rnd = 2#2 → ∀ wh p s1,
    Issues s w true (regWord ⟨0x12, 0x00⟩ f) (regsOf (regWide f) [f.d] ++ regsOf (tyWide f.b.toNat) [f.a]) wh p s1 →
    ∃ t wh', exec (.cvt w f) s = .next t ∧ whorlOf t w = some wh' ∧ t.mem = s1.mem ∧
      genOf t w.core (whorlCtx s1 wh) = Nat.repeat genStep ((runLanes wh p f.gn f.gp (isU f.d)).length *
        (if tyPacked f.ty.toNat && tyPacked f.b.toNat then 2 else 1)) (genOf s1 w.core (whorlCtx s1 wh)) ∧
      SameBut wh wh' (runLanes wh p f.gn f.gp (isU f.d)) (regKeys (if regWide f then 2 else 1) f.d) [])

/-! ## Memory instructions -/

/-- R70, R91, R92, R93, R94, R95, R247, Table 03.13: a load, store, atomic, accumulating write or prefetch that issues leaves as one request of its
lanes, and changes no byte and no other register. -/
def Obligations.AccessesLeaveAsRequests : Prop :=
  (∀ w : Wid,
  AccessLeaves (.ld w) ⟨0x18, 0x00⟩ w (fun f => legalLoad f 5) (fun f => memKeys f true false) (.load false) (fun f => isU f.d)
    (fun f _ _ => blank (memSize f)) (fun _ _ _ => []) ∧
  AccessLeaves (.ldS w) ⟨0x18, 0x01⟩ w (fun f => legalLoad f 2) (fun f => memKeys f true false) (.load true) (fun f => isU f.d)
    (fun f _ _ => blank (memSize f)) (fun _ _ _ => []) ∧
  AccessLeaves (.st w) ⟨0x19, 0x00⟩ w legalStore (fun f => memKeys f true false) .store (fun f => isU f.d)
    (fun f wh l => regBytes wh l (memSize f) f.d) (fun _ _ _ => [])) ∧
  (∀ w : Wid, ∀ ck : (Wid → FMem → Instr) × Nat,
  ck ∈ [(.atomAdd, 0), (.atomMinS, 1), (.atomMaxS, 2), (.atomMinU, 3), (.atomMaxU, 4), (.atomAnd, 5), (.atomOr, 6), (.atomXor, 7),
        (.exch, 8), (.cas, 9), (.atomFadd, 10)] →
  AccessLeaves (ck.1 w) ⟨0x1A, BitVec.ofNat 7 ck.2⟩ w (fun f => legalAtom f ck.2) (fun f => memKeys f true true) (.atom ck.2) (fun f => isU f.d)
    (fun f wh l => regBytes wh l (memSize f) f.b) (fun f wh l => regBytes wh l (memSize f) f.d)) ∧
  (∀ w : Wid, ∀ ck : (Wid → FMem → Instr) × Nat,
  ck ∈ [(.fadd32, 0), (.bf16add, 1), (.iadd32, 2), (.fmax32, 3), (.imax32, 4)] →
  AccessLeaves (ck.1 w) ⟨0x1B, BitVec.ofNat 7 ck.2⟩ w legalAcw (fun f => memKeys f false true) (.acw ck.2) (fun _ => false)
    (fun f wh l => regBytes wh l 4 f.b) (fun _ _ _ => [])) ∧
  (∀ w : Wid, ∀ ck : (Wid → FMem → Instr) × Bool, ck ∈ [(.prefLlc, false), (.prefNear, true)] →
  ∀ s f, legalPref f = true → ∀ wh p s1 s2 xs, Issues s w true (memWord ⟨0x1C, if ck.2 then 0x01 else 0x00⟩ f) (memKeys f false false) wh p s1 →
    xlatLanes (.core w.core w.slot) (whorlCtx s1 wh) .read 1 s1
      ((execLanes wh p f.gn f.gp).map fun l => (l, effAddr wh l f)) = (xs, s2) →
    (∀ x, x ∈ xs → x.2.2 ≠ .wait) → s2.reqIds = true →
    ∃ t wh', exec (ck.1 w f) s = .next t ∧ whorlOf t w = some wh' ∧ SameBut wh wh' [] [] [] ∧ SameBytes s2 t ∧
      ∀ x pa, x ∈ xs → x.2.2 = .ok pa → regionOf pa = .dram →
        ∃ r, r ∈ t.mem.reqs ∧ r.agent = .core w.core w.slot ∧ r.kind = .pref ck.2 ∧ r.cls = f.cls.toNat ∧
          r.lanes.map (fun l => (l.pa, l.data.length)) = [(1024 * (pa / 1024), 1024)])

/-- R93, R154: a store whose lanes all lie in the core's own store acts at once: in lane order it writes the bytes of D at the
physical addresses its lanes resolve to, and every byte outside them reads as before.
R48, R53, R80: what comes before the instruction's own effect changes no register and no byte of memory: the fetch fills
instruction caches and the translations, counts its lookups, makes lines recent, and equal paths merge. -/
def Obligations.OwnStoreWritesActAtOnceAndFetchChangesNothing : Prop :=
  (∀ (w : Wid) s f, legalStore f = true → f.ord = 0#2 → ∀ wh p s1 s2 as, Issues s w true (memWord ⟨0x19, 0x00⟩ f) (memKeys f true false) wh p s1 →
    runLanes wh p f.gn f.gp (isU f.d) ≠ [] → acquireOpen s1 w p = false → as ≠ [] →
    resolve s1 (.core w.core w.slot) (whorlCtx s1 wh) .write 1 (memSize f)
      ((runLanes wh p f.gn f.gp (isU f.d)).map fun l => (l, effAddr wh l f)) = .ok as s2 →
    (∀ a, a ∈ as → ownStore w.core a.2.2 = true ∧ tileTouches s2 (whorlCtx s1 wh) w.core wh a.2.2 (memSize f) = false ∧
      ownHeld s2 w.core a.2.2 (memSize f) = false) →
    Memory.wf s2.mem.store = true →
    ∃ t wh', exec (.st w f) s = .next t ∧ whorlOf t w = some wh' ∧ SameBut wh wh' [] [] [] ∧
      t.mem.store = as.foldl (fun m a => mwrite m a.2.2 (regBytes wh a.1 (memSize f) f.d)) s2.mem.store ∧
      (∀ x, (∀ a, a ∈ as → x < a.2.2 ∨ a.2.2 + memSize f ≤ x) → mget t.mem.store x = mget s2.mem.store x) ∧
      (∀ x, mget t.mem.dram x = mget s2.mem.dram x ∧ mget t.mem.llc x = mget s2.mem.llc x ∧
        mget t.mem.scratch x = mget s2.mem.scratch x ∧ mget t.mem.host x = mget s2.mem.host x ∧
        mget t.mem.mirror x = mget s2.mem.mirror x)) ∧
  (∀ s w simt code keys wh p s1, Issues s w simt code keys wh p s1 →
    (∃ wh0, whorlOf s w = some wh0 ∧ wh = { wh0 with paths := wh.paths }) ∧ whorlOf s1 w = some wh ∧ SameBytes s s1 ∧
    s1 = { s with cores := s1.cores, dict := { s.dict with od := s1.dict.od }, obs := s1.obs,
                  mem := { s.mem with tlb := s1.mem.tlb, lines := s1.mem.lines, stamp := s1.mem.stamp,
                                      icFill := s1.mem.icFill } } ∧
    (∀ c, c ≠ w.core → s1.core c = s.core c) ∧
    (∀ n, n ≠ w.slot → fget (s1.core w.core).slots n = fget (s.core w.core).slots n))

/-! ## Control flow -/

/-- R50, R51, R96, R97, Table 03.5: BRA, BRX and CALL send the threads whose guard is 1 to the target and the others on; CALL
writes the return address to v62:v63 of each calling thread. -/
def Obligations.BranchesMoveEachThread : Prop :=
  ∀ (w : Wid) (s : State) (f : FBr) (wh : Whorl) (p : Path) (s1 : State), guardOk f.gn f.gp = true →
  (Issues s w true (brWord ⟨0x02, 0⟩ f) [] wh p s1 → ∃ t wh2, exec (.bra w f) s = .next t ∧ ClosesJump s1 t w p wh2 ∧
    (∀ l, l ∈ execLanes wh p f.gn f.gp → LaneAt wh2 l (p.pc + BitVec.ofInt 64 (8 * f.tgt.toInt))) ∧
    (∀ l, l ∈ lanesOf p.lanes → l ∉ execLanes wh p f.gn f.gp → LaneAt wh2 l (p.pc + 8)) ∧
    wh2 = { wh with paths := wh2.paths, nextPid := wh2.nextPid, nextSplit := wh2.nextSplit }) ∧
  (uOk (brxReg f) = true → f.tgt.extractLsb' 0 17 = 0#17 → Issues s w true (brWord ⟨0x03, 0⟩ f) [regKey (brxReg f)] wh p s1 →
    ∃ t wh2, exec (.brx w f) s = .next t ∧ ClosesJump s1 t w p wh2 ∧
      (∀ l, l ∈ execLanes wh p f.gn f.gp → LaneAt wh2 l (BitVec.ofNat 64 (wh.uget (regNo (brxReg f))))) ∧
      (∀ l, l ∈ lanesOf p.lanes → l ∉ execLanes wh p f.gn f.gp → LaneAt wh2 l (p.pc + 8)) ∧
      wh2 = { wh with paths := wh2.paths, nextPid := wh2.nextPid, nextSplit := wh2.nextSplit }) ∧
  (Issues s w true (brWord ⟨0x04, 0⟩ f) [62, 63] wh p s1 → ∃ t wh2, exec (.call w f) s = .next t ∧ ClosesJump s1 t w p wh2 ∧
    (∀ l, l ∈ execLanes wh p f.gn f.gp → LaneAt wh2 l (p.pc + BitVec.ofInt 64 (8 * f.tgt.toInt)) ∧
      wh2.src true l 62#7 = (p.pc + 8).toNat) ∧
    (∀ l, l ∈ lanesOf p.lanes → l ∉ execLanes wh p f.gn f.gp → LaneAt wh2 l (p.pc + 8)) ∧
    SameBut wh { wh2 with nextPid := wh.nextPid, nextSplit := wh.nextSplit } (execLanes wh p f.gn f.gp) [62, 63] [])

/-- R97, R57, Table 03.16: RET moves each thread to its v62:v63; EXIT removes its threads; NOP only moves on.
R54, R55: a parked path that is due drops its join, and continues at once; a current path gives way after 32 issues. -/
def Obligations.ReturnExitNopAndPathOrderMoveThreads : Prop :=
  (∀ (w : Wid) (s : State) (wh : Whorl) (p : Path) (s1 : State),
  (∀ f : FBr, guardOk f.gn f.gp = true → f.tgt = 0#24 → f.join = 0#23 → Issues s w true (brWord ⟨0x05, 0⟩ f) [62, 63] wh p s1 →
    ∃ t wh2, exec (.ret w f) s = .next t ∧ ClosesJump s1 t w p wh2 ∧
      (∀ l, l ∈ execLanes wh p f.gn f.gp → LaneAt wh2 l (BitVec.ofNat 64 (wh.src true l 62#7))) ∧
      (∀ l, l ∈ lanesOf p.lanes → l ∉ execLanes wh p f.gn f.gp → LaneAt wh2 l (p.pc + 8)) ∧
      wh2 = { wh with paths := wh2.paths, nextPid := wh2.nextPid }) ∧
  (∀ f : FReg, legalBare f = true → Issues s w true (regWord ⟨0x00, 0x00⟩ f) [] wh p s1 → ∃ t, exec (.nop w f) s = .next t ∧ ClosesNext s1 t w p wh) ∧
  (∀ f : FReg, legalBare f = true → Issues s w true (regWord ⟨0x00, 0x01⟩ f) [] wh p s1 →
    memberExits wh (maskOf (execLanes wh p f.gn f.gp)) = none →
    ∃ t wh2, exec (.exit w f) s = .next (retireWhorl t w) ∧ ClosesJump s1 t w p wh2 ∧
      (p.lanes &&& ~~~(maskOf (execLanes wh p f.gn f.gp)) = 0#16 → 
        wh2 = { wh with paths := wh.paths.filter (fun x => x.pid != p.pid), cur := (nextRunnable wh).getD wh.cur }) ∧
      (p.lanes &&& ~~~(maskOf (execLanes wh p f.gn f.gp)) ≠ 0#16 →
        wh2 = wh.setPath { p with lanes := p.lanes &&& ~~~(maskOf (execLanes wh p f.gn f.gp)), pc := p.pc + 8, st := .run })) ∧
  (∀ t u, whorlOf t w = some u → u.paths = [] → u.tileQ = [] → whorlOf (retireWhorl t w) w = none)) ∧
  (∀ (w : Wid) (s : State) (wh : Whorl), whorlOf s w = some wh → wh.stopped = false →
  (∀ pid p, wh.path? pid = some p → coreRuns s w.core = true → releaseDue wh p = true →
    ∃ t, exec (.parkedPathRelease w pid) s = .next t ∧ OnlyWhorl s t w ∧ whorlOf t w = some (settle 24
      { wh.setPath { p with st := .released, joins := p.joins.drop 1 } with cur := p.pid, curIssues := 0 })) ∧
  (32 ≤ wh.curIssues → ∃ t wh', exec (.pathSwitch w) s = .next t ∧ OnlyWhorl s t w ∧ whorlOf t w = some wh' ∧ wh'.curIssues = 0 ∧
    wh'.paths = wh.paths ∧ (∀ pid, nextRunnable wh = some pid → wh'.cur = pid)))

/-- R39, R250, Table 03.17: FENCE of GROVE or wider empties the core's L1; RDSR reads the named register into D. -/
def Obligations.FenceAndReadSpecialRegisterComplete : Prop :=
  ∀ (w : Wid) (s : State) (f : FReg) (wh : Whorl) (p : Path) (s1 : State),
  (usedOnly f { UseReg.none with a := true } = true → guardAll f.gn f.gp = true → f.a.toNat < 5 →
    Issues s w true (regWord ⟨0x00, 0x02⟩ f) [] wh p s1 →
    acquireOpen s1 w p = false → releaseReady s1 w f.a.toNat s1.mem.nextReq = true →
    ∃ t, exec (.fence w f) s = .next t ∧ whorlOf t w = some (closeWhorl wh p.pid true false) ∧ SameBytes s1 t ∧
      (1 ≤ f.a.toNat → (t.core w.core).l1 = []) ∧ (f.a.toNat = 0 → (t.core w.core).l1 = (s1.core w.core).l1)) ∧
  (usedOnly f { UseReg.none with d := true, b := true } = true → uOk f.d = true → Issues s w true (regWord ⟨0x00, 0x03⟩ f) [regKey f.d] wh p s1 →
    wh.guard f.gn f.gp (lowLane p) = true →
    (f.b = 0#7 → s1.mod.groveWait.contains (coreGrove w.core) = false →
      ∃ t wh' n, exec (.rdsr w f) s = .next t ∧ whorlOf t w = some wh' ∧ wh'.uget (regNo f.d) = n % 2 ^ 64 ∧
        s1.now ≤ t.now ∧ t.now / 64 = s1.now / 64 ∧ t.now ≤ n + 20 ∧
        n ≤ max (fgetD s1.mod.groveLast (coreGrove w.core) 0) (t.now + 20) ∧
        fget t.mod.groveLast (coreGrove w.core) = some n ∧ (fgetD s1.mod.groveLast (coreGrove w.core) 0) ≤ n) ∧
    (f.b = 1#7 → ∃ t wh' n, exec (.rdsr w f) s = .next t ∧ whorlOf t w = some wh' ∧ wh'.uget (regNo f.d) = n % 2 ^ 64 ∧
        (s1.dom (coreDomain s1 w.core)).onSteps ≤ n) ∧
    (∀ n, (f.b = 2#7 ∧ n = w.core) ∨ (f.b = 3#7 ∧ n = coreGrove w.core) ∨ (f.b = 4#7 ∧ n = whorlCtx s1 wh) ∨
        (f.b = 5#7 ∧ n = p.lanes.toNat) →
      ∃ t wh', exec (.rdsr w f) s = .next t ∧ whorlOf t w = some wh' ∧ OnlyWhorl s1 t w ∧ wh'.uget (regNo f.d) = n % 2 ^ 64 ∧
        SameBut wh wh' [lowLane p] [regKey f.d] []))

/-! ## Collectives, waits, tiles, chutes and pins -/

/-- R58, R61, R62, Table 02.3: when its last member arrives, a shuffle gives each member the word of its source lane, or its own
word where the source is no member, and the arrived paths go on as one.
R58, R61, Table 02.3: when its last member arrives, a vote gives each member the or, the and, or the ballot of predicate PS. -/
def Obligations.ShufflesAndVotesExecuteWhenTheLastMemberArrives : Prop :=
  (∀ (w : Wid) (s : State) (f : FCol) (wh : Whorl) (p : Path) (s1 : State) (m : BitVec 16),
  guardAll f.gn f.gp = true → maskFieldOk f.ms f.mask = true → legalShfl f = true →
  memberMask wh f.ms f.mask = m → ArrivesAt wh p m → arrivedLanes wh p m = m →
  ∀ (c : Instr) (fn : BitVec 7) (source : Nat → Nat → Nat), (c, fn, source) ∈ [(Instr.shflPick w f, 0x00, fun _ d => d % 16),
      (Instr.shflRot w f, 0x01, fun t d => (t + d % 16) % 16), (Instr.shflSwap w f, 0x02, fun t d => t ^^^ (d % 16)),
      (Instr.shflLead w f, 0x03, fun t d => t - t % 2 ^ (min d 4))] →
    Issues s w true (colWord ⟨0x20, fn⟩ f)
      ([f.d, f.a].flatMap (regKeys 1) ++ (if f.di = 1#1 then [] else regKeys 1 f.b) ++ maskKeys f.ms f.mask) wh p s1 →
    ∃ t wh2, exec c s = .next t ∧ ClosesJump s1 t w p wh2 ∧
      (∀ l, l ∈ lanesOf m → ∀ n, n = source l (if f.di = 1#1 then f.b.toNat else wh.src false l f.b) →
        wh2.vget l (regNo f.d) = if m.getLsbD n then wh.vget n (regNo f.a) else wh.vget l (regNo f.a)) ∧
      (∀ l, l ∈ lanesOf p.lanes → LaneAt wh2 l (p.pc + 8)) ∧
      SameBut wh { wh2 with colls := wh.colls } (lanesOf m) (regKeys 1 f.d) [] ∧
      wh2.colls = wh.colls.filter fun o => !(o.pc == p.pc && o.mask == m)) ∧
  (∀ (w : Wid) (s : State) (f : FCol) (wh : Whorl) (p : Path) (s1 : State) (m : BitVec 16),
  guardAll f.gn f.gp = true → maskFieldOk f.ms f.mask = true → memberMask wh f.ms f.mask = m → ArrivesAt wh p m →
  arrivedLanes wh p m = m →
  (legalVote f false = true →
    ∀ (c : Instr) (fn : BitVec 7) (value : Bool),
      (c, fn, value) ∈ [(Instr.voteAny w f, 0x00, decide (∃ l, l ∈ lanesOf m ∧ wh.pget l f.ps.toNat = true)),
        (Instr.voteAll w f, 0x01, decide (∀ l, l ∈ lanesOf m → wh.pget l f.ps.toNat = true))] →
      Issues s w true (colWord ⟨0x21, fn⟩ f) (maskKeys f.ms f.mask) wh p s1 →
      ∃ t wh2, exec c s = .next t ∧ ClosesJump s1 t w p wh2 ∧
        (∀ l, l ∈ lanesOf m → wh2.pget l f.d.toNat = (f.d == 7#7 || value)) ∧
        (∀ l, l ∈ lanesOf p.lanes → LaneAt wh2 l (p.pc + 8)) ∧
        SameBut wh { wh2 with colls := wh.colls } (lanesOf m) [] [f.d.toNat]) ∧
  (legalVote f true = true → Issues s w true (colWord ⟨0x21, 0x02⟩ f) (regKeys 1 f.d ++ maskKeys f.ms f.mask) wh p s1 →
    ∃ t wh2, exec (.voteBallot w f) s = .next t ∧ ClosesJump s1 t w p wh2 ∧
      (∀ l, l ∈ lanesOf m → ∀ n, n < 16 →
        (wh2.vget l (regNo f.d)).testBit n = (m.getLsbD n && wh.pget n f.ps.toNat)) ∧
      (∀ l, l ∈ lanesOf p.lanes → LaneAt wh2 l (p.pc + 8)) ∧
      SameBut wh { wh2 with colls := wh.colls } (lanesOf m) (regKeys 1 f.d) []))

/-- R58, R59, R60: an arrival that is not the last leaves its path at the open instance; a mismatch faults with code 5; an instance
that stays open past its time faults with code 6.
R75, R76, R77, Table 17.1: an illegal form of an instruction faults its whorl's context with code 1. -/
def Obligations.OpenCollectivesWaitOrFaultAndIllegalFormsFault : Prop :=
  (∀ (w : Wid) (s : State),
  (∀ (f : FCol) (c : Instr) (code : Code) (op : CollOp) (legal : Bool) (keys : List Nat) (wh : Whorl) (p : Path) (s1 : State)
      (m : BitVec 16),
    (c, code, op, legal, keys) ∈ [
      (Instr.shflPick w f, ⟨0x20, 0x00⟩, CollOp.shfl .pick f, legalShfl f, shuffleKeys f),
      (Instr.shflRot w f, ⟨0x20, 0x01⟩, CollOp.shfl .rot f, legalShfl f, shuffleKeys f),
      (Instr.shflSwap w f, ⟨0x20, 0x02⟩, CollOp.shfl .swap f, legalShfl f, shuffleKeys f),
      (Instr.shflLead w f, ⟨0x20, 0x03⟩, CollOp.shfl .lead f, legalShfl f, shuffleKeys f),
      (Instr.voteAny w f, ⟨0x21, 0x00⟩, CollOp.vote .any f, legalVote f false, []),
      (Instr.voteAll w f, ⟨0x21, 0x01⟩, CollOp.vote .all f, legalVote f false, []),
      (Instr.voteBallot w f, ⟨0x21, 0x02⟩, CollOp.vote .ballot f, legalVote f true, regKeys 1 f.d)] →
    guardAll f.gn f.gp = true → maskFieldOk f.ms f.mask = true → legal = true →
    Issues s w true (colWord code f) (keys ++ maskKeys f.ms f.mask) wh p s1 →
    memberMask wh f.ms f.mask = m → m ≠ 0#16 →
    (mismatch wh p m = none → arrivedLanes wh p m ≠ m → ∃ t wh2 o, exec c s = .next t ∧ ClosesJump s1 t w p wh2 ∧
      (∃ q, q ∈ wh2.paths ∧ q = { p with st := .coll m p.pc }) ∧ o ∈ wh2.colls ∧ o.pc = p.pc ∧ o.mask = m ∧
      o.arrived = arrivedLanes wh p m ∧ o.op = op ∧ SameBut wh { wh2 with colls := wh.colls } [] [] []) ∧
    (∀ ctx, mismatch wh p m ≠ none → RunsFor s w ctx → ∃ t, exec c s = .next t ∧ FaultedWith t w ctx 5)) ∧
  (∀ (wh : Whorl) (o : OpenColl) (mask : BitVec 16) (ctx : Nat), whorlOf s w = some wh →
    wh.colls.find? (fun c => c.mask == mask) = some o → kernelRuns s wh.kernel = true → wh.stopped = false → s.felled = false →
    o.fullAt = none →
    o.opened + 1000 * odNat s 0x4020 1 ≤ s.now → RunsFor s w ctx →
    ∃ t, exec (.collectiveTimeout w mask) s = .next t ∧ FaultedWith t w ctx 6)) ∧
  (∀ (w : Wid) (s : State) (wh : Whorl) (p : Path) (s1 : State) (ctx : Nat), RunsFor s w ctx →
  (∀ (f : FReg) (c : Instr) (code : Code) (legal : Bool), (c, code, legal) ∈ [(Instr.imul w f, ⟨0x0A, 0x00⟩, legalInt3 f),
      (Instr.fadd w f, ⟨0x10, 0x00⟩, legalFalu f true false), (Instr.nop w f, ⟨0x00, 0x00⟩, legalBare f),
      (Instr.exit w f, ⟨0x00, 0x01⟩, legalBare f), (Instr.waitT w f, ⟨0x00, 0x04⟩, legalWaitT f),
      (Instr.pand w f, ⟨0x14, 0x00⟩, legalPred f)] →
    Issues s w true (regWord code f) [] wh p s1 → legal = false → ∃ t, exec c s = .next t ∧ FaultedWith t w ctx 1) ∧
  (∀ (f : FBr), Issues s w true (brWord ⟨0x02, 0⟩ f) [] wh p s1 → guardOk f.gn f.gp = false →
    ∃ t, exec (.bra w f) s = .next t ∧ FaultedWith t w ctx 1) ∧
  (∀ (f : FMem), Issues s w true (memWord ⟨0x01, 0x00⟩ f) [] wh p s1 → legalWait f = false →
    ∃ t, exec (.waitEq w f) s = .next t ∧ FaultedWith t w ctx 1) ∧
  (∀ (f : FTile), Issues s w false (tileWord ⟨0x28, 0x00⟩ f) [] wh p s1 → legalTile .mac f = false → ∃ t, exec (.tileMac w f) s = .next t ∧ FaultedWith t w ctx 1))

/-- R63, R64, R65, R105: WAIT.EQ and WAIT.NE end at once with code 0 where the condition holds, code 1 where the deadline is past,
code 2 where the core has no watch slot; otherwise the path waits. WAIT.T ends with code 1 or waits for its time. -/
def Obligations.WaitsEndAtOnceOrBegin : Prop :=
  ∀ (w : Wid) (s : State) (wh : Whorl) (p : Path) (s1 : State),
  (∀ (f : FMem) (c : Instr) (ne : Bool) (s2 : State) (as : List (Nat × Nat × Nat)) (pa : Nat),
    (c, ne) ∈ [(Instr.waitEq w f, false), (Instr.waitNe w f, true)] → legalWait f = true →
    Issues s w true (memWord ⟨0x01, if ne then 0x01 else 0x00⟩ f) (waitKeys f) wh p s1 → acquireOpen s1 w p = false →
    resolve s1 (.core w.core w.slot) (whorlCtx s1 wh) .read 16 (memSize f)
      ((lanesOf p.lanes).map fun l => (l, wh.uget (regNo f.a))) = .ok as s2 →
    as.head?.map (·.2.2) = some pa → ownStore w.core pa = false → placeAsk s2 (.core w.core w.slot) pa (memSize f) = none →
    turnOf s2 (.core w.core w.slot) s2.mem.nextReq pa = true →
    ∀ value bad cmp dl, (value, bad) = coreReads s2 w.core (f.ord.getLsbD 0) pa (memSize f) →
      cmp = wh.uget (regNo f.b) % 2 ^ (8 * memSize f) → dl = wh.uget (f.off.toNat % 32) → bad = false →
    (watchPlace s2 pa ≠ .poll → waitMet ne value cmp = true → CodesInto c s w wh p f.d 0) ∧
    (watchPlace s2 pa ≠ .poll → waitMet ne value cmp = false → dl ≤ s2.now → dl ≠ 2 ^ 64 - 1 → CodesInto c s w wh p f.d 1) ∧
    ((watchPlace s2 pa ≠ .poll → waitMet ne value cmp = false ∧ (s2.now < dl ∨ dl = 2 ^ 64 - 1)) →
      (watchPlace s2 pa ≠ .poll → 16 ≤ slotsUsed s2 w.core → CodesInto c s w wh p f.d 2) ∧
      (watchPlace s2 pa = .poll ∨ slotsUsed s2 w.core < 16 →
        (∀ n, watchPlace s2 pa = .slice n → (s2.mem.watches.filter fun x => x.1 == n).length < 64) →
        BeginsWait c s w wh p (waitOn ne (wh.uget (regNo f.a)) pa (memSize f) cmp dl (f.ord.getLsbD 0) f.sc.toNat (regNo f.d) p.pc
          (watchPlace s2 pa))))) ∧
  (∀ f : FReg, legalWaitT f = true → Issues s w true (regWord ⟨0x00, 0x04⟩ f) (regKeys 1 f.d ++ [regKey f.a]) wh p s1 →
    (wh.uget (regNo f.a) ≤ s1.now → CodesInto (.waitT w f) s w wh p f.d 1) ∧
    (s1.now < wh.uget (regNo f.a) → BeginsWait (.waitT w f) s w wh p (waitOn false 0 0 0 0 (wh.uget (regNo f.a)) false 0 (regNo f.d) p.pc .timer)))

/-- R63, R64, R65, R66: a wait ends with code 0 when a write meets its condition or a reread finds it met, with code 1 at its
deadline; its path then stands at the next instruction. A reread that finds it not met comes again 1,000 ns later. -/
def Obligations.WaitsEndWithTheirCodeOrPollAgain : Prop :=
  ∀ (w : Wid) (s : State) (path : Nat) (wh : Whorl) (p : Path) (i : WaitInfo),
  waitOf s w path = some (wh, p, i) → mayResume s w wh = true →
  (∀ (c : Instr) (code : Nat), i.at_ = .timer ∨ (coreReads s w.core i.acq i.pa i.size).2 = false →
    (c = Instr.waitConditionMet w path ∧ code = 0 ∧ i.at_ ≠ .timer ∧ i.at_ ≠ .poll ∧ homeAnswers s i.pa = true ∧
        waitMet i.ne (watchRead s i.pa i.size).1 i.cmp.toNat = true) ∨
      (c = Instr.waitDeadline w path ∧ code = 1 ∧ i.deadline.toNat ≤ s.now ∧
        (i.at_ = .timer ∨ i.deadline ≠ BitVec.allOnes 64) ∧ (i.at_ = .poll → i.nextPoll ≠ 0)) →
    ∃ t, exec c s = .next t ∧
      whorlOf t w = some (rejoin ((waitCode wh p i.dest code).setPath { p with pc := p.pc + 8, st := .run }) path) ∧
      (i.dest < 64 → code < 2 → ∀ l, l ∈ lanesOf p.lanes → (waitCode wh p i.dest code).vget l i.dest = code) ∧
      ∀ x, x ∈ t.mem.watches → x.2 ≠ (w.core, w.slot, path)) ∧
  (∀ (hw : List Host.Cell) (s2 : State), s2 = hostLearn s hw i.pa i.size → i.at_ = .poll → i.nextPoll ≤ s.now →
    outsideOpen s ((ctxFn s (whorlCtx s wh)).getD 0) i.pa = true → regionOf i.pa ≠ .peer →
    (waitMet i.ne (watchRead s2 i.pa i.size).1 i.cmp.toNat = true → (coreReads s2 w.core i.acq i.pa i.size).2 = false →
      ∃ t, exec (.watchReread w path hw) s = .next t ∧
        whorlOf t w = some (rejoin ((waitCode wh p i.dest 0).setPath { p with pc := p.pc + 8, st := .run }) path)) ∧
    (waitMet i.ne (watchRead s2 i.pa i.size).1 i.cmp.toNat = false → i.nextPoll ≠ 0 → ∃ t, exec (.watchReread w path hw) s = .next t ∧
      whorlOf t w = some (wh.setPath { p with st := .waiting { i with nextPoll := s.now + 1000 } }) ∧ t.mem.watches = s.mem.watches))

/-- R100, R111, R117: a tile collective whose last member arrives enters its whorl's tile queue; a queue of two makes its path not
ready; TILE.ZERO enters once for its path. -/
def Obligations.TileInstructionsEnterTheTileQueue : Prop :=
  ∀ (w : Wid) (s : State) (f : FTile) (wh : Whorl) (p : Path) (s1 : State),
  (∀ (c : Instr) (k : TileKind) (m : BitVec 16), (c, k) ∈ [(Instr.tileMac w f, TileKind.mac), (Instr.tileSeq w f, TileKind.seq),
      (Instr.tileSt w f, TileKind.st), (Instr.tileL w f, TileKind.fold)] → (k = .fold → sn2Mode s w = true) →
    guardAll f.gn f.gp = true → maskFieldOk f.ms f.mask = true → legalTile k f = true →
    Issues s w false (tileWord ⟨(match k with | .mac => 0x28 | .seq => 0x29 | .fold => 0x2A | .st => 0x2B | .zero => 0x2C), 0x00⟩ f)
      ([f.a, f.b, f.c].flatMap (fun r => if isU r then regKeys 1 r else []) ++ maskKeys f.ms f.mask) wh p s1 →
    memberMask wh f.ms f.mask = m → ArrivesAt wh p m → arrivedLanes wh p m = m → acquireOpen s1 w p = false →
    (wh.tileQ.length < 2 →
      (∀ e, e = tileEntry s1 wh k f p.pc m →
        rangesNeed s1 (whorlCtx s1 wh) (entryRanges k f e.a.toNat e.b.toNat e.c.toNat) = none ∧
          rangeFault s1 (whorlCtx s1 wh) w.core m (entryRanges k f e.a.toNat e.b.toNat e.c.toNat) = none) →
      ∃ t, exec c s = .next t ∧
        ClosesJump s1 t w p { mergeArrived wh p m with tileQ := wh.tileQ ++ [tileEntry s1 wh k f p.pc m] }) ∧
    (2 ≤ wh.tileQ.length → ∃ t wh', exec c s = .next t ∧ whorlOf t w = some wh' ∧ wh' = { wh with colls := wh'.colls } ∧
      OnlyWhorl s1 t w)) ∧
  (guardOk f.gn f.gp = true → legalTile .zero f = true → Issues s w false (tileWord ⟨0x2C, 0x00⟩ f) [] wh p s1 →
    (wh.guard f.gn f.gp (lowLane p) = false → ∃ t, exec (.tileZero w f) s = .next t ∧ ClosesNext s1 t w p wh) ∧
    (wh.guard f.gn f.gp (lowLane p) = true → wh.tileQ.length < 2 → ∃ t, exec (.tileZero w f) s = .next t ∧
      ClosesNext s1 t w p { wh with tileQ := wh.tileQ ++ [tileEntry s1 wh .zero f p.pc p.lanes] }) ∧
    (wh.guard f.gn f.gp (lowLane p) = true → 2 ≤ wh.tileQ.length → exec (.tileZero w f) s = .next s))

/-- R108, R112, R114, R116, R117, R124, R131, R133, R140, R143: the TILE slot takes the next ready queue head and carries it out: what
the instruction leaves in the tiles and the store stands afterwards, or its fault is the context's; a clear, a pass, a store and a
folded tile leave what their rules say. A waiting request asks port B for a step; a filler pass changes no tile. -/
def Obligations.TheTileSlotCarriesOutQueueHeads : Prop :=
  ∀ (s : State) (core : Nat),
  (∀ (slot : Nat) (wh : Whorl) (o : TileOp) (rest : List TileOp), coreRuns s core = true →
    ((s.core core).yield && remoteWaits s core) = false → nextTileSlot s core = some slot →
    whorlOf s ⟨core, slot⟩ = some wh → wh.tileQ = o :: rest → wh.paths ≠ [] →
    rangesNeed s (whorlCtx s wh) (tileRanges s (whorlCtx s wh) core o) = none → (∀ r, r ∈ s.mem.reqs → r.phase ≠ .blocked) →
    (o.kind = .zero → ∃ t wh', exec (.tileStart core) s = .next t ∧ whorlOf t ⟨core, slot⟩ = some wh' ∧ wh'.tileQ = rest ∧
      (t.core core).tileRr = slot ∧ (∀ e, e < 16 → wh'.cell o.f.acc.toNat e = 0) ∧
      (∀ k e, k ≠ o.f.acc.toNat → e < 16 → wh'.cell k e = wh.cell k e) ∧ wh'.v = wh.v ∧ wh'.u = wh.u ∧ wh'.paths = wh.paths) ∧
    (∀ (c : Core) (a b : List Byte) (s0 s2 s3 : State), c = s.core core → o.kind = .mac →
      tileFits wh o.f.ty.toNat o.f.acc.toNat = true →
      s0 = count (count (s.setCore core { c with tileRr := slot }) (coreBank core 0) 0 1) (coreBank core 0) 6 1 →
      tileRead s0 (whorlCtx s0 wh) core o.a.toNat (tileSize o.f.ty.toNat) = .ok a s2 →
      tileRead s2 (whorlCtx s0 wh) core o.b.toNat (tileSize o.f.ty.toNat) = .ok b s3 →
      ∃ t wh', exec (.tileStart core) s = .next t ∧ whorlOf t ⟨core, slot⟩ = some wh' ∧ wh'.tileQ = rest ∧
        (∀ i j, i < 4 → j < 4 → wh'.cell o.f.acc.toNat (4 * i + j) =
          (if tileInt o.f.ty.toNat then intCell o.f.ty.toNat a b i j (wh.cell o.f.acc.toNat (4 * i + j))
           else floatCell o.f.ty.toNat a b (o.c.toNat / 2 ^ (8 * i) % 256) (o.c.toNat / 2 ^ (32 + 8 * j) % 256) i j
             (wh.cell o.f.acc.toNat (4 * i + j))) % 2 ^ 32) ∧
        (∀ k e, k ≠ o.f.acc.toNat → e < 16 → wh'.cell k e = wh.cell k e)) ∧
    (∀ s0 : State, s0 = count (count (s.setCore core { s.core core with tileRr := slot }) (coreBank core 0) 0 1) (coreBank core 0) 6 1 →
      (∀ s2 wh1, startTile s0 ⟨core, slot⟩ wh o = .ok s2 wh1 → wh1.paths = wh.paths → NoBlocked s2 →
        ∃ t, exec (.tileStart core) s = .next t ∧ t = putWhorl s2 ⟨core, slot⟩ (queueFreed s2.now { wh1 with tileQ := rest })) ∧
      (∀ i s2 ctx, startTile s0 ⟨core, slot⟩ wh o = .fault i s2 → RunsFor s2 ⟨core, slot⟩ ctx →
        ∃ t, exec (.tileStart core) s = .next t ∧ FaultedWith t ⟨core, slot⟩ ctx i.code) ∧
      (∀ pa n s2, o.kind = .st → tileFits wh o.f.ty.toNat o.f.acc.toNat = true → o.f.rnd ≠ 2#2 → n = 2 * tileBits o.f.ty.toNat →
        o.f.ty ≠ 12#4 → o.a.toNat % 32 = 0 → Memory.wf s0.mem.store = true →
        tilePlaces s0 (whorlCtx s0 wh) core .write o.a.toNat n = (some [(pa, n)], false, s2) →
        ∃ t wh', exec (.tileStart core) s = .next t ∧ whorlOf t ⟨core, slot⟩ = some wh' ∧ wh'.tileQ = rest ∧ wh'.acc = wh.acc ∧
          HoldsAt t.mem.store pa (leBytes n (packElems (tileBits o.f.ty.toNat) ((List.range 16).map fun e =>
            storeElem o.f.ty.toNat o.f.rnd.toNat (o.f.sat == 1#1) (wh.accInt.getLsbD o.f.acc.toNat)
              ((genOf s0 core (whorlCtx s0 wh)).toNat / 2 ^ 48) (wh.cell o.f.acc.toNat e)))) ∧
          SameOutside s0.mem.store t.mem.store pa n) ∧
      (∀ s2 wh1, o.kind = .fold → startTile s0 ⟨core, slot⟩ wh o = .ok s2 wh1 → ∃ t wh', exec (.tileStart core) s = .next t ∧
        whorlOf t ⟨core, slot⟩ = some wh' ∧ ∀ k e, k < 4 → e < 16 → wh'.cell k e = 0))) ∧
  (remoteWaits s core = true → ∃ t, exec (.portBYield core) s = .next t ∧ (t.core core).yield = true ∧ t.mem = s.mem ∧
    (t.core core).slots = (s.core core).slots ∧ ∀ c, c ≠ core → t.core c = s.core c) ∧
  (coreUsed s core = true → (s.dom (coreDomain s core)).st = .on → fillerAllowed s (coreDomain s core) = true → nextTileSlot s core = none →
    ∃ t, exec (.fillerPass core) s = .next t ∧ t = { s with obs := t.obs } ∧
      (t.bank (coreBank core 0)).run = fadd (s.bank (coreBank core 0)).run 4 1 (2 ^ 48 - 1))

/-- R102, R266, R300, Table 10.21: CHUTE.RD and CHUTE.RDS take the oldest word with its tag, or a tag of 0; CHUTE.LVL counts the
words and takes none; a chute of another partition faults with code 3. -/
def Obligations.ChuteReadsTakeTheOldestWord : Prop :=
  ∀ (w : Wid) (s : State) (f : FReg) (wh : Whorl) (p : Path) (s1 : State) (a : Nat), guardAll f.gn f.gp = true →
  a = wh.uget (regNo f.a) →
  (usedOnly f { UseReg.none with d := true, a := true, c := true } = true → vOk f.d = true → uOk f.a = true → uOk f.c = true →
    Issues s w true (regWord ⟨0x30, 0x00⟩ f) (regKeys 1 f.d ++ [regKey f.a, regKey f.c]) wh p s1 → acquireOpen s1 w p = false →
    (∀ x rest, chuteNamed s1 (whorlCtx s1 wh) a = some a → (s1.chute a).words = x :: rest → (s1.chute a).flush = [] →
      ∃ t wh' bad, exec (.chuteRd w f) s = .next t ∧ whorlOf t w = some wh' ∧ (x.pois = true → bad = true) ∧
        (∀ l, l ∈ lanesOf p.lanes → wh'.vget l (regNo f.d) = if bad then 0 else leNat ((x.bytes.drop (4 * l)).take 4) % 2 ^ 32) ∧
        wh'.uget (regNo f.c) = chuteTag { x with pois := bad } rest.length % 2 ^ 64 ∧ (t.chute a).words = rest ∧ SameBytes s1 t ∧
        (t.core w.core).l1 = []) ∧
    (chuteNamed s1 (whorlCtx s1 wh) a = some a → (s1.chute a).words = [] → ∃ t wh', exec (.chuteRd w f) s = .next t ∧
      whorlOf t w = some wh' ∧ (∀ l, l ∈ lanesOf p.lanes → wh'.vget l (regNo f.d) = 0) ∧ wh'.uget (regNo f.c) = 0 ∧
      (t.chute a).words = []) ∧
    (∀ ctx, chuteNamed s1 (whorlCtx s1 wh) a = none → RunsFor s w ctx → ∃ t, exec (.chuteRd w f) s = .next t ∧
      FaultedWith t w ctx 3)) ∧
  (∀ x rest va pa s2, usedOnly f { UseReg.none with d := true, a := true, b := true } = true → uOk f.d = true → uOk f.a = true →
    uOk f.b = true → Issues s w true (regWord ⟨0x30, 0x01⟩ f) [regKey f.d, regKey f.a, regKey f.b] wh p s1 →
    acquireOpen s1 w p = false → chuteNamed s1 (whorlCtx s1 wh) a = some a →
    va = wh.uget (regNo f.b) →
    resolve s1 (.core w.core w.slot) (whorlCtx s1 wh) .write 1 64 [(lowLane p, va)] = .ok [(lowLane p, va, pa)] s2 →
    ownStore w.core pa = true → tileTouches s2 (whorlCtx s1 wh) w.core wh pa 64 = false → ownHeld s2 w.core pa 64 = false →
    (s1.chute a).words = x :: rest → (s1.chute a).flush = [] → x.bytes.length = 64 →
    Memory.wf s1.mem.store = true →
    ∃ t wh' bad, exec (.chuteRds w f) s = .next t ∧ whorlOf t w = some wh' ∧ (x.pois = true → bad = true) ∧
      wh'.uget (regNo f.d) = chuteTag { x with pois := bad } rest.length % 2 ^ 64 ∧
      (t.chute a).words = rest ∧ (∀ i, i < 64 → mget t.mem.store (pa + i) = if bad then 0#8 else x.bytes.getD i 0#8) ∧
      ∀ b, b < pa ∨ pa + 64 ≤ b → mget t.mem.store b = mget s1.mem.store b) ∧
  (usedOnly f { UseReg.none with d := true, a := true } = true → uOk f.d = true → uOk f.a = true →
    Issues s w true (regWord ⟨0x30, 0x02⟩ f) [regKey f.d, regKey f.a] wh p s1 → chuteNamed s1 (whorlCtx s1 wh) a = some a →
    ∃ t wh', exec (.chuteLvl w f) s = .next t ∧ whorlOf t w = some wh' ∧ OnlyWhorl s1 t w ∧
      wh'.uget (regNo f.d) = (s1.chute a).words.length % 2 ^ 64)

/-- R103, R104, R171, R179: KERF drops a sapwood line without write-back; PIN and UNPIN answer their status and set or drop the pin. -/
def Obligations.KerfDropsLinesAndPinAnswersItsStatus : Prop :=
  ∀ (w : Wid) (s : State) (f : FReg) (wh : Whorl) (p : Path) (s1 : State), guardAll f.gn f.gp = true → uOk f.a = true →
  (usedOnly f { UseReg.none with a := true, b := true } = true → uOk f.b = true →
    Issues s w true (regWord ⟨0x31, 0x00⟩ f) [regKey f.a, regKey f.b] wh p s1 →
    (wh.uget (regNo f.b) = 0 → ∃ t, exec (.kerf w f) s = .next t ∧ ClosesNext s1 t w p wh) ∧
    (∀ va pa s2 e, va = wh.uget (regNo f.a) → va % 1024 = 0 → wh.uget (regNo f.b) = 1024 → rangeBusy s1 w va 1024 = false →
      pagesNeed s1 (whorlCtx s1 wh) va 1024 = none → translate s1 (whorlCtx s1 wh) .write va 1024 = (.ok pa, s2) → regionOf pa = .dram → pa % 1024 = 0 →
      s2.line? (pa / 1024) = some e → missOf s2 (pa / 1024) = none → e.extOwned = false → e.pres &&& 0xF00#12 = 0#12 →
      e.ovf = false → e.pin = none → Memory.wf s2.mem.llc = true →
      ∃ t, exec (.kerf w f) s = .next t ∧ t.line? (pa / 1024) = none ∧ (∀ b, mget t.mem.dram b = mget s1.mem.dram b) ∧
        ∀ b, mget t.mem.llc b = if pa ≤ b ∧ b < pa + 1024 then 0#8 else mget s1.mem.llc b)) ∧
  (∀ va pa s2 g fn, usedOnly f { UseReg.none with d := true, a := true } = true → uOk f.d = true →
    Issues s w true (regWord ⟨0x32, fn⟩ f) [regKey f.d, regKey f.a] wh p s1 → va = wh.uget (regNo f.a) →
    translateAsk s1 (.core w.core w.slot) (whorlCtx s1 wh) .read va 1 = (.ok pa, s2) → ctxFn s2 (whorlCtx s2 wh) = some g →
    (∀ c, (c, fn) ∈ [(Instr.pin w f, 0x00#7), (Instr.unpin w f, 0x01#7)] →
      (regionOf pa ≠ .dram → ∃ t wh', exec c s = .next t ∧ whorlOf t w = some wh' ∧ wh'.uget (regNo f.d) = 2) ∧
      (regionOf pa = .dram → odNat s2 (0x6010 + g) 5 = 0 →
        ∃ t wh', exec c s = .next t ∧ whorlOf t w = some wh' ∧ wh'.uget (regNo f.d) = 3)) ∧
    (∀ e, regionOf pa = .dram → odNat s2 (0x6010 + g) 5 ≠ 0 → s2.line? (pa / 1024) = some e → e.ovf = false →
      (fn = 0x00#7 → e.pin = none → pinnedIn s2 (homeSlice s2 (pa / 1024)) (lineSet (pa / 1024)) < 12 →
        ∃ t wh', exec (.pin w f) s = .next t ∧ whorlOf t w = some wh' ∧ wh'.uget (regNo f.d) = 0 ∧
          t.line? (pa / 1024) = some { e with pin := some g }) ∧
      (fn = 0x00#7 → e.pin = none → 12 ≤ pinnedIn s2 (homeSlice s2 (pa / 1024)) (lineSet (pa / 1024)) →
        ∃ t wh', exec (.pin w f) s = .next t ∧ whorlOf t w = some wh' ∧ wh'.uget (regNo f.d) = 1 ∧
          t.line? (pa / 1024) = some e) ∧
      (fn = 0x01#7 → ∃ t wh' e', exec (.unpin w f) s = .next t ∧ whorlOf t w = some wh' ∧ wh'.uget (regNo f.d) = 0 ∧
        t.line? (pa / 1024) = some e' ∧ e'.pin = none)))

/-! ## Requests at their homes, core stores, and replies -/

/-- R95, R165, R225, R229, Table 08.4: at a line that its home has at hand, a read answers its lane with the bytes the home serves, a
store puts its bytes there, and a cache hint is over. A near copy that a load leaves may cost another line its way.
R167, R168, R224: the first held request of a slice that can go joins the open transaction of its line; a fill brings the sectors
asked for and, when nothing else is outstanding, closes the transaction. The model's choice (log 12): the command's masks say what the
code found in the blocks; here, nothing. -/
def Obligations.HomesServeReadsWritesAndHeldRequests : Prop :=
  (∀ (s : State) (id : Nat) (r : Req) (l : LaneAcc) (e : Line), LeavesNow s id r l → HomeReady s (l.pa / 1024) e →
  (∀ (c : Instr) (k : ReqKind) (core slot : Nat) (sg : Bool), r.agent = .core core slot →
    (c, k) ∈ [(Instr.rd id, .load sg), (Instr.nr id, .read), (Instr.ds id, .dread)] → r.kind = k →
    Memory.wf s.mem.dram = true → Memory.wf s.mem.llc = true →
    ∃ t, exec c s = .next t ∧ LaneGot t id (homeRead s l.pa l.data.length).1 ∧
      (∀ a, a / 1024 = l.pa / 1024 ∨ k = .read ∨ k = .dread ∨ t.line? (a / 1024) ≠ none ∨ s.line? (a / 1024) = none →
        homeByte t a = homeByte s a) ∧
      (k = .dread → ∃ e', t.line? (l.pa / 1024) = some e' ∧ e'.pres.getLsbD 11 = true)) ∧
  (∀ near core slot, r.agent = .core core slot → r.kind = .pref near →
    ∃ t, exec (.rd id) s = .next t ∧ findReq t id = none ∧ ∀ a, a / 1024 = l.pa / 1024 → homeByte t a = homeByte s a) ∧
  (r.kind = .store → mirrorOf s (l.pa / 1024) = none → Memory.wf s.mem.dram = true → Memory.wf s.mem.llc = true →
    ∃ t, exec (.wr id) s = .next t ∧ LanesDone t id ∧
      (∀ i, i < l.data.length → homeByte t (l.pa + i) = l.data.getD i 0#8) ∧
      (∀ a, a < l.pa ∨ l.pa + l.data.length ≤ a → homeByte t a = homeByte s a) ∧
      ∃ e', t.line? (l.pa / 1024) = some e' ∧ e'.st = .m ∧ e'.pres = 0#12 ∧ e'.hsec = 0#4)) ∧
  (∀ (s : State),
  (∀ slice r m, leaveCarved s slice = s →
    s.mem.held.find? (fun r => reqSlice s r == slice && lineAnswers s (r.pa / 1024) != .asleep) = some r →
    missOf s (r.pa / 1024) = some m → m.waiters.length < 32 → lineAnswers s (r.pa / 1024) = .up →
    turnOf s r.agent r.seq r.pa = true →
    ∃ t m', exec (.heldRequestRelease slice) s = .next t ∧ t.mem.held = s.mem.held.erase r ∧
      missOf t (r.pa / 1024) = some m' ∧ m'.waiters = m.waiters ++ [r] ∧ m'.snoops = m.snoops ∧ SameBytes s t) ∧
  (∀ line m e, missOf s line = some m → m.need ≠ 0#4 → slicesWork s (sliceBay m.slice) = true →
    bayUp s (chanBay (servingSlot s line).1) = true → s.line? line = some e → e.ovf = false → e.sec.length = 4 →
    ∃ t e', exec (.missFill line 0#16 0#16) s = .next t ∧
      (m.snoops ≠ [] → t.mem.dram = s.mem.dram ∧ t.mem.llc = s.mem.llc ∧ t.line? line = some e' ∧ (∀ i, i < 4 → m.need.getLsbD i = true → e'.secAt i ≠ .invalid) ∧
        ∃ m', missOf t line = some m' ∧ m'.need = 0#4 ∧ m'.snoops = m.snoops ∧ m'.waiters = m.waiters) ∧
      (m.snoops = [] → m.waiters = [] → m.evict = false → missOf t line = none)))

/-- R29, R153, R155, R156: a request to a core's store reads or writes its bytes there, after a gated domain has been powered; a
granule that passes on is zeroed. -/
def Obligations.StoresAreReachedAndGranulesZeroed : Prop :=
  ∀ (s : State),
  (∀ (id : Nat) (r : Req) (l : LaneAcc) (core : Nat), findReq s id = some r → r.phase = .sent → r.lanes = [l] → l.done = false →
    regionOf l.pa = .store → core = storeCore l.pa → inTurn s r l.pa = true → placeAnswers s l.pa = .up →
    ((s.dom (coreDomain s core)).st = .gated → ∃ t, exec (.remoteStoreAccess id) s = .next t ∧
      (t.dom (coreDomain s core)).st = .waking ∧ t.mem = s.mem) ∧
    ((s.dom (coreDomain s core)).st = .on → granuleOpen s r l.pa = true → r.kind = .store → Memory.wf s.mem.store = true →
      ∃ t, exec (.remoteStoreAccess id) s = .next t ∧ LanesDone t id ∧ HoldsAt t.mem.store l.pa l.data ∧
        SameOutside s.mem.store t.mem.store l.pa l.data.length ∧ t.mem.dram = s.mem.dram ∧ t.mem.llc = s.mem.llc) ∧
    (∀ sg, (s.dom (coreDomain s core)).st = .on → granuleOpen s r l.pa = true → r.kind = .load sg →
      ∃ t, exec (.remoteStoreAccess id) s = .next t ∧ LaneGot t id (mread s.mem.store l.pa l.data.length) ∧
        t.mem.store = s.mem.store)) ∧
  (∀ core granule, (s.core core).zeroing.contains granule = true → Memory.wf s.mem.store = true →
    ∃ t, exec (.granuleZero core granule) s = .next t ∧ (t.core core).zeroing.contains granule = false ∧
      (∀ i, i < 4096 → mget t.mem.store (storeAddr core (4096 * granule) + i) = 0#8) ∧
      SameOutside s.mem.store t.mem.store (storeAddr core (4096 * granule)) 4096)

/-- R83, R93, R248, R322: a load's reply writes its destination and nothing else; an acknowledged store is over; GO puts a store's
bytes into host memory and sends them. -/
def Obligations.RepliesAcknowledgementsAndGoEndRequests : Prop :=
  ∀ (s : State) (id : Nat) (r : Req), findReq s id = some r → NoBlocked s →
  (∀ core slot sg l b wh, r.agent = .core core slot → r.kind = .load sg → r.phase = .served → r.back = false → r.merged = none →
    r.lanes = [l] → l.done = true → l.err = false → l.pois = false → l.got = some b → b.length = 4 → isU r.dest = false →
    whorlOf s ⟨core, slot⟩ = some wh →
    ∃ t wh', exec (.loadReturn id []) s = .next t ∧ whorlOf t ⟨core, slot⟩ = some wh' ∧
      wh'.vget l.lane (regNo r.dest) = leNat b ∧ SameBut wh wh' [l.lane] (regKeys 1 r.dest) [] ∧ findReq t id = none ∧
      SameBytes s t) ∧
  (r.kind = .store → r.phase = .served → r.wt = false → (∀ l, l ∈ r.lanes → l.done = true) → (∃ c n, r.agent = .core c n) →
    ∃ t, exec (.writeAcknowledged id) s = .next t ∧ findReq t id = none ∧ SameBytes s t) ∧
  (∀ l, r.kind = .store → r.phase = .sent → r.lanes = [l] → l.done = false → regionOf l.pa = .host →
    inTurn s r l.pa = true → outsideOpen s (reqFn s r) hostBase = true → Memory.wf s.mem.host = true →
    ∃ t, exec (.go id) s = .next t ∧ LanesDone t id ∧ HoldsAt t.mem.host l.pa l.data ∧
      SameOutside s.mem.host t.mem.host l.pa l.data.length ∧
      .d2h (homePort s (reqFn s r)) (l.pa - hostBase) l.data ∈ t.out)

/-- R221, R225, R229, R233, R323, Table 08.5: a host read, invalidation or write of a page shared with its port acts at the home and
is answered; of any other page, or above the usable size, it gets poison or a bare completion and changes no byte. -/
def Obligations.HostRequestsActOnPagesSharedWithTheirPort : Prop :=
  ∀ (s : State) (port : Nat) (addr : W48) (tag pa : Nat), cxlWorks s port = true → pa = addr.toNat / 64 * 64 →
  (∃ t, exec (.memclnevct port addr) s = .next t ∧ .cmp port pa ∈ t.out ∧ SameBytes s t) ∧
  (usableSize s ≤ pa ∨ inBiasTable s pa 64 = true ∨ pageBias s (pa / 65536) ≠ port + 1 ∨ pageClosing s (pa / 65536) = true →
    (∀ m, ∃ t, exec (.memrd port m addr tag) s = .next t ∧ .memData port tag (List.replicate 64 0#8) true ∈ t.out ∧ SameBytes s t) ∧
    (∃ t, exec (.meminv port addr tag) s = .next t ∧ .cmp port pa ∈ t.out ∧ SameBytes s t) ∧
    (∀ data p, recallData s (pa / 1024) = false → ∃ t, exec (.memwr port addr data p) s = .next t ∧ .cmp port pa ∈ t.out ∧
      SameBytes s t)) ∧
  (∀ e, pa < usableSize s → pageBias s (pa / 65536) = port + 1 → pageClosing s (pa / 65536) = false →
    inBiasTable s pa 64 = false → HomeReady s (pa / 1024) e → turnOf s (.cxl port) s.mem.nextReq pa = true →
    mirrorOf s (pa / 1024) = none → Memory.wf s.mem.dram = true → Memory.wf s.mem.llc = true →
    (∃ t e' p, exec (.memrd port .s addr tag) s = .next t ∧ .memData port tag (homeRead s pa 64).1 p ∈ t.out ∧
      t.line? (pa / 1024) = some e' ∧ e'.st = .f ∧ e'.pres.getLsbD 8 = true ∧ ∀ a, homeByte t a = homeByte s a) ∧
    (∃ t e', exec (.meminv port addr tag) s = .next t ∧ .cmp port pa ∈ t.out ∧ t.line? (pa / 1024) = some e' ∧ e'.st = .m ∧
      e'.own = 8 ∧ ∀ a, homeByte t a = homeByte s a) ∧
    (∀ data p, data.length = 64 → writeRefused s pa 64 = false → ∃ t, exec (.memwr port addr data p) s = .next t ∧ .cmp port pa ∈ t.out ∧
      (∀ i, i < 64 → homeByte t (pa + i) = data.getD i 0#8) ∧ ∀ a, a < pa ∨ pa + 64 ≤ a → homeByte t a = homeByte s a))

/-- R93, R221, R226, R228, R322: an answer of the host comes off the transaction that waits for it, and closes one that waits for
nothing else; a host that does not answer in time leaves its sector poisoned; a snoop is answered from the DMA cache. -/
def Obligations.HostAnswersAndSnoopsActOnOneLine : Prop :=
  ∀ (s : State) (port line sector : Nat),
  (∀ (m : MissReg) (c : Instr) (kept : Bool), hostSnoop s line sector = some m →
    (c = Instr.birspi port line sector ∧ kept = false ∧ portOpen s port = true) ∨
      (c = Instr.birsps port line sector ∧ kept = true ∧ portOpen s port = true ∧ m.inval = false) ∨
      (c = Instr.birspe port line sector ∧ kept = false ∧ portOpen s port = true ∧ m.inval = false) ∨
      (c = Instr.biTimeout line sector ∧ kept = false ∧ m.since + 1000 * odNat s 0x5060 5 ≤ s.now) →
    ∃ t, exec c s = .next t ∧
      ((m.snoops.filter fun x => !(x.1 == 8 && x.2 == sector)) ≠ [] → SameBytes s t ∧ ∃ m', missOf t line = some m' ∧
        (m'.snoops = m.snoops.filter fun x => !(x.1 == 8 && x.2 == sector)) ∧ m'.kept = (m.kept || kept) ∧
        m'.waiters = m.waiters ∧ (∀ e, s.line? line = some e → e.ovf = false → sector < 4 →
          (c = Instr.birspi port line sector → ∃ e', t.line? line = some e' ∧ e'.hsec.getLsbD sector = false) ∧
          (c = Instr.biTimeout line sector → mirrorOf s line = none → homePoisoned t line sector = true))) ∧
      ((m.snoops.filter fun x => !(x.1 == 8 && x.2 == sector)) = [] → m.need = 0#4 → m.waiters = [] → m.evict = false →
        missOf t line = none)) ∧
  (portOpen s port = true → exec (.biconflict port line) s = .next (s.emit (.biConflictAck port line))) ∧
  (∀ (haddr : Nat) (h : HostLine), s.mem.hostLines.find? (fun h => h.addr == hostBase + haddr / 64 * 64 && h.port == port) = some h →
    (∀ (c : Instr) (keep : List HostLine), (c, keep) ∈ [(Instr.snpdata port haddr, [{ h with own := false, dirty := false }]),
        (Instr.snpinv port haddr, []), (Instr.snpcur port haddr, [h])] →
      ∃ t, exec c s = .next t ∧ (t.mem.hostLines = keep ++ s.mem.hostLines.filter fun x => x.addr != hostBase + haddr / 64 * 64) ∧
        .snpRsp port haddr (if h.dirty then mread s.mem.host (hostBase + haddr / 64 * 64) 64 else []) ∈ t.out ∧ SameBytes s t))

/-- R231, R234, R235, R236, Tables 08.6 and 08.7: a flip to shared gives the page to the port; a flip to device-owned starts and waits
for the host; the oldest complete flip leaves its record, and a read takes the oldest record. -/
def Obligations.BiasFlipsChangePagesAndLeaveRecords : Prop :=
  ∀ (s : State) (f port : Nat) (word : W64) (page tag : Nat), page = bits word.toNat 47 16 → tag = bits word.toNat 15 8 →
  (∀ c n, ((c = Instr.biasFlipShared f port word ∧ word.toNat % 4 ≠ 0) ∨ (c = Instr.biasFlipDeviceOwned f port word ∧ word.toNat % 4 = 0)) →
    flipRefusal s f port page (bits word.toNat 1 0) (bits word.toNat 63 48 != 0 || bits word.toNat 7 3 != 0) = some n →
    word.toNat.testBit 2 = false → (s.fn f).biasQ.length < 32 →
    ∃ t, exec c s = .next t ∧ (t.fn f).biasQ = (s.fn f).biasQ ++ [biasRecord page tag n] ∧ t.mem = s.mem) ∧
  (flipRefusal s f port page (bits word.toNat 1 0) (bits word.toNat 63 48 != 0 || bits word.toNat 7 3 != 0) = none →
    (word.toNat % 4 = 1 → pageBias s page ≠ port + 1 → ∃ t, exec (.biasFlipShared f port word) s = .next t ∧
      pageBias t page = port + 1 ∧ (t.fn f).flips.length = (s.fn f).flips.length + 1 ∧
      ∀ q, q ≠ page → pageBias t q = pageBias s q) ∧
    (word.toNat % 4 = 0 → pageBias s page ≠ 0 → ∃ t, exec (.biasFlipDeviceOwned f port word) s = .next t ∧
      page ∈ (t.fn f).closing ∧ (t.fn f).flips.length = (s.fn f).flips.length + 1 ∧ t.mem.bias = s.mem.bias)) ∧
  (∀ x, (s.fn f).closing = [] → (s.fn f).flips.find? (fun l => l.toShared != 0 || pageFree s l.page) = some x → x.irq = false →
    (s.fn f).biasQ.length < 32 → ∃ t, exec (.biasFlipDone f) s = .next t ∧ (t.fn f).flips = (s.fn f).flips.erase x ∧
      (t.fn f).biasQ = (s.fn f).biasQ ++ [biasRecord x.page x.tag.toNat x.result] ∧
      (x.toShared = 0 → fgetD t.mem.bias x.page 0 = 0)) ∧
  ((s.fn f).biasQ = [] → exec (.biasDone f) s = .next (s.emit (.barData (homePort s f) f (leBytes 8 0) 0))) ∧
  (∀ w rest, (s.fn f).biasQ = w :: rest → ∃ t, exec (.biasDone f) s = .next t ∧ (t.fn f).biasQ = rest ∧
    .barData (homePort s f) f (leBytes 8 w.toNat) 0 ∈ t.out)

/-- R198, R200, R202, R206, R209, R215, R240: a scrub that finds no error changes nothing; a channel is mapped out; a line moves; a
stripe buffer ends after 2 µs; a mirror takes its range's bytes; a periodic pass writes the dirty sectors of a half back. -/
def Obligations.DramUpkeepActsAsItsRulesSay : Prop :=
  ∀ (s : State),
  (∀ channel row, s.mem.mappedOut.contains channel = false → bayUp s (chanBay channel) = true →
    ∃ t, exec (.patrolScrub channel row 0#16 0#16 0#4) s = .next t ∧ t.mem = s.mem) ∧
  (∀ (p : Port) (ch : W16), portWorks s p = true → romOnly s = false →
    (ch.toNat ≤ 1023 → s.mem.mappedOut.contains ch.toNat = false → ∃ t, exec (.channelMapOut p ch) s = .next t ∧
      ch.toNat ∈ t.mem.mappedOut ∧ .scribe p none [] ∈ t.out) ∧
    (1023 < ch.toNat ∨ s.mem.mappedOut.contains ch.toNat = true →
      exec (.channelMapOut p ch) s = .next (s.emit (.abort p 0x02000065#32 [])))) ∧
  (∀ line c, unmoved s line = true → s.line? line = none →
      c = Instr.lineMove line true ∨ (c = Instr.rebuild line true ∧ odNat s 0x5040 3 = 1) →
    ∃ t, exec c s = .next t ∧ unmoved t line = false ∧ SameBytes s t ∧
      (mirrorOf s line = none → ∀ i, i < 4 → s.mem.dramPois.contains (4 * line + i) = true →
        t.mem.dramPois.contains (4 * line + i) = true)) ∧
  (∀ channel row, ∃ t, exec (.stripeBufferClose channel row) s = .next t ∧ SameBytes s t ∧
    ∀ b, b ∈ t.mem.stripes ↔ b ∈ s.mem.stripes ∧ (b.channel = channel → b.row = row → s.now < b.opened + 2000)) ∧
  (∀ e r, r = rangeRec s e → rangeSize r ≠ 0 → r.testBit 1 = true → r.testBit 2 = true → r.testBit 3 = false → r.testBit 32 = false →
    (∀ a, rangeBase r ≤ a → a < rangeBase r + rangeSize r → mirrorOf s (a / 1024) = none) →
    Memory.wf s.mem.mirror = true →
    ∃ t, exec (.mirrorCopy e) s = .next t ∧ (rangeRec t e).testBit 32 = true ∧ t.mem.dram = s.mem.dram ∧
      (∀ a, rangeBase r ≤ a → a < rangeBase r + rangeSize r → mget t.mem.mirror a = homeByte s a) ∧
      SameOutside s.mem.mirror t.mem.mirror (rangeBase r) (rangeSize r)) ∧
  (∀ half, odNat s 0x5070 1 ≠ 0 → bayUp s (half / 2) = true → fgetD s.mem.passAt half 0 + 1000000 * odNat s 0x5070 1 ≤ s.now →
    (∀ line e, s.line? line = some e → e.hasDirty = true → mirrorOf s line = none) → Memory.wf s.mem.dram = true → Memory.wf s.mem.llc = true →
    ∃ t, exec (.dirtyWritebackPeriod half) s = .next t ∧ (∀ a, homeByte t a = homeByte s a) ∧
      ∀ line e, s.line? line = some e → e.slice / 16 = half → missOf s line = none →
        ∃ e', t.line? line = some e' ∧ ∀ i, i < 4 → e'.secAt i ≠ .dirty)

/-! ## ADMIN, queues, commands, placement -/

/-- R267, R268, R269, R270, Tables 10.2, 10.3 and 10.7: the operations on contexts and queues act as their table says, one at a time;
one of a thing that is not the function's own ends with its code and changes nothing. -/
def Obligations.AdminOperationsActOnContextsAndQueues : Prop :=
  ∀ (s : State) (f : Nat) (arg : BitVec 12) (addr : BitVec 42) (hw : List Host.Cell), girtRuns s = true →
  ((s.fn f).adminDone = false →
    (∀ c, c ∈ [Instr.ctxCreate f arg addr 0#6 hw, .ctxDestroy f arg addr 0#6, .qCreate f arg addr 0#6 hw, .qDestroy f arg addr 0#6,
        .qPause f arg addr 0#6, .qStart f arg addr 0#6, .qResume f arg addr 0#6, .graphDestroy f arg addr 0#6] →
      exec c s = .next (odAdd s 0x7000 5 1)) ∧
    (adminBusy s f = false → ∃ t, exec (.adminOperationDone f) s = .next t ∧ (t.fn f).adminDone = true ∧ t.mem = s.mem)) ∧
  ((s.fn f).adminDone = true →
    (∀ n s1 id, (s.mod.op = .service ∨ s.mod.op = .test) → arg = 0#12 → readDesc s f (64 * addr.toNat) hw = .bits n s1 →
      ctxDescOk n = true → lowestFree s1.ctxs 4096 = some id → (s1.ctxs.filter fun e => e.2.f == f).length < odNat s1 (0x6010 + f) 14 →
      ∃ t, exec (.ctxCreate f arg addr 0#6 hw) s = .next t ∧ fget t.ctxs id = some (newCtx f n) ∧ AdminResult t f 0 id) ∧
    (∀ n s1 q, arg = 0#12 → readDesc s f (64 * addr.toNat) hw = .bits n s1 → queueDescOk s1 f n = true →
      ownCtx s1 f (bits n 319 304) = true → lowestFree s1.queues 4096 = some q →
      (s1.queues.filter fun e => e.2.f == f).length < odNat s1 (0x6010 + f) 4 →
      ∃ t, exec (.qCreate f arg addr 0#6 hw) s = .next t ∧ fget t.queues q = some (newQueue f n) ∧ AdminResult t f 0 q) ∧
    (addr = 0#42 → ownCtx s f arg.toNat = true → ∃ t, exec (.ctxDestroy f arg addr 0#6) s = .next t ∧ AdminResult t f 0 0 ∧
      (fget t.ctxs arg.toNat = none ∨ ∃ c, fget t.ctxs arg.toNat = some c ∧ c.dying = true)) ∧
    (addr = 0#42 → ownQueue s f arg.toNat = false →
      ∀ c, c ∈ [Instr.qDestroy f arg addr 0#6, .qPause f arg addr 0#6, .qStart f arg addr 0#6, .qResume f arg addr 0#6] →
        ∃ t, exec c s = .next t ∧ AdminResult t f 0x02000091 0 ∧ t.queues = s.queues ∧ t.mem = s.mem) ∧
    (∀ x, addr = 0#42 → ownQueue s f arg.toNat = true → fget s.queues arg.toNat = some x →
      (x.busy = false → ∃ t, exec (.qDestroy f arg addr 0#6) s = .next t ∧ AdminResult t f 0 0 ∧ fget t.queues arg.toNat = none) ∧
      (x.busy = true → ∃ t, exec (.qDestroy f arg addr 0#6) s = .next t ∧ AdminResult t f 0x03000094 0 ∧ t.queues = s.queues) ∧
      (x.st = .ready → ∃ t, exec (.qPause f arg addr 0#6) s = .next t ∧ AdminResult t f 0 0 ∧
        fget t.queues arg.toNat = some { x with st := .paused, paused := true }) ∧
      (x.st = .paused → x.ahead = [] → ∃ t, exec (.qStart f arg addr 0#6) s = .next t ∧ AdminResult t f 0 0 ∧
        fget t.queues arg.toNat = some { x with st := .ready, paused := false }) ∧
      (x.st = .stalled → x.shadow = [] → x.ahead = [] → ∃ t, exec (.qResume f arg addr 0#6) s = .next t ∧ AdminResult t f 0 0 ∧
        fget t.queues arg.toNat = some { x with st := if x.paused then .paused else .ready, drainDue := false })))

/-- R289, R290, R291, R293, R294, R295: a graph is created as version 1, patched to a new current version, destroyed when no launch
runs it; a launch pins the current version. -/
def Obligations.GraphsAreVersionedAndLaunched : Prop :=
  ∀ (s : State),
  (∀ (f : Nat) (arg : BitVec 12) (addr : BitVec 42) (hw : List Host.Cell) (n : Nat) (s1 s2 : State) (nb : List Byte),
    girtRuns s = true → (s.fn f).adminDone = true → readDesc s f (64 * addr.toNat) hw = .bits n s1 → graphDescOk n = true →
    ownCtx s1 f (bits n 255 240) = true → graphPlacesAsk s1 (bits n 255 240) n = none → graphPlacesOk s1 (bits n 255 240) n = true → bits n 222 204 = 0 →
    framerRead s1 (bits n 255 240) f (bits n 511 448) (64 * bits n 239 223) [] = .data nb false 0 s2 →
    graphOk (bits n 239 223) (splitRecords (bits n 239 223) 64 nb) [] = true →
    (∀ g, arg = 0#12 → lowestFree s1.graphs 1024 = some g → ∃ t, exec (.graphCreate f arg addr 0#6 hw) s = .next t ∧
      AdminResult t f 0 g ∧ fget t.graphs g = some { f := f, ctx := bits n 255 240, versions := [newVersion n 1], last := 1 }) ∧
    (∀ g, ownGraph s f arg.toNat = true → fget s1.graphs arg.toNat = some g → g.ctx = bits n 255 240 →
      (g.versions.filter fun v => v.pins != 0).length < 4 → ∃ t g', exec (.graphPatch f arg addr 0#6 hw) s = .next t ∧
        AdminResult t f 0 (g.last + 1) ∧ fget t.graphs arg.toNat = some g' ∧ g'.last = g.last + 1 ∧
        (∀ v, v ∈ g'.versions → v.current = true → v = newVersion n (g.last + 1)) ∧ newVersion n (g.last + 1) ∈ g'.versions)) ∧
  (∀ (f : Nat) (arg : BitVec 12), girtRuns s = true → (s.fn f).adminDone = true → ownGraph s f arg.toNat = true →
    ((s.launches.any fun l => l.2.graph == arg.toNat) = false → ∃ t, exec (.graphDestroy f arg 0#42 0#6) s = .next t ∧
      AdminResult t f 0 0 ∧ fget t.graphs arg.toNat = none) ∧
    ((s.launches.any fun l => l.2.graph == arg.toNat) = true → ∃ t, exec (.graphDestroy f arg 0#42 0#6) s = .next t ∧
      AdminResult t f 0x03000098 0 ∧ t.graphs = s.graphs)) ∧
  (∀ (q id : Nat) (e : Exec) (s1 : State) (x : Queue), Takes s q 6 (fun _ => true) e s1 x → e.launch = 0 →
    lowestFree s.launches 256 = some id → lowestFree s1.launches 256 = some id →
    (fget s1.graphs (recGet e.rec_ 73 64) = none → ∃ t, exec (.graphLaunch q) s = .next t ∧ Finishes t q 2) ∧
    (∀ g v, fget s1.graphs (recGet e.rec_ 73 64) = some g → g.versions.find? (·.current) = some v → g.ctx = x.ctx → 0 < v.nn →
      pagesAsk s1 x.ctx (recGet e.rec_ 511 448) (4 * v.nn) = none →
      inDramOrScratch s1 x.ctx .write (recGet e.rec_ 511 448) (4 * v.nn) = true →
      ∃ t l, exec (.graphLaunch q) s = .next t ∧ fget t.launches id = some l ∧ l.q = q ∧ l.graph = recGet e.rec_ 73 64 ∧
        l.version = v.num ∧ l.state = BitVec.ofNat 64 (recGet e.rec_ 511 448) ∧ l.done = [])) ∧
  (∀ (q : Nat) (e : Exec) (x : Queue) (r : CRec) (s2 : State), settledExec s (.queue q) = some e → fget s.queues q = some x →
    framerRuns s = true → x.st ≠ .faulted → scopeMet s (.queue q) e = true → x.ahead = [] →
    r = cmdRecord e (recordBits e q 0 e.metTime.toNat) →
    putRecord (framerRecord s (.queue q) e 1 e.metTime.toNat) q r = (true, s2) →
    ∃ t y, exec (.completionRecordWrite (.queue q)) s = .next t ∧ fget t.queues q = some y ∧ y.exec = none)

/-- R264, R271, R272, R275, R276, R278, Table 10.7: TAIL and CHEAD move forward within the ring, others are discarded and counted; a
slot is fetched in order; a stalled queue resumes. -/
def Obligations.QueuesAdvanceByTheirDoorbells : Prop :=
  ∀ (s : State) (q : Nat) (x : Queue), fget s.queues q = some x →
  (∀ (f p : Nat) (value : W64) (hw : List Host.Cell), bellAllowed s (.host f p) x = true →
    (value.toNat < 2 ^ 32 → (BitVec.ofNat 32 value.toNat - x.head).toNat ≤ 2 ^ x.rlog →
      ∃ t, exec (.tail (.host f p) q value hw) s = .next t ∧ fget t.queues q = some
          { x with tail := BitVec.ofNat 32 value.toNat, bells := stillOpen (learnHost s hw) x.bells ++ portWrites (learnHost s hw) p }) ∧
    (2 ^ 32 ≤ value.toNat ∨ 2 ^ x.rlog < (BitVec.ofNat 32 value.toNat - x.head).toNat →
      ∃ t, exec (.tail (.host f p) q value hw) s = .next t ∧ fget t.queues q = some x ∧
        odNat t 0x7000 4 = min (2 ^ 64 - 1) (odNat s 0x7000 4 + 1)) ∧
    (value.toNat < 2 ^ 32 → (BitVec.ofNat 32 value.toNat - x.chead).toNat ≤ (BitVec.ofNat 32 x.written - x.chead).toNat →
      x.st ≠ .cqWait → ∃ t, exec (.chead (.host f p) q value) s = .next t ∧
        fget t.queues q = some { x with chead := BitVec.ofNat 32 value.toNat }) ∧
    (2 ^ 32 ≤ value.toNat ∨ (BitVec.ofNat 32 x.written - x.chead).toNat < (BitVec.ofNat 32 value.toNat - x.chead).toNat →
      ∃ t, exec (.chead (.host f p) q value) s = .next t ∧ fget t.queues q = some x ∧
        odNat t 0x7000 4 = min (2 ^ 64 - 1) (odNat s 0x7000 4 + 1))) ∧
  (∀ (hw : List Host.Cell) (va : Nat) (b : List Byte) (p : Bool) (bad : Nat) (s1 : State), framerRuns s = true → x.st = .ready → deviceOpen s x.bells = false →
    x.indLeft = 0 → x.ahead = [] → nextRecord x = some va → framerRead s x.ctx x.f va 64 hw = .data b p bad s1 →
    ((readRecord b p bad true).bits.getLsbD 17 = false ∧ recordOk (readRecord b p bad true) false = true) ∨
      ((readRecord b p bad true).bits.getLsbD 17 = true ∧ (readRecord b p bad true).bad = 0 ∧
        indirectOk (readRecord b p bad true).bits.toNat = true) →
    ∃ t, exec (.slotFetch q hw) s = .next t ∧ fget t.queues q = some (takeSlot x (readRecord b p bad true))) ∧
  (∀ (p : Port) (w : W16), w.toNat = q → portWorks s p = true → romOnly s = false →
    (x.st = .stalled → x.shadow = [] → x.ahead = [] → ∃ t, exec (.queueResumeWrite p w) s = .next t ∧
      fget t.queues q = some { x with st := if x.paused then .paused else .ready, drainDue := false } ∧ .scribe p none [] ∈ t.out) ∧
    (x.st ≠ .stalled → exec (.queueResumeWrite p w) s = .next (s.emit (.abort p 0x03000094#32 []))))

/-- R281, R282, R441, Tables 10.10 to 10.12: COPY and FILL send their bytes and finish; WAIT finishes when its condition is met, goes
on waiting, or times out with status 4; SIGNAL sends its word; a range without the right ends a command with status 2. -/
def Obligations.MoveWaitAndSignalCommandsFinish : Prop :=
  ∀ (s : State) (q : Nat) (e : Exec) (s1 : State) (x : Queue),
  (∀ (hw : List Host.Cell) (pa : Nat) (b : List Byte) (s2 s3 : State) (op len : Nat), Takes s q 2 (fun _ => true) e s1 x →
    e.progress = 0 → op = recGet e.rec_ 71 69 → len = recGet e.rec_ 383 344 → 0 < len → (∀ c, (s1.chute c).waitSrc = none) →
    (op = 0 → copyChute s1 x (recGet e.rec_ 447 384) = none) →
    dmaDest s1 x (if op = 0 then .write else .acw) (recGet e.rec_ 447 384) = .at_ pa s2 → regionOf pa ≠ .peer →
    len ≤ destRoom s1 (.at_ pa s2) (recGet e.rec_ 447 384) → len ≤ sourceRoom (.at_ pa s2) (recGet e.rec_ 511 448) →
    readSectors x e hw (keepsPoison pa) 20 s2 (recGet e.rec_ 511 448) len = .data b false 0 s3 → b.length = len → s3.reqIds = true →
    ∃ t, exec (.copy (.queue q) hw) s = .next t ∧ Finishes t q 0 ∧
      WriteInFlight t (if op = 0 then .fwrite else .acw (op - 1)) pa b) ∧
  (∀ (pa : Nat) (s2 : State) (len : Nat), Takes s q 3 (fun _ => true) e s1 x → e.progress = 0 → len = recGet e.rec_ 383 344 → 0 < len →
    dmaDest s1 x .write (recGet e.rec_ 511 448) = .at_ pa s2 → regionOf pa ≠ .peer →
    len ≤ destRoom s1 (.at_ pa s2) (recGet e.rec_ 511 448) → s2.reqIds = true →
    ∃ t, exec (.fill (.queue q)) s = .next t ∧ Finishes t q 0 ∧ WriteInFlight t .fwrite pa
      ((List.range len).map fun i => (leBytes 8 (recGet e.rec_ 447 384)).getD ((recGet e.rec_ 511 448 + i) % 8) 0#8)) ∧
  (∀ (hw : List Host.Cell) (pa : Nat) (b : List Byte) (p : Bool) (s2 s3 : State), Takes s q 4 (fun _ => true) e s1 x →
    translateAsk s1 .framer x.ctx .read (recGet e.rec_ 511 448) 8 = (.ok pa, s2) → isPolled pa = false →
    engineRead s2 .framer x.ctx x.f true pa 8 (recCls e.rec_) hw = .data b p 0 s3 →
    ∃ t, exec (.waitCommand (.queue q) hw) s = .next t ∧ (p = true → Finishes t q 3) ∧
      (p = false → condMet (recGet e.rec_ 65 64) (leNat b) (recGet e.rec_ 447 384) = true → Finishes t q 0) ∧
      (p = false → condMet (recGet e.rec_ 65 64) (leNat b) (recGet e.rec_ 447 384) = false → StillWaits t q)) ∧
  (fget s.queues q = some x → x.exec = some e → e.status = 0 → e.typ = 4 → e.phase = .waiting → e.deadline ≠ 0 → e.deadline ≤ s.now →
    framerRuns s = true → ∃ t, exec (.waitCommandTimeout (.queue q)) s = .next t ∧ Finishes t q 4) ∧
  (∀ (op : Nat), Takes s q 5 (fun _ => true) e s1 x → op = recGet e.rec_ 65 64 →
    (∀ s2, dmaDest s1 x (if op = 0 then .write else .atomic) (recGet e.rec_ 511 448) = .refused s2 →
      ∃ t, exec (.signal (.queue q)) s = .next t ∧ Finishes t q 2) ∧
    (∀ pa s2, dmaDest s1 x (if op = 0 then .write else .atomic) (recGet e.rec_ 511 448) = .at_ pa s2 → regionOf pa ≠ .peer → s2.reqIds = true →
      ∃ t, exec (.signal (.queue q)) s = .next t ∧ Finishes t q 0 ∧
        WriteInFlight t (if op = 0 then .fwrite else if op = 1 then .atom 0 else .atom 4) pa (leBytes 8 (recGet e.rec_ 447 384))))

/-- R284, R297, R298, R299, R301: CHUTE_CTL starts, stops and flushes a chute of its partition; PIN, UNPIN and KERF act on their lines;
a producer's bytes are packed into words, and a waiting producer goes on when there is space. -/
def Obligations.ChuteAndPinCommandsAct : Prop :=
  ∀ (s : State),
  (∀ (q : Nat) (e : Exec) (s1 : State) (x : Queue) (c op : Nat) (i : Instr),
    (i, op) ∈ [(Instr.flush (some (.queue q)) c, 0), (Instr.stop (.queue q), 1), (Instr.start (.queue q), 2)] →
    Takes s q 9 (fun r => recGet r 73 72 == op) e s1 x → e.phase ≠ .flushWait → c = recGet e.rec_ 71 64 →
    (odNat s1 (chuteOd c) 1 ≠ x.f → ∃ t, exec i s = .next t ∧ Finishes t q 2 ∧ t.chute c = s1.chute c) ∧
    (odNat s1 (chuteOd c) 1 = x.f → (s1.chute c).inPkt = false → ∃ t, exec i s = .next t ∧ Finishes t q 0 ∧
      (op = 0 → (t.chute c).words = [] ∧ (t.chute c).flush = []) ∧ (op = 1 → (t.chute c).stopped = true) ∧
      (op = 2 → (t.chute c).stopped = false))) ∧
  (∀ c, c < 256 → ((s.chute c).inPkt = false → ∃ t, exec (.flush none c) s = .next t ∧ (t.chute c).words = []) ∧
    ((s.chute c).inPkt = true → ∃ t, exec (.flush none c) s = .next t ∧ (t.chute c).words = (s.chute c).words ∧
      (t.chute c).flush = (s.chute c).flush ++ [none])) ∧
  (∀ (q : Nat) (e : Exec) (s1 s2 s3 : State) (x : Queue) (un : Bool) (i : Instr) (pa k : Nat),
    (i, un) ∈ [(Instr.pinCommand (.queue q), false), (Instr.unpinCommand (.queue q), true)] →
    Takes s q 10 (fun r => r.bits.getLsbD 64 == un) e s1 x → e.progress = 0 → e.aux = 0 →
    rangeLines (recGet e.rec_ 511 448) (recGet e.rec_ 447 408) = 1 →
    translateAsk s1 .framer x.ctx .read (recGet e.rec_ 511 448 / 1024 * 1024) 1 = (.ok pa, s2) → regionOf pa = .dram →
    pinAt s2 x.f pa un = .status k s3 → fget s3.queues q = some x →
    ∃ t, exec i s = .next t ∧ Finishes t q (if k = 0 then 0 else 6) ∧ t.mem.lines = s3.mem.lines) ∧
  (∀ (q : Nat) (e : Exec) (s1 : State) (x : Queue), Takes s q 11 (fun _ => true) e s1 x →
    pagesAsk s1 x.ctx (recGet e.rec_ 511 448) (recGet e.rec_ 447 408) = none →
    (kerfBusy s1 x.ctx (recGet e.rec_ 511 448) (recGet e.rec_ 447 408) = true →
      ∃ t, exec (.kerfCommand (.queue q)) s = .next t ∧ StillWaits t q) ∧
    (kerfBusy s1 x.ctx (recGet e.rec_ 511 448) (recGet e.rec_ 447 408) = false →
      ∃ t, exec (.kerfCommand (.queue q)) s = .next t ∧ Finishes t q 0 ∧ ∀ a, mget t.mem.dram a = mget s1.mem.dram a) ∧
    (∀ pa s2 l, recGet e.rec_ 511 448 % 1024 = 0 → recGet e.rec_ 447 408 = 1024 →
      translate s1 x.ctx .write (recGet e.rec_ 511 448) 1024 = (.ok pa, s2) → regionOf pa = .dram → s2.mem.held = [] →
      missOf s2 (pa / 1024) = none → s2.line? (pa / 1024) = some l → l.ovf = false → l.hasExt = false → l.pres &&& 0xF00#12 = 0#12 →
      l.pin = none → kerfBusy s1 x.ctx (recGet e.rec_ 511 448) (recGet e.rec_ 447 408) = false →
      ∃ t, exec (.kerfCommand (.queue q)) s = .next t ∧ t.line? (pa / 1024) = none)) ∧
  (∀ (src : ChuteSrc) (c n : Nat) (data : W64) (x : Chute), x = s.chute c → hostBehind s src = false →
    (fromProducer s c src = false → exec (.word src c data) s = .next (odAdd s (chuteOd c) 7 1) ∧
      exec (.lastn src c n data) s = .next (odAdd s (chuteOd c) 7 1)) ∧
    (fromProducer s c src = true → x.waitSrc = none → x.dropping = false → x.stopped = false →
      ((openPacket x).cur.length + 8 < 64 → ∃ t, exec (.word src c data) s = .next t ∧ (t.chute c).words = x.words ∧
        (t.chute c).inPkt = true ∧ (t.chute c).cur = (openPacket x).cur ++ leBytes 8 data.toNat) ∧
      ((openPacket x).cur.length + 8 = 64 → x.words.length + 2 ≤ chuteSlots → ∃ t w, exec (.word src c data) s = .next t ∧
        (t.chute c).words = x.words ++ [w] ∧ (t.chute c).inPkt = true ∧ w.last = false ∧ w.pois = false ∧
        w.bytes = (openPacket x).cur ++ leBytes 8 data.toNat) ∧
      (n ≤ 8 → x.flush = [] → x.words.length + 2 ≤ chuteSlots → ∃ t w b, exec (.lastn src c n data) s = .next t ∧
        (t.chute c).words = x.words ++ [w] ∧ (t.chute c).inPkt = false ∧ w.last = true ∧ w.pois = false ∧
        b = (openPacket x).cur ++ (leBytes 8 data.toNat).take n ∧ w.bytes = b ++ List.replicate (64 - b.length) 0#8)) ∧
    (x.waitSrc = some src → x.flush = [] → x.words.length + 2 ≤ chuteSlots → ∃ t w, exec (.producerResume c) s = .next t ∧
      (t.chute c).words = x.words ++ [w] ∧ (t.chute c).waitSrc = none ∧ w.last = x.waitLast ∧
      w.bytes = x.waitWord ++ List.replicate (64 - x.waitWord.length) 0#8))

/-- R280, R283, R302, R304, R305, R308: a KERNEL waits for placement; a wave takes cores or wakes a bay; a job is opened, held when
its whole claim is free, and closed with its energy. -/
def Obligations.KernelsArePlacedAndJobsClaimGroves : Prop :=
  ∀ (s : State),
  (∀ (q : Nat) (e : Exec) (s1 : State) (x : Queue), Takes s q 1 (fun _ => true) e s1 x → e.phase = .running →
    ∃ t k, exec (.kernel (.queue q)) s = .next t ∧ StillWaits t q ∧ t.nextKern = s1.nextKern + 1 ∧
      fget t.kerns s1.nextKern = some k ∧ k.st = .waiting ∧ k.ctx = x.ctx ∧ k.part = x.f ∧ k.cls = x.cls ∧ k.next = 0 ∧
      k.pc = BitVec.ofNat 64 (recGet e.rec_ 511 448) ∧ k.args = BitVec.ofNat 64 (recGet e.rec_ 447 384) ∧
      k.nwh = recGet e.rec_ 275 256 + 1 ∧ k.tpw = recGet e.rec_ 291 288 + 1) ∧
  (∀ (kernel : Nat) (k : Kern), fget s.kerns kernel = some k → ctxRuns s k.ctx = true → kernReady k = true → k.st ≠ .saved →
    k.pending = none →
    (eligibleCores s k .running ≠ [] → othersFirst s kernel k = false → ∃ t k', exec (.placeWave kernel) s = .next t ∧
      fget t.kerns kernel = some k' ∧ k.next ≤ k'.next ∧ (k'.next ≠ k.next → k'.st = .resident) ∧
      fget t.rr (classKey k.part k.cls) = some k.q) ∧
    (∀ c rest b, eligibleCores s k .running = [] → eligibleCores s k .asleep = c :: rest → b = (groveEnt s (coreGrove c)).bay →
      (s.bay b).st = .asleep → ∃ t, exec (.placeWave kernel) s = .next t ∧ (t.bay b).waking = true ∧ t.mem = s.mem)) ∧
  (∀ (q : Nat) (e : Exec) (s1 : State) (x : Queue), Takes s q 7 (fun _ => true) e s1 x → e.phase = .running →
    (x.job ≠ none ∨ (jobMode s1 x.f = true ∧ (s1.fn x.f).groves.length < recGet e.rec_ 410 401) →
      ∃ t, exec (.jobBegin q) s = .next t ∧ Finishes t q 1) ∧
    (x.job = none → jobMode s1 x.f = false → ∃ t y j, exec (.jobBegin q) s = .next t ∧ Finishes t q 0 ∧
      fget t.queues q = some y ∧ y.job = some j ∧ j.held = true ∧ j.num = BitVec.ofNat 32 (recGet e.rec_ 447 416)) ∧
    (x.job = none → jobMode s1 x.f = true → recGet e.rec_ 410 401 ≤ (s1.fn x.f).groves.length →
      ∃ t y j, exec (.jobBegin q) s = .next t ∧ StillWaits t q ∧ fget t.queues q = some y ∧ y.job = some j ∧ j.held = false)) ∧
  (∀ (q : Nat) (x : Queue) (e : Exec) (j : Job) (claim : List Nat), fget s.queues q = some x → x.exec = some e → x.job = some j →
    e.typ = 7 → e.phase = .waiting → e.status = 0 → j.held = false → ctxRuns s x.ctx = true →
    claim = chooseClaim s q x j.claim j.want (recGet e.rec_ 511 448) (recGet e.rec_ 415 411) → claim.length = j.want →
    (∀ g, g ∈ claim → groveBusy s g = false) → ∃ t y, exec (.claimHeld q) s = .next t ∧ Finishes t q 0 ∧ fget t.queues q = some y ∧
      y.job = some { j with claim := claim, held := true }) ∧
  (∀ (q : Nat) (e : Exec) (s1 : State) (x : Queue), Takes s q 8 (fun _ => true) e s1 x →
    (x.job = none → ∃ t, exec (.jobEnd q) s = .next t ∧ Finishes t q 1) ∧
    (∀ j, x.job = some j → ∃ t, exec (.jobEnd q) s = .next t ∧
      Finishes t q (if j.num.toNat = recGet e.rec_ 447 416 then 0 else 1)))

/-- R75, R77, R287, R311, R312, R313, R320: a kernel is saved, restored and resumed with its whorls; one past its time limit faults its
context with code 7; a stopped context's end leaves it stopped; energy is attributed. -/
def Obligations.KernelsSwitchAndContextsStop : Prop :=
  ∀ (s : State) (kernel : Nat) (k : Kern), fget s.kerns kernel = some k →
  (mayEvict s kernel k = true → betterVictim s kernel k = false → ∃ t, exec (.switchOut kernel) s = .next t ∧
    fget t.kerns kernel = some { k with st := .saving, ranFor := k.ranFor + (s.now - k.placedAt) } ∧ t.mem = s.mem) ∧
  (k.st = .saving → ctxLive s k.ctx = true → (∀ w, w ∈ kernWhorls s kernel → whorlBusy s w.1 w.2.1 = false) →
    ∃ t k', exec (.switchOutDone kernel) s = .next t ∧ fget t.kerns kernel = some k' ∧ k'.st = .saved ∧
      (k'.saved = (kernWhorls s kernel).map fun w => { core := w.1, slot := w.2.1, whorl := w.2.2 }) ∧ kernWhorls t kernel = []) ∧
  (∀ w, k.st = .saved → k.saved = [w] → ctxRuns s k.ctx = true → restoreFits s k = true → fget (s.core w.core).slots w.slot = none →
    ((liveKerns s k.part).any fun o => o.1 != kernel && kernReady o.2 && comesBefore s o (kernel, k) &&
      (o.2.st == .saved || !(eligibleCores s o.2 .running).isEmpty)) = false →
    ∃ t k', exec (.restore kernel) s = .next t ∧ fget t.kerns kernel = some k' ∧ k'.st = .restoring ∧
      whorlOf t ⟨w.core, w.slot⟩ = some w.whorl) ∧
  (k.st = .restoring → ctxRuns s k.ctx = true → ∃ t, exec (.restoreDone kernel) s = .next t ∧
    fget t.kerns kernel = some { k with st := .resident, placedAt := s.now }) ∧
  (∀ lim w rest c, kernLimit s k = some lim → kernWhorls s kernel = w :: rest → k.st = .resident → k.pending = none →
    s.felled = false → lim ≤ k.ranFor + (s.now - k.placedAt) → fget s.ctxs k.ctx = some c → c.fault = 0 →
    ∃ t c', exec (.kernelTimeLimit kernel) s = .next t ∧ fget t.ctxs k.ctx = some c' ∧ c'.fault = 7) ∧
  (∀ ctx c, fget s.ctxs ctx = some c → c.stopping = true → ctxQuiet s ctx = true →
    (c.dying = false → ∃ t c', exec (.contextStopDone ctx) s = .next t ∧ fget t.ctxs ctx = some c' ∧ c'.stopping = false ∧
      c'.fault = c.fault) ∧
    (c.dying = true → ∃ t, exec (.contextStopDone ctx) s = .next t ∧ fget t.ctxs ctx = none)) ∧
  (∀ facts : EnergyFacts, ∃ t, exec (.energyAttribution facts) s = .next t ∧ t.power.steps = [] ∧
    (facts.domains = [] → facts.dmaShare = [] → odNat t 0x3000 10 = min (2 ^ 64 - 1) (odNat s 0x3000 10 + facts.input)))

/-! ## The host link -/

/-- R324, R326, R327, R328, R330, R331, R339, R341: BAR4 reads and writes reach what the function may reach, and are refused otherwise;
the registers of the control page and the mailbox take their writes. -/
def Obligations.HostAccessesReachTheirFunctionsPages : Prop :=
  ∀ (s : State),
  (∀ (port f off len : Nat), linkWorks s port = true →
    (inView s port f = false ∨ ideOk s port = false → exec (.bar4Read port f off len) s = .next (s.emit (.barData port f [] 3)) ∧
      ∀ data, exec (.bar4Write port f off data) s = .next s) ∧
    (inView s port f = true → ideOk s port = true →
      (barReach s f false off len = false → exec (.bar4Read port f off len) s = .next (s.emit (.barData port f [] 2))) ∧
      (∀ s1 b pois s2, barReach s f false off len = true → askPieces s port f (barPieces len off len) = (false, s1) →
        takePieces s1 port f (barPieces len off len) = (b, pois, 0, s2) →
        exec (.bar4Read port f off len) s = .next (s2.emit (.barData port f b (if pois then 1 else 0)))) ∧
      (∀ data, barReach s f true off data.length = false →
        exec (.bar4Write port f off data) s = .next (odAdd s 0x6001 8 1)) ∧
      (∀ data, barReach s f true off data.length = true → regionOf off ≠ .chute → s.reqIds = true → 0 < data.length →
        data.length ≤ pieceRoom off →
        ∃ t, exec (.bar4Write port f off data) s = .next t ∧ WriteInFlight t .fwrite off data ∧ SameBytes s t))) ∧
  ((s.dom 77).st = .on →
    (∀ f value, f < 64 → ∃ t, exec (.errCause f value) s = .next t ∧
      (∀ i, i < 5 → (t.fn f).err.getLsbD i = ((s.fn f).err.getLsbD i && !value.getLsbD i)) ∧ t.mem = s.mem) ∧
    (∀ value bytes n, n = bits value.toNat 10 0 →
      (s.mbox.busy = false → s.mbox.resp = false → 1 ≤ n → n ≤ 1536 → ∃ t, exec (.hSend value bytes) s = .next t ∧
        t.mbox = { s.mbox with busy := true, req := sliceD bytes 0 n 0#8 }) ∧
      (s.mbox.busy = true ∨ s.mbox.resp = true ∨ n = 0 ∨ 1536 < n → ∃ t, exec (.hSend value bytes) s = .next t ∧
        t.mbox = s.mbox ∧ (t.fn 0).err.getLsbD 4 = true)) ∧
    (∀ value : W64, value.getLsbD 0 = true → ∃ t, exec (.hAck value) s = .next t ∧ t.mbox = { s.mbox with resp := false }) ∧
    (∀ f (word : W64) ctx, f < 64 → ctx = bits word.toNat 62 51 →
      ((s.fn f).tlbDone = false → ∃ t, exec (.tlbInv f word) s = .next t ∧ (t.fn f).err.getLsbD 3 = true ∧ t.mem.tlb = s.mem.tlb) ∧
      ((s.fn f).tlbDone = true → ctxFn s ctx ≠ some f → ∃ t, exec (.tlbInv f word) s = .next t ∧ (t.fn f).tlbDone = false ∧
        (t.fn f).tlbCode = 0x02000091#32 ∧ t.mem = s.mem) ∧
      ((s.fn f).tlbDone = true → ctxFn s ctx = some f → ∃ t, exec (.tlbInv f word) s = .next t ∧ (t.fn f).tlbDone = false ∧
        (t.fn f).tlbCode = 0#32 ∧ (∀ e, e ∈ t.mem.tlb → e ∈ s.mem.tlb) ∧
        ∀ e, e ∈ t.mem.tlb → word.getLsbD 63 = true ∨ 45 < bits word.toNat 5 0 ∨
          servesSpan e (bits word.toNat 50 6) (2 ^ bits word.toNat 5 0) = true → e.1 ≠ ctx))) ∧
  (∀ f, (s.fn f).tlbDone = false → (s.mem.reqs.any (usesOld (s.fn f).tlbCtx (s.fn f).tlbUpTo)) = false →
    ∃ t, exec (.tlbInvDone f) s = .next t ∧ (t.fn f).tlbDone = true ∧ t.mem = s.mem)

/-- R325, R334, R335, R338, R340: a function-level reset leaves no pins, registers or records of its function; VFs appear in a view and
leave it; translations granted by the host are held until it takes them back. -/
def Obligations.FunctionsResetAndAppearInViews : Prop :=
  ∀ (s : State),
  (∀ f, f < 64 → (s.dom 77).st = .on → (∀ c, c ∈ s.ctxs → c.2.f ≠ f) → sharedPages s f = [] →
    ∃ t, exec (.functionLevelReset f) s = .next t ∧ (t.fn f).err = 0#5 ∧ (t.fn f).biasQ = [] ∧ (t.fn f).hvec = 0 ∧
      (t.fn f).bvec = 0 ∧ (t.fn f).fvec = 0 ∧ (∀ line e, t.line? line = some e → e.pin ≠ some f) ∧
      (t.dict.resets.head?.map (·.cause)) = some 6) ∧
  (∀ port keep, port < 2 → (s.port port).vfEnable = true → keep ≤ (s.port port).numVfs → (s.port port).numVfs ≤ 63 →
    (∀ i, 1 ≤ i → i ≤ 63 → homePort s i ≠ port) → ∃ t, exec (.vfDisable port keep) s = .next t ∧ (t.port port).numVfs = keep ∧
      (t.port port).vfEnable = decide (keep ≠ 0)) ∧
  (∀ port n, port < 2 → (s.dom 77).st = .on → ∃ t, exec (.vfEnable port 0 true 1 n) s = .next t ∧ (t.port port).vfEnable = true ∧
    (t.port port).numVfs = max (s.port port).numVfs (min 63 n) ∧ (t.fn 0).busMaster = (s.fn 0).busMaster.set port true) ∧
  (∀ port pasid page pages r w x, linkWorks s port = true →
    (∃ t, exec (.atsTranslationCompletion port pasid page r w x) s = .next t ∧ (port, pasid, page, r, w, x) ∈ t.mem.ats ∧
      ∀ a, a ∈ t.mem.ats → a = (port, pasid, page, r, w, x) ∨ (a ∈ s.mem.ats ∧ ¬(a.1 = port ∧ a.2.1 = pasid ∧ a.2.2.1 = page))) ∧
    (∃ t, exec (.atsInvalidation port pasid page pages) s = .next t ∧
      (∀ a, a ∈ t.mem.ats ↔ a ∈ s.mem.ats ∧ ¬(a.1 = port ∧ a.2.1 = pasid ∧ page ≤ a.2.2.1 ∧ a.2.2.1 < page + pages)) ∧
      ((s.mem.reqs.any (usesAts s port pasid page pages)) = false → .atsInvDone port ∈ t.out)))

/-- R38, R341, R342, R343, R489, R495, R496: a link goes down, comes back in time, or is reset; a failed integrity check takes it down;
PERST and the reference clock follow their pins. -/
def Obligations.LinksGoDownAndComeBack : Prop :=
  ∀ (s : State) (port : Nat), port < 2 →
  ((s.port port).up = true → ∃ t, exec (.linkDown port) s = .next t ∧ (t.port port).up = false ∧
    (t.port port).lostAt = if liveState s then some s.now else none) ∧
  (mayTrain s port = true → (s.port port).up = false → lossElapsed s port = false → ∃ t, exec (.linkUp port) s = .next t ∧
    (t.port port).up = true ∧ (t.port port).lostAt = none) ∧
  ((s.port port).up = false → lossElapsed s port = true →
    (s.felled = true → ∃ t, exec (.linkLossReset port) s = .next t ∧ (t.port port).resetDue = true ∧ t.mem = s.mem) ∧
    (s.felled = false → (∀ c, c ∈ s.ctxs → homePort s c.2.f ≠ port) → ∃ t, exec (.linkLossReset port) s = .next t ∧
      (t.port port).resetDue = false ∧ (t.port port).lostAt = none ∧ (t.port port).vfEnable = false ∧ (t.port port).numVfs = 0 ∧
      (t.port port).secure = false)) ∧
  (linkWorks s port = true → (∃ t, exec (.hotReset port) s = .next t ∧ (t.port port).up = false) ∧
    (∃ t, exec (.ideIntegrityFailure port) s = .next t ∧ (t.port port).up = false ∧ (t.port port).insecure = true ∧
      (t.port port).secure = false)) ∧
  (s.mod.perstN[port]? = some true → ∃ t, exec (.perstAssert port) s = .next t ∧ t.mod.perstN = s.mod.perstN.set port false ∧
    ((s.dom 77).st = .on → (t.port port).up = false)) ∧
  (∃ t, exec (.perstRelease port) s = .next t ∧ t.mod.perstN = s.mod.perstN.set port true ∧ t.mem = s.mem) ∧
  (∃ t, exec (.referenceClockReturn port) s = .next t ∧ t.mod.refclk = s.mod.refclk.set port true ∧ t.mem = s.mem)

/-! ## Tenons, joints, rafter dies -/

/-- R344, R347, R348, R349, R350, R353, R358: a failing lane is repaired, the tenon narrows, or it is removed; a tenon retrains, and the
third retrain within 1 s removes it; a tenon test runs in TEST only; zeroed lines lose their mark.
R354, R355: a die that passes every step of its admission is admitted, one that fails a step keeps its reason and is powered
down; READMIT starts again. -/
def Obligations.TenonsAndRafterDiesAreRepairedTestedAndAdmitted : Prop :=
  (∀ (s : State),
  (∀ j k lane trained x, x = s.tenon (16 * j + k) → tenonWorks s j k = true → x.width = 0 → x.bad = [] →
    lane < (if j < 8 then 64 else 16) →
    (j < 8 → x.rep < 4 → ∃ t, exec (.laneRepair j k lane trained) s = .next t ∧ (t.tenon (16 * j + k)).rep = x.rep + 1 ∧
      (t.tenon (16 * j + k)).train = true ∧ (t.tenon (16 * j + k)).width = 0 ∧ (t.tenon (16 * j + k)).lane = lane) ∧
    (8 ≤ j ∨ 4 ≤ x.rep → odNat s 0x4410 2 ≠ 1 → ∃ t, exec (.laneRepair j k lane true) s = .next t ∧
      (t.tenon (16 * j + k)).width = (if lane < (if j < 8 then 32 else 8) then 2 else 1) ∧ (t.tenon (16 * j + k)).train = true) ∧
    (8 ≤ j ∨ 4 ≤ x.rep → (∃ u, u ∈ workingTenons s j ∧ u ≠ k) → ∃ t, exec (.laneRepair j k lane false) s = .next t ∧
      (t.tenon (16 * j + k)).width = 3)) ∧
  (∀ j k x, x = s.tenon (16 * j + k) → tenonWorks s j k = true →
    ((recentTimes s x.recent 1000000000 1).length < 3 → ∃ t, exec (.tenonRetrain j k) s = .next t ∧
      (t.tenon (16 * j + k)).train = true ∧ (t.tenon (16 * j + k)).width = x.width ∧
      (t.tenon (16 * j + k)).retr = min 0xFF (x.retr + 1)) ∧
    (3 ≤ (recentTimes s x.recent 1000000000 1).length → (∃ u, u ∈ workingTenons s j ∧ u ≠ k) →
      ∃ t, exec (.tenonRetrain j k) s = .next t ∧ (t.tenon (16 * j + k)).width = 3)) ∧
  (∀ j k, (s.tenon (16 * j + k)).train = true → ∃ t, exec (.tenonRetrainDone j k) s = .next t ∧
    (t.tenon (16 * j + k)).train = false ∧ (t.tenon (16 * j + k)).width = (s.tenon (16 * j + k)).width) ∧
  (∀ p, portWorks s p = true → romOnly s = false →
    (s.mod.op = .test → odNat s 0xB010 2 ≠ 0 → ∃ t, exec (.tenonTestStart p) s = .next t ∧ t.test.running = true ∧
      t.test.joint = odNat s 0xB010 1) ∧
    (s.mod.op ≠ .test → exec (.tenonTestStart p) s = .next (s.emit (.abort p 0x030000D2#32 [])))) ∧
  (∀ errors, s.test.running = true → ∃ t, exec (.tenonTestEnd errors) s = .next t ∧ t.test.running = false ∧
    t.test.errors = sliceD errors 0 (testLanes s.test.joint) 0#16) ∧
  (∀ line, ∃ t, exec (.zeroing line) s = .next t ∧ SameBytes s t ∧
    ∀ l, (∃ r, r ∈ t.mem.zeroMarks ∧ r.1 ≤ l ∧ l < r.2) ↔ (l ≠ line ∧ ∃ r, r ∈ s.mem.zeroMarks ∧ r.1 ≤ l ∧ l < r.2))) ∧
  (∀ (s : State) (n : Nat), n < 2 →
  (∀ facts, (s.die n).result = 0 → (s.dom (78 + n)).st = .on →
    (admitRefusal facts ≠ 0 → ∃ t, exec (.admission n facts) s = .next t ∧ (t.die n).result = 2 ∧
      (t.die n).reason = admitRefusal facts ∧ (t.dom (78 + n)).st = .off) ∧
    (admitRefusal facts = 0 → ∃ t, exec (.admission n facts) s = .next t ∧ (t.die n).result = 1 ∧ (t.die n).reason = 0 ∧
      (t.die n).powered = true ∧ (t.die n).ident = facts.ident ∧ (t.die n).rate = facts.rate)) ∧
  (∀ p, portWorks s p = true → romOnly s = false →
    (s.mod.op = .standby → exec (.readmit p n) s = .next (s.emit (.abort p 0x030000D1#32 []))) ∧
    (s.mod.op ≠ .standby → ∃ t, exec (.readmit p n) s = .next t ∧ (t.die n).result = 0 ∧ (t.die n).powered = false ∧
      ((t.dom (78 + n)).st = .on ↔ odNat s (0x1400 + n) 6 = 1) ∧ .scribe p none [] ∈ t.out)))

/-- R221, R226, R356, Tables 13.6 and 13.7: a packet of an admitted die acts on its line's home or on a request that waits for it, and
is answered; a malformed one is discarded and counted. -/
def Obligations.JointPacketsActAndAreAnswered : Prop :=
  ∀ (s : State) (n : Nat) (h : JHdr) (data : List Byte) (pa line : Nat), n < 2 → (s.die n).powered = true → pa = h.addr.toNat →
  line = pa / 1024 →
  (h.z ≠ 0#21 ∨ 64 < h.len.toNat →
    ∀ c, c ∈ [Instr.rds n h, .rdo n h, .rdn n h, .jointWr n h data, .atm n h data, .jointAcw n h data, .data n h data, .ack n h,
      .nak n h, .srsp n h data, .evn n h data] → exec c s = .next (odAdd s (0x1400 + n) 8 1)) ∧
  (h.z = 0#21 → h.len.toNat ≤ 64 →
    (∀ e len, HomeReady s line e → regionOf pa = .dram → len = jointLen h → 0 < len → pa % 1024 + len ≤ 1024 → pa + len ≤ usableSize s →
      inBiasTable s pa len = false → turnOf s (.rafter n) s.mem.nextReq pa = true → mirrorOf s line = none →
      Memory.wf s.mem.dram = true → Memory.wf s.mem.llc = true →
      (∀ c, c ∈ [Instr.rds n h, .rdo n h, .rdn n h] → ∃ t q e', exec c s = .next t ∧
        .joint n 0x10 h.tag.toNat 0 pa (homeRead s pa len).1 q ∈ t.out ∧ (∀ a, homeByte t a = homeByte s a) ∧
        t.line? line = some e' ∧ (c = Instr.rds n h → e'.pres.getLsbD (9 + n) = true ∧ e'.st = .f) ∧
        (c = Instr.rdo n h → e'.own = 9 + n ∧ e'.st = .m)) ∧
      (∀ c op d cmp, writeRefused s pa d.length = false → h.scope = 0#3 →
        (c = Instr.jointWr n h data ∧ op = 0 ∧ d = jointData h data ∧ cmp = []) ∨
        (c = Instr.jointAcw n h data ∧ h.sub.toNat ≤ 4 ∧ pa % 4 = 0 ∧ op = 32 + h.sub.toNat ∧ d = jointData h data ∧ cmp = []) ∨
        (c = Instr.atm n h data ∧ h.sub.toNat ≤ 10 ∧ h.sub.toNat ≠ 9 ∧ (len = 4 ∨ len = 8) ∧ pa % len = 0 ∧ op = 1 + h.sub.toNat ∧
          d = jointData h data ∧ cmp = []) →
        ∃ t, exec c s = .next t ∧ (∀ i, i < len → homeByte t (pa + i) = (opBytes op (homeRead s pa len).1 d cmp).getD i 0#8) ∧
          (∀ a, a < pa ∨ pa + len ≤ a → homeByte t a = homeByte s a) ∧
          (c = Instr.atm n h data → ∃ q, .joint n 0x10 h.tag.toNat 0 pa (homeRead s pa len).1 q ∈ t.out) ∧
          (c ≠ Instr.atm n h data → .joint n 0x11 h.tag.toNat 0 pa [] false ∈ t.out))) ∧
    (∀ r l i, (∀ x, x ∈ s.mem.reqs → x.id % 1024 = h.tag.toNat → x = r) → r ∈ s.mem.reqs → r.id % 1024 = h.tag.toNat →
      findReq s r.id = some r → r.lanes = [l] → l.sent = true → l.done = false → l.pa = pa → regionOf pa = .peer →
      windowSession s (reqFn s r) pa = some i → sessDie s i = n →
      (∀ c, c ∈ [Instr.data n h data, .ack n h, .nak n h] → ∃ t, exec c s = .next t ∧ LanesDone t r.id) ∧
      (r.kind.reads = true → ∃ t, exec (.data n h data) s = .next t ∧
        LaneGot t r.id (sliceD (jointData h data) 0 l.data.length 0#8))) ∧
    (∀ m, missOf s line = some m → m.snoops.contains (9 + n, 0) = true → h.len = 0#7 → ∃ t, exec (.srsp n h data) s = .next t ∧
      ((m.snoops.filter fun x => !(x.1 == 9 + n && x.2 == 0)) ≠ [] → ∃ m', missOf t line = some m' ∧
        (m'.snoops = m.snoops.filter fun x => !(x.1 == 9 + n && x.2 == 0)) ∧ SameBytes s t) ∧
      ((m.snoops.filter fun x => !(x.1 == 9 + n && x.2 == 0)) = [] → m.need = 0#4 → m.waiters = [] → m.evict = false →
        missOf t line = none)) ∧
    (∀ e, s.line? line = some e → e.ovf = false → h.len = 0#7 →
      (¬(e.st = .m ∧ e.own = 9 + n) → ∃ t, exec (.evn n h data) s = .next t ∧
        t.line? line = some (Line.settled { e with pres := e.pres &&& ~~~(bitN 12 (9 + n)) }) ∧ SameBytes s t) ∧
      (e.st = .m → e.own = 9 + n → e.slice < 128 → ∃ t e', exec (.evn n h data) s = .next t ∧ t.line? line = some e' ∧
        e'.extOwned = false)))


/-! ## Rafter sessions -/

/-- R365, R367, R368, R369, R370, Table 13.12: a frame that is malformed or of no session is refused; a DATA frame in sequence moves RPSN
on, and its operation acts at the home of its bytes, answers a request, or is refused with ERROR. -/
def Obligations.DataFramesAreAppliedInSequence : Prop :=
  ∀ (s : State) (h : RHdr) (data : List Byte),
  (∀ c m, (c, m) ∈ ([(.rafterWrite h data, 31), (.rafterRead h, 31), (.readResp h data, 31), (.atomic h data, 10),
      (.atomicResp h data, 31), (.rafterAcw h data, 4), (.error h, 31), (.rafterAck h, 31), (.rafterNak h, 31), (.hold h, 31),
      (.syn h, 31), (.synack h, 31), (.refuse h, 31), (.close h, 31), (.keepalive h, 31)] : List (Instr × Nat)) →
    (portUp s h = false → exec c s = .next s) ∧
    (portUp s h = true → (frameOk h m = false ∨ frameSession s h = none) → exec c s =
      .next (s.emit (.rafter h.dsess.toNat 4 0 0#32 0#32 0#32 (digestPrefix s) 0 0 3 0 [] false)))) ∧
  (∀ n pa len d, pa = h.addr.toNat → len = h.len.toNat → d = sliceD data 0 len 0#8 → FrameFor s h 31 n → (s.session n).st = 2 →
    s.felled = false → h.psn = (s.session n).rpsn + 1 → (s.session n).inbound = [] → h.scope = 0#2 → s.reqIds = true →
    regionOf pa ≠ .chute →
    (0 < len → inboundAllowed s n .write pa len = true → ∃ t, exec (.rafterWrite h data) s = .next t ∧
      (t.session n).rpsn = h.psn ∧ InboundInFlight t n h .fwrite (splitLanes (len + 1) 0 pa d h.pois) ∧ SameBytes s t) ∧
    (0 < len → inboundAllowed s n .read pa len = true → ∃ t, exec (.rafterRead h) s = .next t ∧
      (t.session n).rpsn = h.psn ∧ InboundInFlight t n h .read (splitLanes (len + 1) 0 pa (blank len) false) ∧ SameBytes s t) ∧
    (∀ size, h.sub.toNat ≤ 10 → size = (if h.sub.toNat = 9 then len / 2 else len) →
      ((size = 4 ∨ size = 8) → pa % size = 0 → inboundAllowed s n .atomic pa size = true → ∃ t, exec (.atomic h data) s = .next t ∧
        (t.session n).rpsn = h.psn ∧ SameBytes s t ∧
        InboundInFlight t n h (.atom h.sub.toNat) [{ writeLane 0 pa pa (d.take size) h.pois with cmp := d.drop size }])) ∧
    (h.sub.toNat ≤ 4 → 0 < len → len % 4 = 0 → pa % 4 = 0 → inboundAllowed s n .acw pa len = true →
      ∃ t, exec (.rafterAcw h data) s = .next t ∧
        (t.session n).rpsn = h.psn ∧ InboundInFlight t n h (.acw h.sub.toNat) (splitLanes (len + 1) 0 pa d h.pois) ∧ SameBytes s t) ∧
    (∀ c, (c = .rafterWrite h data ∧ (len = 0 ∨ inboundAllowed s n .write pa len = false)) ∨
        (c = .rafterRead h ∧ (len = 0 ∨ inboundAllowed s n .read pa len = false)) ∨
        (c = .rafterAcw h data ∧ h.sub.toNat ≤ 4 ∧
          (len = 0 ∨ len % 4 ≠ 0 ∨ pa % 4 ≠ 0 ∨ inboundAllowed s n .acw pa len = false)) ∨
        (c = .atomic h data ∧ h.sub.toNat ≤ 10 ∧ h.sub.toNat ≠ 9 ∧
          ((len ≠ 4 ∧ len ≠ 8) ∨ pa % len ≠ 0 ∨ inboundAllowed s n .atomic pa len = false)) →
      ∃ t tx a, exec c s = .next t ∧ (t.session n).rpsn = h.psn ∧ SameBytes s t ∧
        .rafter n 0 7 tx h.psn a (BitVec.ofNat 64 h.psn.toNat) 0 0 2 h.tag.toNat [] false ∈ t.out) ∧
    (∃ t, exec (.error h) s = .next t ∧ (t.session n).rpsn = h.psn ∧
      odNat t 0x1500 6 = min (2 ^ 64 - 1) (odNat s 0x1500 6 + 1) ∧ SameBytes s t) ∧
    (∀ c, c ∈ [Instr.readResp h data, .atomicResp h data] → ∃ t, exec c s = .next t ∧ (t.session n).rpsn = h.psn ∧ SameBytes s t ∧
      (∀ a, a ∈ (t.session n).asked → a.1 ≠ h.tag.toNat) ∧
      ∀ a r l, (s.session n).asked.find? (fun b => b.1 == h.tag.toNat) = some a → findReq s a.2.1 = some r → r.lanes = [l] →
        l.lane = a.2.2 → regionOf l.pa = .peer → l.sent = true → l.done = false → (s.session n).posted = [] →
        LanesDone t a.2.1 ∧ (r.kind.reads = true → LaneGot t a.2.1 (sliceD d 0 l.data.length 0#8))))

/-- R366, R367, R372, Table 13.13: what each control frame does to its session. -/
def Obligations.ControlFramesMoveTheirSession : Prop :=
  ∀ (s : State) (h : RHdr) (n : Nat), FrameFor s h 31 n →
  (∃ t, exec (.rafterAck h) s = .next t ∧ (t.session n).held = false ∧ (t.session n).st = (s.session n).st) ∧
  ((s.session n).st = 2 →
    (∃ t, exec (.hold h) s = .next t ∧ (t.session n).held = true ∧ (t.session n).st = 2) ∧
    (∃ t, exec (.rafterNak h) s = .next t ∧ (t.session n).st = 2 ∧ ∀ f, f ∈ (s.session n).kept → psnAfter f.psn h.rpsn = true →
      ∃ r a, .rafter n 0 f.op f.psn r a f.addr f.len f.scope f.sub f.tag f.data f.pois ∈ t.out) ∧
    (∃ t, exec (.close h) s = .next t ∧ (t.session n).st = 4 ∧ (t.session n).reason = 2 ∧ (t.session n).asked = [] ∧
      (t.session n).inbound = [])) ∧
  (∃ t, exec (.keepalive h) s = .next t ∧ (t.session n).pdig = h.addr ∧ (t.session n).lastHeard = s.now ∧
    (t.session n).st = (s.session n).st) ∧
  ((s.session n).st = 1 → h.addr = digestPrefix s →
    (∃ t r a, exec (.syn h) s = .next t ∧ (t.session n).synIn = true ∧ (t.session n).tx = 0#32 ∧
      (t.session n).st = (if (s.session n).synackIn then 2 else 1) ∧
      .rafter n 3 0 0#32 r a (digestPrefix s) 0 0 0 0 [] false ∈ t.out) ∧
    (∃ t, exec (.synack h) s = .next t ∧ (t.session n).synackIn = true ∧
      (t.session n).st = if (s.session n).synIn then 2 else 1)) ∧
  ((s.session n).st = 1 → h.addr ≠ digestPrefix s → ∀ c, c ∈ [Instr.syn h, .synack h] →
    ∃ t, exec c s = .next t ∧ (t.session n).st = 3 ∧ (t.session n).reason = 1) ∧
  ((s.session n).st = 1 ∨ (s.session n).st = 2 → ∃ t, exec (.refuse h) s = .next t ∧ (t.session n).st = 3 ∧
    (t.session n).reason = if h.sub = 3#5 then 3 else 2)

/-- R357, R360, R366, R367, R372: the transport's timers, and the Ethernet ports and clock under the sessions. -/
def Obligations.SessionTimersAndPortsActWhenDue : Prop :=
  ∀ (s : State) (n : Nat), sessUp s n = true →
  ((s.session n).st = 1 → (s.session n).lastSent + 1000000 ≤ s.now → ∃ t r a, exec (.synResend n) s = .next t ∧ (t.session n).st = 1 ∧
    .rafter n 2 0 0#32 r a (digestPrefix s) 0 0 0 0 [] false ∈ t.out) ∧
  ((s.session n).st = 2 → 0 < (s.session n).unacked → ∃ t r a, exec (.ackTimer n) s = .next t ∧ (t.session n).unacked = 0 ∧
    .rafter n (if s.felled then 8 else 1) 0 0#32 r a 0#64 0 0 0 0 [] false ∈ t.out) ∧
  ((s.session n).st = 2 → (s.session n).kept ≠ [] → (s.session n).lastProgress + 1000 * odNat s 0x1500 1 ≤ s.now →
    ((s.session n).held = true ∨ (s.session n).retries + 1 < odNat s 0x1500 2 → ∃ t, exec (.retransmitTimeout n) s = .next t ∧
      (t.session n).st = 2 ∧ (t.session n).retries = (if (s.session n).held then (s.session n).retries else (s.session n).retries + 1) ∧
      ∀ f, f ∈ (s.session n).kept →
        ∃ r a, .rafter n 0 f.op f.psn r a f.addr f.len f.scope f.sub f.tag f.data f.pois ∈ t.out) ∧
    ((s.session n).held = false → odNat s 0x1500 2 ≤ (s.session n).retries + 1 → ∃ t, exec (.retransmitTimeout n) s = .next t ∧
      (t.session n).st = 4 ∧ (t.session n).reason = 4)) ∧
  ((s.session n).st = 2 → (s.session n).lastSent + 1000000 * odNat s 0x1500 3 ≤ s.now → ∃ t r a,
    exec (.keepaliveSend n) s = .next t ∧ (t.session n).lastSent = s.now ∧
    .rafter n 6 0 0#32 r a (digestPrefix s) 0 0 0 0 [] false ∈ t.out) ∧
  ((s.session n).st = 1 ∨ (s.session n).st = 2 → (s.session n).lastHeard + 4 * (1000000 * odNat s 0x1500 3) ≤ s.now →
    ∃ t, exec (.keepaliveLost n) s = .next t ∧ (t.session n).st = 4 ∧ (t.session n).reason = 5) ∧
  (∃ t, exec (.ethernetPortDown (sessDie s n) (sessPort s n)) s = .next t ∧
    fget (t.die (sessDie s n)).ports (sessPort s n) = some 0 ∧
    ∀ i x, fget s.sess i = some x → x.st = 1 ∨ x.st = 2 → sessDie s i = sessDie s n → sessPort s i = sessPort s n →
      (t.session i).st = 4 ∧ (t.session i).reason = 6) ∧
  (∀ d port x, fget (s.die d).ports port = some x → (s.die d).clock = true → ∃ t, exec (.ethernetPortUp d port) s = .next t ∧
    fget (t.die d).ports port = some 2 ∧ t.sess = s.sess) ∧
  (∀ d present, (s.die d).clock ≠ present → ∃ t, exec (.rafterClock d present) s = .next t ∧ (t.die d).clock = present ∧
    ((s.die d).powered = true → (t.die d).result = (if present then 1 else 3) ∧
      ∀ p, p < portCount (s.die d).cfg → fget (t.die d).ports p = some (if present then 1 else 0)))

/-! ## Power, gating, heat -/

/-- R389, R390, R392: the fast loop moves the cap along its ramp and lowers the limits where one binds; the slow loop selects each
domain's point; THROTTLE_N's cap holds while it is asserted.
R211, R393: a sample is taken up, and a bay above 105 °C runs below its limit. -/
def Obligations.PowerLoopsAndThermalSamplesAct : Prop :=
  (∀ (s : State),
  (∀ (f : PowerFacts), s.power.fastAt = s.now / 1000 + 1 → exec (.powerFastLoop f) s = .next s) ∧
  (∀ (f : PowerFacts), s.power.fastAt ≠ s.now / 1000 + 1 → ∃ t, exec (.powerFastLoop f) s = .next t ∧ t.power.capNow = rampCap s f.mv ∧ t.power.mv = f.mv ∧
    t.power.ma = f.ma ∧ t.power.fillerW = f.fillerW ∧ t.power.hist = ((f.mv, f.ma) :: s.power.hist).take 100 ∧ t.mem = s.mem ∧
    (∀ r g, limitReason s f (rampCap s f.mv) = some r → isCompute g = true → (s.dom g).st = .on → (s.dom g).issued = true →
      3 < (s.dom g).lim → 3 ≤ (t.dom g).lim ∧ (t.dom g).lim < (s.dom g).lim ∧ (t.dom g).why = 2 ^ r) ∧
    (limitReason s f (rampCap s f.mv) = none → s.now / 1000 % 10 ≠ 0 → ∀ g, t.dom g = s.dom g)) ∧
  (∀ points, s.power.slowAt ≠ s.now / 1000000 + 1 → ∃ t, exec (.powerSlowLoop points) s = .next t ∧ t.mem = s.mem ∧
    ∀ g want, isCompute g = true → (s.dom g).st = .on → (fgetD s.power.hot (g / 19) 0).testBit 0 = false →
      want = (if (s.dom g).issued then bestPoint s g (min (odNat s 0x3300 (g + 1)) (min (fgetD points g 7) 7)) else 0) →
      (t.dom g).issued = false ∧
      ((s.dom g).pt < want → (t.dom g).pt = if (s.dom g).lim = 63 then want else (s.dom g).pt) ∧
      (want ≤ (s.dom g).pt → (t.dom g).pt = if s.power.falling then (s.dom g).pt else want)) ∧
  (∃ t, exec .throttleNAssert s = .next t ∧ t.mod.throttleN = false ∧ t.power.throttled = true ∧
    t.power.capNow = if odNat s 0x3000 4 = 1 then min s.power.capNow (1000 * min (odNat s 0x3000 1) (odNat s 0x3000 3))
      else s.power.capNow) ∧
  (∃ t, exec .throttleNRelease s = .next t ∧ t.mod.throttleN = true ∧ t.power.throttled = false ∧
    t.power.capNow = s.power.capNow)) ∧
  (∀ (s : State) (f : ThermalFacts), s.power.heatAt ≠ s.now / 100000 + 1 → ∃ t, exec (.thermalSample f) s = .next t ∧
  (∀ i, i < f.girt.length → fget t.power.spots i = f.girt[i]?) ∧
  ∀ n a b, n < 4 → f.bays[n]? = some a → f.dies[n]? = some b →
    (∀ i, i < 12 → i < a.length → fget t.power.sensors (16 * n + i) = a[i]?) ∧
    (∀ i, i < 8 → i < b.length → fget t.power.dies (8 * n + i) = b[i]?) ∧
    (bayUp s n = true → 10500 < maxTemp (a.take 12) → ∀ d, d < 16 → (t.dom (19 * n + d)).lim ≤ 15))

/-- R29, R41, R381, R382, R383: an idle domain gates and wakes; a bay falls asleep once it is drained, and wakes with its domains on. -/
def Obligations.DomainsGateAndBaysSleep : Prop :=
  ∀ (s : State),
  (∀ g, isCompute g = true → (s.dom g).st = .on → odNat s 0x3000 13 = 1 → domainFree s g = true → s.power.falling = false →
    bayUp s (g / 19) = true → (s.dom g).idleSince + 1000 * odNat s 0x3000 12 ≤ s.now →
    ∃ t, exec (.domainGate g) s = .next t ∧ (t.dom g).st = .gating ∧ t.mem = s.mem) ∧
  (∀ g, (s.dom g).st = .gating → (s.dom g).idleSince + 2000 ≤ s.now → ∃ t, exec (.domainGateDone g) s = .next t ∧
    (t.dom g).st = (if (s.dom g).wanted then .waking else .gated) ∧
    ∀ e c, e ∈ t.cores → e.1 = c → c ∈ domainCores s g → e.2.slots = [] ∧ e.2.granules = []) ∧
  (∀ g, (s.dom g).st = .waking → ∃ t, exec (.domainWakeDone g) s = .next t ∧ (t.dom g).st = .on ∧
    ∀ x, x ∈ domainGroves s g → x ∈ t.mod.groveWait) ∧
  (∀ p n, portWorks s p = true → romOnly s = false → n < 4 → isStaged s 0x3020 (n + 1) = false →
    (sleepRefused s n = true → exec (.baySleepRequest p n) s = .next (s.emit (.abort p 0x030000E1#32 []))) ∧
    (sleepRefused s n = false → bayUp s n = true → (s.bay n).draining = false → ∃ t, exec (.baySleepRequest p n) s = .next t ∧
      (t.bay n).draining = true ∧ (t.bay n).toSleep = true ∧ .scribe p none [] ∈ t.out) ∧
    ((s.bay n).st = .asleep → ∃ t, exec (.bayWakeRequest (.request p) n) s = .next t ∧ (t.bay n).waking = true ∧
      .scribe p none [] ∈ t.out)) ∧
  (∀ n, (s.bay n).toSleep = true → (s.bay n).draining = true → bayDrained (drainLines s (linesIn s n)) n = true →
    ∃ t, exec (.baySleepEntered n) s = .next t ∧ (t.bay n).st = .asleep ∧ (t.bay n).draining = false ∧
      ∀ d, d < 19 → (t.dom (19 * n + d)).st = .off) ∧
  (∀ n, n < 4 → (s.bay n).st = .asleep → (s.bay n).waking = true → (s.bay n).forced = false ∨ bayCool s n = true →
    ∃ t, exec (.bayWakeDone n) s = .next t ∧ (t.bay n).st = .running ∧ (t.bay n).waking = false ∧
      ∀ d, d < 19 → (16 ≤ d ∨ domainGroves s (19 * n + d) ≠ []) → (t.dom (19 * n + d)).st = .on)


/-! ## Failures, bays in reset -/

/-- R24, R25, R448, R449, R450, R451: failed cores leave their grove, which moves to the nearest spare of its bay while there is one,
shrinks, or is lost; a grove may be retired by command. -/
def Obligations.FailedCoresMoveTheirGroveToASpare : Prop :=
  ∀ (s : State) (g : Nat) (e : GroveEnt), e = groveEnt s g → g < 768 → e.lost = false → (s.bay e.bay).st = .running →
  NoWhorlHeld s → (∃ c, c ∈ groveCores g ∧ coreUsed s c = true) →
  (∀ c, c = Instr.groveFailure g ∨
      (∃ core d, c = Instr.coreFailed core d ∧ core / 16 = g ∧ coreUsed s core = true ∧ (s.core core).failed = false ∧ 1 ≤ d ∧ d ≤ 4 ∧
        (s.dom (coreDomain s core)).st ≠ .off) ∨
      (∃ p n, c = Instr.retireGrove p n ∧ n.toNat = g ∧ portWorks s p = true ∧ romOnly s = false ∧ 161 ≤ workingGroves s e.bay) →
    (∀ x, nearestSpare s e = some x → ∃ t, exec c s = .next t ∧
      groveEnt t g = { bay := e.bay, col := physCol x, row := physRow x, removed := 0#16, lost := false } ∧
      physGrove e.bay e.col e.row ∈ t.deadGroves) ∧
    (nearestSpare s e = none → ∃ t, exec c s = .next t ∧
      (c = Instr.groveFailure g → (groveEnt t g).lost = true) ∧
      (∀ core d, c = Instr.coreFailed core d → (groveEnt t g).removed.getLsbD (core % 16) = true))) ∧
  (∀ p, portWorks s p = true → romOnly s = false →
    (∀ n : W16, 767 < n.toNat ∨ (groveEnt s n.toNat).lost = true → AbortsWith (.retireGrove p n) s p 0x02000010) ∧
    (∀ n : W16, n.toNat = g → workingGroves s e.bay < 161 → AbortsWith (.retireGrove p n) s p 0x03000011))

/-- R243, R316, R317, R318, R449, R455, R456, R457: a bay is reset in order or abruptly; a kernel on it is replayed or kills its
context; the bay returns or is retired. -/
def Obligations.BaysResetReturnOrRetire : Prop :=
  ∀ (s : State) (n : Nat), n < 4 →
  (∀ w : W64, w.toNat = n → s.dbg.opened = true → (s.bay n).st = .running →
    (∀ b, b < 4 → b ≠ n → (s.bay b).st ≠ .resetting ∧ (s.bay b).st ≠ .returning) →
    (∃ t, exec (.bayReset (.request .dbg w)) s = .next t ∧ (t.bay n).st = .resetting ∧ (t.bay n).draining = true ∧
      (t.bay n).abrupt = false ∧ ∀ c x, c ∈ bayCores n → (c, x) ∈ t.cores → x.slots = [] ∧ x.granules = []) ∧
    (∀ id k, s.kerns.filter (fun e => e.2.st != .ended && kernHit s e.1 e.2 (bayCores n)) = [(id, k)] → fget s.kerns id = some k →
      s.felled = false → ctxFaulted s k.ctx = false → s.cuts = [] →
      ∃ t, exec (.bayReset (.request .dbg w)) s = .next t ∧
        (mayReplay s k (bayCores n) [] = true → ∃ k', fget t.kerns id = some k' ∧ k'.st = .waiting ∧ k'.repl = k.repl + 1 ∧ k'.next = 0 ∧
          k'.first = [] ∧ k'.saved = []) ∧
        (mayReplay s k (bayCores n) [] = false → ∃ x, fget t.ctxs k.ctx = some x ∧ x.fault = 8))) ∧
  ((s.bay n).st = .running → ∃ t, exec (.bayReset (.detector n)) s = .next t ∧ (t.bay n).st = .resetting ∧
    (t.bay n).abrupt = true ∧ (t.bay n).trigger = 1) ∧
  ((s.bay n).st = .resetting → (s.bay n).draining = true → (s.bay n).confirmed = false → (s.bay n).since + 100000 ≤ s.now →
    ∃ t, exec (.drainConfirmTimeout n) s = .next t ∧ (t.bay n).st = .resetting ∧ (t.bay n).abrupt = true ∧
      (t.bay n).draining = false ∧ (t.bay n).trigger = 2) ∧
  ((s.bay n).st = .returning ∨ ((s.bay n).st = .resetting ∧ (s.bay n).draining = false) → lentLines s n = [] → owedLines s n = [] →
    (∀ e, e ∈ s.cores → e.2.failed = false) → ∃ t, exec (.bayReturned n) s = .next t ∧ (t.bay n).st = .running ∧
      (t.bay n).bands = [] ∧ (∀ d, d < 19 → (s.dom (19 * n + d)).st ≠ .off → (t.dom (19 * n + d)).st = .on) ∧
      ∀ i, i < 192 → 192 * n + i ∈ t.mod.groveWait) ∧
  ((s.bay n).st = .returning ∨ ((s.bay n).st = .resetting ∧ ((s.bay n).draining = false ∨ (s.bay n).since + 1000000000 ≤ s.now)) →
    ∃ t, exec (.bayReturnTimeout n) s = .next t ∧
    (t.bay n).st = .retired ∧ ∀ d, d < 19 → (t.dom (19 * n + d)).st = .off) ∧
  (∀ d, isCompute d = true → (s.dom d).st ≠ .off → NoWhorlHeld s → ∃ t, exec (.domainFailed d) s = .next t ∧ (t.dom d).st = .off)

/-! ## Scribe -/

/-- R399, R400, R405, R406, R413, R430, R500, Table 15.4: READ, INFO and NEXT answer what an entry holds, is and precedes; WRITE stores a value
the entry's rules allow, and is aborted by the first rule that it breaks. -/
def Obligations.EntriesAreReadAndWrittenByTheirRules : Prop :=
  ∀ (s : State) (p : Port) (idx : W16) (sub : Byte) (i j : Nat), i = idx.toNat → j = sub.toNat → portWorks s p = true →
  (romOnly s = true →
    (romEntry i j = false → (∀ len off, AbortsWith (.read p idx sub len off) s p 0x05000001) ∧
      AbortsWith (.info p idx sub) s p 0x05000001 ∧ AbortsWith (.next p idx sub) s p 0x05000001) ∧
    ∀ off data, AbortsWith (.write p idx sub off data) s p 0x05000001 ∧ AbortsWith (.stage p idx sub off data) s p 0x05000001) ∧
  (romOnly s = false →
    (exec (.next p idx sub) s = .next (s.emit (.scribe p none (leBytes 4 ((nextKey i j).getD 0xFFFFFFFF))))) ∧
    (odRow i j = none → (∀ len off, AbortsWith (.read p idx sub len off) s p 0x01000001) ∧
      AbortsWith (.info p idx sub) s p 0x01000001 ∧ ∀ off data, AbortsWith (.write p idx sub off data) s p 0x01000001) ∧
    (∀ r, odRow i j = some r →
      (∃ t, exec (.info p idx sub) s = .next t ∧ t = { s with out := t.out } ∧
        Answers t p (leBytes 4 (r.ty.code + r.acc.code * 2 ^ 8 + r.per.code * 2 ^ 16 +
          ((if odConfig r i j then 1 else 0) + (if isStaged s i j then 2 else 0)) * 2 ^ 24) ++ leBytes 4 r.size ++
          leBytes 8 (if isText r then 0 else odDefault s i j))) ∧
      (r.acc = .wo → ∀ len off, AbortsWith (.read p idx sub len off) s p 0x01000003) ∧
      (r.acc ≠ .wo → isText r = false →
        (∃ t, exec (.read p idx sub 0#12 0#20) s = .next t ∧ Answers t p (odNow s i j) ∧ t.dict = s.dict ∧ t.mem = s.mem) ∧
        (∀ len off, len ≠ 0#12 → AbortsWith (.read p idx sub len off) s p 0x01000005) ∧
        ∀ off, off ≠ 0#20 → AbortsWith (.read p idx sub 0#12 off) s p 0x01000006) ∧
      (r.acc ≠ .wo → isText r = true → ∀ len off, (r.size < 4 * off.toNat ∨ r.size < 4 * off.toNat + len.toNat →
          AbortsWith (.read p idx sub len off) s p 0x01000006) ∧
        (4 * off.toNat + len.toNat ≤ r.size → len ≠ 0#12 → ∃ t, exec (.read p idx sub len off) s = .next t ∧
          Answers t p (((odNow s i j).drop (4 * off.toNat)).take len.toNat) ∧ t.dict = s.dict)) ∧
      (∀ (off : BitVec 20) data,
        (r.acc = .ro → AbortsWith (.write p idx sub off data) s p 0x01000002) ∧
        (r.acc = .rws → AbortsWith (.write p idx sub off data) s p 0x01000004) ∧
        (r.acc = .rw ∨ r.acc = .wo → ∀ c, lengthRule r off.toNat data = some c → AbortsWith (.write p idx sub off data) s p c) ∧
        (r.acc = .rw ∨ r.acc = .wo → lengthRule r off.toNat data = none → isStaged s i j = true →
          AbortsWith (.write p idx sub off data) s p 0x04000003) ∧
        (r.acc = .rw → lengthRule r off.toNat data = none → isStaged s i j = false →
          (∀ c, valueRule r i j data = some c → AbortsWith (.write p idx sub off data) s p c) ∧
          (valueRule r i j data = none → i ≠ 0x3020 → data ≠ odValue s i j →
            (∀ c, stateRule s (odPut s i j data) i j = some c → AbortsWith (.write p idx sub off data) s p c) ∧
            (stateRule s (odPut s i j data) i j = none → plainKey (odKey i j) = true →
              ∃ t, exec (.write p idx sub off data) s = .next t ∧ Answers t p [] ∧ odValue t i j = data ∧
                t.dict.generation = s.dict.generation + (if odConfig r i j then 1 else 0)))))))

/-- R409, R411, R412, R415, Table 15.6: the peg has one holder and a lease; its holder stages values, discards them, or commits them all or
none; a lease that runs out frees the peg. -/
def Obligations.ThePegStagesAndCommitsAllOrNothing : Prop :=
  ∀ (s : State) (p : Port), portWorks s p = true → romOnly s = false →
  (s.dict.peg = none ∨ s.dict.peg = some p → ∃ t, exec (.pegTake p) s = .next t ∧ Answers t p [] ∧ t.dict.peg = some p ∧
    t.dict.leaseEnd = s.now + 1000000 * odNat s 0x1200 2 ∧ t.dict.od = s.dict.od) ∧
  (∀ q, s.dict.peg = some q → q ≠ p → AbortsWith (.pegTake p) s p 0x04000001) ∧
  (s.dict.peg ≠ some p → ∀ c, c ∈ [Instr.pegRenew p, .pegRelease p, .discard p, .commit p true, .commit p false] →
    AbortsWith c s p 0x04000002) ∧
  (s.dict.peg ≠ some p → ∀ idx sub off data, AbortsWith (.stage p idx sub off data) s p 0x04000002) ∧
  (s.dict.peg = some p →
    (∃ t, exec (.pegRenew p) s = .next t ∧ Answers t p [] ∧ t.dict.leaseEnd = s.now + 1000000 * odNat s 0x1200 2 ∧
      t.dict.staged = s.dict.staged ∧ t.dict.peg = some p) ∧
    (∃ t, exec (.pegRelease p) s = .next t ∧ Answers t p [] ∧ t.dict.peg = none ∧ t.dict.staged = [] ∧ t.dict.od = s.dict.od) ∧
    (∃ t, exec (.discard p) s = .next t ∧ Answers t p [] ∧ t.dict.peg = some p ∧ t.dict.staged = [] ∧ t.dict.od = s.dict.od) ∧
    (∀ (idx : W16) (sub : Byte) (off : BitVec 20) data r, odRow idx.toNat sub.toNat = some r → r.acc = .rw ∨ r.acc = .rws →
      isText r = false → data.length = r.size → off = 0#20 → valueRule r idx.toNat sub.toNat data = none → s.dict.staged = [] →
      ∃ t, exec (.stage p idx sub off data) s = .next t ∧ Answers t p [] ∧
        fget t.dict.staged (odKey idx.toNat sub.toNat) = some data ∧ t.dict.od = s.dict.od) ∧
    (∀ flashOk, ∃ t, exec (.commit p flashOk) s = .next t ∧
      ((Answers t p (leBytes 4 0) ∧ t.dict.staged = [] ∧ ((s.dict.staged.map (·.1)).Nodup →
          (∀ e, e ∈ s.dict.staged → plainKey e.1 = true) → ∀ e, e ∈ s.dict.staged → odValue t (e.1 / 256) (e.1 % 256) = e.2)) ∨
        (∃ code key, t.out.head? = some (.abort p (BitVec.ofNat 32 code) (leBytes 4 key)) ∧ t.dict.staged = s.dict.staged ∧
          t.mem = s.mem ∧ t.dict.generation = s.dict.generation ∧
          ∀ i j, odKey i j ≠ odKey 0x1200 7 → odValue t i j = odValue s i j))) ∧
    (∀ k v, s.dict.staged = [(k, v)] → plainKey k = true → stateRule s (odPut s (k / 256) (k % 256) v) (k / 256) (k % 256) = none →
      s.trust.keyAvailable = true → v ≠ odValue s (k / 256) (k % 256) → ∃ t, exec (.commit p true) s = .next t ∧
        Answers t p (leBytes 4 0) ∧ odValue t (k / 256) (k % 256) = v ∧ t.dict.staged = [] ∧
        t.dict.generation = s.dict.generation + (if isConfigKey k then 1 else 0))) ∧
  (∀ q, s.dict.peg = some q → s.dict.leaseEnd ≤ s.now → ∃ t, exec .leaseExpiry s = .next t ∧ t.dict.peg = none ∧
    t.dict.staged = [] ∧ odNat t 0x1200 5 = min (2 ^ 64 - 1) (odNat s 0x1200 5 + 1))

/-- R402, R403, R404, R406, R407: a message that is malformed is discarded and counted; a stale GEN or a refused record stops the records
after it; each executed record is answered in order. -/
def Obligations.MessagesRunTheirRecordsInOrder : Prop :=
  ∀ (s : State) (env : Envelope) (bytes : List Byte), portWorks s .f = true →
  (parseMsg .f bytes = none → exec (.scribeMessage .f env bytes) s = .next (odAdd s 0x1100 7 1)) ∧
  (∀ h l head, parseMsg .f bytes = some (h, l) → env.broadcast = false →
    head = (fun n : Nat => 2 ^ 124 + 2 ^ 120 + l.length * 2 ^ 112 + bits h 111 96 * 2 ^ 96 + (16 + n) * 2 ^ 80 +
      s.dict.generation % 2 ^ 64) →
    (bits h 63 0 ≠ 0 → bits h 63 0 ≠ s.dict.generation → ∃ b, b = l.flatMap (fun r => respRec r 0x03000004 []) ∧
      exec (.scribeMessage .f env bytes) s = .next (s.emit (.scribe .f (some env) (leBytes 16 (head b.length) ++ b)))) ∧
    (bits h 63 0 = 0 ∨ bits h 63 0 = s.dict.generation → romOnly s = false →
      (∀ r rest c, l = r :: rest → c ≠ 0 → c < 2 ^ 32 → (∀ room, runRec s .f room r = .abort c) →
        ∃ b, b = respRec r c [] ++ rest.flatMap (fun x => respRec x 0x03000003 []) ∧
          exec (.scribeMessage .f env bytes) s = .next (s.emit (.scribe .f (some env) (leBytes 16 (head b.length) ++ b)))) ∧
      (∀ r d, l = [r] → (∀ room, runRec s .f room r = .ok s d) → pad4 d.length ≤ 1472 → resetsModule r = false →
        ∃ b, b = respRec r 0 d ∧
          exec (.scribeMessage .f env bytes) s = .next (s.emit (.scribe .f (some env) (leBytes 16 (head b.length) ++ b))))))


/-! ## The global stop, operating states, power -/

/-- R285, R459, R462, R463, R464, Table 19.6: a fell is requested, cut and resumed by Scribe, by a FELL record and by HALT_N. -/
def Obligations.FellsStopTheDeviceAndResumesRestartIt : Prop :=
  ∀ (s : State),
  (∀ (p : Port) (reason : W16), portWorks s p = true → romOnly s = false →
    (0xFF00 ≤ reason.toNat → AbortsWith (.fell p reason) s p 0x02000001) ∧
    (reason.toNat < 0xFF00 → s.mod.op = .start ∨ s.mod.op = .standby ∨ s.felled = true →
      AbortsWith (.fell p reason) s p 0x03000101) ∧
    (reason.toNat < 0xFF00 → s.mod.op ≠ .start → s.mod.op ≠ .standby → s.felled = false → ∃ t, exec (.fell p reason) s = .next t ∧
      t.fell.st = 1 ∧ t.fell.reason = reason ∧ t.fell.source = 0 ∧ t.fell.trig = s.mod.time ∧ Answers t p []) ∧
    (s.fell.st = 2 → s.mod.haltN = true → ∃ t, exec (.resume p) s = .next t ∧ t.fell.st = 3 ∧ Answers t p []) ∧
    (s.fell.st ≠ 2 ∨ s.mod.haltN = false → AbortsWith (.resume p) s p 0x03000102)) ∧
  (s.fell.st = 1 → cutReady s = true → ∃ t e, exec .cutComplete s = .next t ∧ t.fell.st = 2 ∧ t.fell.cutTime = s.mod.time ∧
    t.fell.cutReason = s.fell.reason ∧ t.fell.cutSource = s.fell.source ∧ t.flog.entries.head? = some e ∧ e.event = 0x15) ∧
  (s.fell.st = 1 → cutReady s = false → exec .cutComplete s = .next s) ∧
  (s.fell.st = 3 → ∃ t, exec .resumeComplete s = .next t ∧ t.fell.st = 0 ∧ t.fell.cmds = []) ∧
  (∀ q e s1 x reason, Takes s q 12 (fun _ => true) e s1 x → e.phase ≠ .waiting → reason = recGet e.rec_ 79 64 →
    (x.f ≠ 0 → ∃ t, exec (.fellCommand q) s = .next t ∧ Finishes t q 7) ∧
    (x.f = 0 → 0xFF00 ≤ reason → ∃ t, exec (.fellCommand q) s = .next t ∧ Finishes t q 1) ∧
    (x.f = 0 → reason < 0xFF00 → ∃ t, exec (.fellCommand q) s = .next t ∧ StillWaits t q ∧ q ∈ t.fell.cmds ∧
      (s1.fell.st = 0 → t.fell.st = 1 ∧ t.fell.reason = BitVec.ofNat 16 reason ∧ t.fell.source = 1))) ∧
  (s.mod.haltN = true → ∃ t, exec .haltNFall s = .next t ∧ t.mod.haltN = false ∧
    (s.mod.op = .start → t.mod.haltSeen = true ∧ t.fell = s.fell) ∧ (s.mod.op = .standby → t.fell = s.fell) ∧
    (s.mod.op ≠ .start → s.mod.op ≠ .standby → s.fell.st = 0 → t.fell.st = 1 ∧ t.fell.reason = 0xFF01#16 ∧ t.fell.source = 2)) ∧
  (s.mod.haltN = false → ∃ t, exec .haltNRise s = .next t ∧ t.mod.haltN = true ∧
    t.fell.st = if s.fell.source = 2 ∧ s.fell.st = 2 then 3 else s.fell.st)

/-- R4, R5, R385, R491, R492, R493, R496, R497, Tables 00.3 and 19.4: the operating state changes as a request allows, or the request is
aborted; STANDBY, a module reset and a turn-off take power from every domain but 76. -/
def Obligations.OperatingStatesAndPowerFollowTheirRules : Prop :=
  ∀ (s : State),
  (∀ (p : Port), portWorks s p = true → romOnly s = false →
    (∀ c o o', (c, o, o') ∈ ([(.enterTest p, .service, .test), (.enterRecovery p, .service, .recovery), (.enterService p, .test, .service),
        (.enterService p, .recovery, .service)] : List (Instr × OpState × OpState)) → s.mod.op = o →
      ∃ t, exec c s = .next t ∧ t.mod.op = o' ∧ t.mem = s.mem ∧ Answers t p []) ∧
    (s.mod.op = .service ∨ s.mod.op = .recovery →
      (s.ctxs = [] → ∃ t, exec (.enterStandby p) s = .next t ∧ t.mod.op = .standby ∧ t.mod.draining = true ∧
        t.dict.peg ≠ some .h ∧ Answers t p []) ∧
      (s.ctxs ≠ [] → AbortsWith (.enterStandby p) s p 0x030000E2)) ∧
    (s.mod.op = .test ∨ s.mod.op = .standby → ∀ c, c ∈ [Instr.enterStart p, .wakeFromStandby p] → ∃ t, exec c s = .next t ∧
      t.mod.op = .start ∧ t.mod.phase = .released ∧ t.mod.cause = 0 ∧ t.dbg.opened = false ∧ Answers t p []) ∧
    (∀ c o, (c, o) ∈ ([(.enterService p, .start), (.enterService p, .service), (.enterService p, .standby), (.enterTest p, .start),
        (.enterTest p, .test), (.enterTest p, .recovery), (.enterTest p, .standby), (.enterRecovery p, .start),
        (.enterRecovery p, .test), (.enterRecovery p, .recovery), (.enterRecovery p, .standby), (.enterStandby p, .start),
        (.enterStandby p, .test), (.enterStandby p, .standby), (.enterStart p, .start), (.enterStart p, .service),
        (.enterStart p, .recovery)] : List (Instr × OpState)) → s.mod.op = o → AbortsWith c s p 0x03000001) ∧
    (∃ t, exec (.moduleResetRequest p) s = .next t ∧ t.mod.op = .start ∧ t.mod.phase = .released ∧ t.mod.cause = 3 ∧
      .pin "PWR_GOOD" false ∈ t.out ∧ Answers t p [] ∧ t.cores = [] ∧ t.mem.dram = [] ∧ t.flog = s.flog ∧ t.dict = s.dict)) ∧
  (s.mod.op = .standby → s.mod.draining = true → (∀ n, n < 4 → bayUp s n = false) → ∃ t, exec .standbyEntered s = .next t ∧
    t.doms = [(76, { Dom.offDom with st := .on })] ∧ t.mem.dram = [] ∧ t.cores = [] ∧ t.mod.op = .standby ∧
    t.mod.draining = false ∧ t.flog = s.flog ∧ t.dict = s.dict) ∧
  (∀ mv, s.mod.switchClosed = false → 48000 < mv → mv < (if 62000 < s.mod.inputMv then 61000 else 62001) →
    ∃ t, exec (.powerOn mv) s = .next t ∧ t.mod.switchClosed = true ∧ t.mod.op = .start ∧ t.mod.cause = 1 ∧
      t.mod.phase = (if s.mod.modResetN then .released else .off) ∧ t.mem = s.mem) ∧
  (∀ cause, s.mod.switchClosed = true → ∃ t, exec (.turnOff cause) s = .next t ∧ t.mod.switchClosed = false ∧
    t.mod.pwrGood = false ∧ t.doms = [] ∧ t.flog.entries = [] ∧ t.flog.count = 0 ∧ t.mem.dram = [] ∧ t.dict.staged = [] ∧
    .pin "PWR_GOOD" false ∈ t.out ∧ t.flash = s.flash) ∧
  (s.mod.switchClosed = true → s.mod.modResetN = true → ∃ t, exec .moduleReset s = .next t ∧ t.mod.modResetN = false ∧
    t.mod.op = .start ∧ t.mod.phase = .off ∧ t.mod.pwrGood = false ∧ t.cores = [] ∧
    t.mod.cause = (if s.mod.phase = .released ∧ s.mod.cause = 1 then 1 else 2)) ∧
  (s.mod.switchClosed = false ∨ s.mod.modResetN = false → exec .moduleReset s = .next { s with mod := { s.mod with modResetN := false } }) ∧
  (s.mod.switchClosed = true → s.mod.modResetN = false → s.mod.phase = .off → ∃ t, exec .modResetRelease s = .next t ∧
    t.mod.modResetN = true ∧ t.mod.phase = .released ∧ t.mod.cause = s.mod.cause)

/-- R38, R39, R40, R41, R424, R429, R431, R493, R494, Table 19.5: what start-up sets, how START ends, and what a token of device time adds. -/
def Obligations.StartUpEndsAndTimeGoesOn : Prop :=
  ∀ (s : State),
  (∀ facts, s.mod.phase = .released → ∃ t, exec (.startUp facts) s = .next t ∧ t.mod.op = .start ∧ t.mod.pwrGood = true ∧
    (t.mod.phase = .running ∨ t.mod.phase = .romRecovery) ∧ t.trust.keyDerived = false ∧ t.mod.slotId = facts.slotId ∧
    t.mod.time = (if s.mod.cause = 0 then s.mod.time else 0#64)) ∧
  (∀ matched, s.trust.keyDerived = false → s.mod.phase = .running ∨ s.mod.phase = .romRecovery →
    ∃ t, exec (.identityDerived matched) s = .next t ∧ t.trust.keyDerived = true ∧
      t.trust.keyAvailable = (matched && s.mod.startResult != 1) ∧
      (t.trust.keyAvailable = false → ∃ e, t.flog.entries.head? = some e ∧ e.event = 0x11)) ∧
  (s.mod.phase = .running → s.trust.keyDerived = true →
    (s.mod.startResult ≠ 0 → ∃ t, exec .startEnd s = .next t ∧ t.mod.phase = .held ∧ t.mod.op = s.mod.op ∧
      alertAsserted t = true) ∧
    (s.mod.startResult = 0 → bootable s s.trust.runSlot = true → ∃ t, exec .startEnd s = .next t ∧ t.mod.phase = .ended ∧
      t.mod.op = (if s.mod.wasShort then .recovery else if odNat s 0x2000 3 = 1 then .test else .service) ∧ t.mod.memActive = true ∧
      (s.mod.haltSeen = true ∨ s.mod.haltN = false → s.fell.st = 0 → t.fell.st = 1 ∧ t.fell.reason = 0xFF01#16) ∧
      (s.trust.keyAvailable = true → t.flash.boot.tries = 0)) ∧
    (s.mod.startResult = 0 → bootable s s.trust.runSlot = false →
      (s.trust.keyAvailable = true → bootable s (inactiveSlot s) = true → ∃ t, exec .startEnd s = .next t ∧
        t.flash.boot.pref = inactiveSlot s ∧ t.flash.boot.trial = false ∧ t.mod.phase = .released ∧ t.mod.cause = 3) ∧
      (s.trust.keyAvailable = false ∨ bootable s (inactiveSlot s) = false → ∃ t, exec .startEnd s = .next t ∧
        t.mod.phase = .held ∧ t.mod.startResult = 3))) ∧
  (timeRuns s = true →
    (∃ t, exec .timeToken s = .next t ∧ t.mod.time = s.mod.time + BitVec.ofNat 64 (64 - s.mod.time.toNat % 64)) ∧
    (s.mod.fullAt < s.now / 65536 → ∃ t, exec .fullCountToken s = .next t ∧ t.mod.fullAt = s.now / 65536 ∧ t.mod.time = s.mod.time ∧
      (∀ g, g ∈ t.mod.groveWait ↔ g ∈ s.mod.groveWait ∧ (s.dom (groveDomain s g)).st ≠ .on) ∧
      s.mod.maxSkew ≤ t.mod.maxSkew ∧ t.mod.maxSkew ≤ max s.mod.maxSkew 20) ∧
    (s.now / 65536 ≤ s.mod.fullAt → exec .fullCountToken s = .next s)) ∧
  (timeRuns s = false → exec .timeToken s = .next s ∧ exec .fullCountToken s = .next s) ∧
  (∀ port, port < 2 → ∃ t, exec (.timeSourceChange port) s = .next t ∧ t.mod.refclk = s.mod.refclk.set port false ∧
    t.mod.time = s.mod.time ∧ (s.mod.refclk[port]? = some true → (t.port port).up = false))

/-! ## Trust -/

/-- R425, R426, R434, R435, Tables 16.4 and 16.5: an update operation starts unless one runs; its result says whether it may change the
boot record and the inactive slot; the window programs bits from 1 to 0 after an ERASE, and discards other writes. -/
def Obligations.UpdatesChangeOnlyTheInactiveSlotAndTheBootRecord : Prop :=
  ∀ (s : State),
  (∀ a c op, (c, op) ∈ ([(.erase a, .erase), (.check a, .check), (.activate a, .activate), (.confirm a, .confirm), (.cancel a, .cancel),
      (.revert a, .revert)] : List (Instr × UpdOp)) →
    (pfAgent s a = false → exec c s = .next s) ∧
    (pfAgent s a = true → ∃ t, exec c s = .next t ∧ t.flash = s.flash ∧
      (s.trust.done = true → t.trust.op = some op ∧ t.trust.done = false ∧ t.trust.dropped = false) ∧
      (s.trust.done = false → t.trust = { s.trust with dropped := true }))) ∧
  (∀ op flashOk, s.trust.op = some op → ∃ t, exec (.updateOperationDone flashOk) s = .next t ∧ t.trust.op = none ∧
    t.trust.done = true ∧ t.trust.result = updateResult s op flashOk ∧
    (updateResult s op flashOk ≠ 0 → t.flash = s.flash) ∧
    (updateResult s op flashOk = 0 → slotMem t s.trust.runSlot = slotMem s s.trust.runSlot ∨ 1 < s.trust.runSlot) ∧
    (updateResult s op flashOk = 0 →
      (op = .erase → slotMem t (inactiveSlot s) = [] ∧ t.trust.writable = true ∧ t.flash.boot = s.flash.boot) ∧
      (op = .erase → s.trust.onTrial = false ∧ s.trust.pend = false) ∧ (op = .activate → s.trust.onTrial = false ∧ t.trust.pend = true) ∧
      (op = .cancel → s.trust.pend = true) ∧ (op = .confirm → s.trust.onTrial = true) ∧
      (op = .revert → s.trust.onTrial = true ∧ bootable s (inactiveSlot s) = true) ∧
      (op = .check ∨ op = .activate → bootable s (inactiveSlot s) = true) ∧
      (op = .check → t.flash = s.flash) ∧
      (op = .activate → t.flash.boot = { s.flash.boot with pref := inactiveSlot s, trial := true, tries := 0 }) ∧
      (op = .cancel → t.flash.boot = { s.flash.boot with pref := s.trust.runSlot, trial := false }) ∧
      (op = .revert → t.flash.boot = { s.flash.boot with pref := inactiveSlot s, trial := false }) ∧
      (op = .confirm → t.flash.boot = { s.flash.boot with counter := max s.flash.boot.counter s.trust.runSvn, trial := false }))) ∧
  (∀ a off data, pfAgent s a = true →
    (s.trust.writable = true → s.trust.done = true → slotShape a off data.length = true → Memory.wf (slotMem s (inactiveSlot s)) = true →
      ∃ t, exec (.slotWrite a off data) s = .next t ∧ slotRead (slotMem t (inactiveSlot s)) off data.length =
        List.zipWith (· &&& ·) data (slotRead (slotMem s (inactiveSlot s)) off data.length)) ∧
    (s.trust.writable = false ∨ s.trust.done = false ∨ slotShape a off data.length = false →
      ∃ t, exec (.slotWrite a off data) s = .next t ∧ t.trust.dropped = true ∧ t.flash = s.flash)) ∧
  (∀ a off data, pfAgent s a = false → exec (.slotWrite a off data) s = .next s)

/-- R431, R436, R437, R438, Table 16.8: measurements are answered by their blocks, signed with the identity key where that is asked; other
requests are answered in the order that SPDM gives them. -/
def Obligations.MeasurementsAndSpdmRequestsAreAnswered : Prop :=
  ∀ (s : State) (tr : Transport),
  (∀ seq signed index nonce, spdmWorks s tr = false → exec (.getMeasurements tr seq signed index nonce) s = .next s) ∧
  (∀ seq signed index nonce, spdmWorks s tr = true →
    (negotiated s tr = false ∨ (index = 0 ∨ index = 0xFF ∨ (1 ≤ index ∧ index ≤ 12)) ∧ signed = true ∧ s.trust.keyAvailable = false →
      exec (.getMeasurements tr seq signed index nonce) s = .next (s.emit (.spdm tr seq [0x12#8, 0x7F#8, 4#8, 0#8]))) ∧
    (negotiated s tr = true → 12 < index → index ≠ 0xFF →
      exec (.getMeasurements tr seq signed index nonce) s = .next (s.emit (.spdm tr seq [0x12#8, 0x7F#8, 1#8, 0#8]))) ∧
    (∀ body blocks, negotiated s tr = true → signed = false ∨ s.trust.keyAvailable = true →
      (index = 0 ∧ blocks = []) ∨ (index = 0xFF ∧ blocks = [1, 2, 3, 4, 5, 6, 7, 8, 9, 10, 11, 12]) ∨
        (1 ≤ index ∧ index ≤ 12 ∧ blocks = [index]) →
      body = [0x12#8, 0x60#8, BitVec.ofNat 8 (if index = 0 then 12 else 0), 0#8, BitVec.ofNat 8 blocks.length] ++
        leBytes 3 (blocks.flatMap (measBlock s)).length ++ blocks.flatMap (measBlock s) ++ sliceD nonce 0 32 0#8 ++ leBytes 2 0 →
      exec (.getMeasurements tr seq signed index nonce) s =
        .next (s.emit (.spdm tr seq (if signed then body ++ Config.identitySign body else body))))) ∧
  (∀ (f : SpdmFrame) code seq m, spdmWorks s tr = true →
    (tr = .portF ∧ spdmHeaderOk f = true ∧ seq = f.seq ∧ m = f.msg.take f.len.toNat) ∨ (tr ≠ .portF ∧ seq = 0#16 ∧ m = f.msg) →
    code = ((m[1]?).getD 0#8).toNat →
    (spdmReply tr (fgetD s.trust.spdm (transportKey tr) 0) code = none →
      exec (.spdmMessage tr f) s = .next (s.emit (.spdm tr seq [0x12#8, 0x7F#8, 7#8, 0#8]))) ∧
    (code = 0x84 → ∃ t, exec (.spdmMessage tr f) s = .next t ∧ fget t.trust.spdm (transportKey tr) = some 1 ∧
      ∃ d, t.out.head? = some (.spdm tr seq ((m.headD 0x12#8) :: 4#8 :: d))) ∧
    (code = 0xE1 → fgetD s.trust.spdm (transportKey tr) 0 = 0 →
      exec (.spdmMessage tr f) s = .next (s.emit (.spdm tr seq [0x12#8, 0x7F#8, 4#8, 0#8]))) ∧
    (code = 0xFE → ∀ p, tr = .doe p → 4 ≤ fgetD s.trust.spdm p 0 → m[11]? = some 0#8 → m[12]? = some 4#8 →
      ∃ t, exec (.spdmMessage tr f) s = .next t ∧ (t.port p).secure = true)) ∧
  (∀ (f : SpdmFrame), moduleOn s = true → romOnly s = false → spdmHeaderOk f = false ∨ odNat s 0x1100 6 = 0 →
    exec (.spdmMessage .portF f) s = .next (odAdd s 0x1100 7 1))

/-! ## Observation and debug -/

/-- R442, R444, R471, R475, R480: FLOG_ACK moves only forward and never past FLOG_COUNT; an epoch tick restarts the shared banks; a
sample that is due is written or skipped, and the next lies ahead. -/
def Obligations.LogAcknowledgementTickAndSampleAct : Prop :=
  ∀ (s : State),
  (∀ (a : CtlAgent) (v : W64), (pfAgent s a = false → exec (.flogAck a v) s = .next s ∧ exec (.eptick a v) s = .next s) ∧
    (pfAgent s a = true →
      (∃ t, exec (.flogAck a v) s = .next t ∧ t.flog.entries = s.flog.entries ∧ t.flog.count = s.flog.count ∧
        t.flog.ack = if v < s.flog.ack then s.flog.ack else if s.flog.count < v.toNat then BitVec.ofNat 64 s.flog.count else v) ∧
      (∃ t, exec (.eptick a v) s = .next t ∧ t.obs.epochSh = (s.obs.epochSh + 1) % 2 ^ 32 ∧
        (∀ k, k < 0x10000 → fget t.obs.banks k = fget s.obs.banks k) ∧
        ∀ k b, 0x10000 ≤ k → fget s.obs.banks k = some b → fget t.obs.banks k = some (swapBank b)))) ∧
  (sampleDue s = false → exec .sample s = .next s) ∧
  (sampleDue s = true → ∃ t, exec .sample s = .next t ∧ s.now < t.obs.nextSample ∧
    (sampleFits s = true → t.obs.smpWptr = s.obs.smpWptr + 1 ∧ t.obs.smpSkip = s.obs.smpSkip) ∧
    (sampleFits s = false → t.obs.smpWptr = s.obs.smpWptr ∧ t.obs.smpSkip = s.obs.smpSkip + 1 ∧ t.mem = s.mem))

/-- R422, R459, R464, R483, R484, Table 18.9: closed debug takes STATUS, CHALLENGE and UNLOCK only; open debug reads, writes, fells,
resumes and reads tags where the state allows it. -/
def Obligations.DebugOperationsAreGatedAndAnswered : Prop :=
  ∀ (s : State) (port : DebugPort) (seq : W16), moduleOn s = true →
  (s.dbg.opened = false → ∀ addr len data arg c op, (c, op) ∈ ([(.debugRead addr len seq port, 1), (.debugWrite addr seq port data, 2),
      (.debugFell seq port, 3), (.debugResume seq port, 4), (.tagRead arg seq port, 5)] : List (Instr × Nat)) →
    DebugRefused c s port op seq 1) ∧
  (s.dbg.opened = true →
    (∀ (addr : W48) (len : W16), (len.toNat % 8 ≠ 0 ∨ len.toNat < 8 ∨ 1024 < len.toNat ∨ addr.toNat % 8 ≠ 0 →
        DebugRefused (.debugRead addr len seq port) s port 1 seq 4) ∧
      (len.toNat % 8 = 0 → 8 ≤ len.toNat → len.toNat ≤ 1024 → addr.toNat % 8 = 0 →
        (debugReach s false addr.toNat len.toNat = false → DebugRefused (.debugRead addr len seq port) s port 1 seq 2) ∧
        (∀ s1 b s2, debugReach s false addr.toNat len.toNat = true → debugBusy s = false →
          debugAsk s (barPieces len.toNat addr.toNat len.toNat) = (false, s1) →
          debugTake s1 (barPieces len.toNat addr.toNat len.toNat) = (b, 0, s2) →
          ∃ t, exec (.debugRead addr len seq port) s = .next t ∧ DebugAnswered s2 t port 1 seq 0 b))) ∧
    (∀ (addr : W48) (data : List Byte), (addr.toNat % 8 ≠ 0 ∨ 1152 < data.length →
        DebugRefused (.debugWrite addr seq port data) s port 2 seq 4) ∧
      (addr.toNat % 8 = 0 → data.length ≤ 1152 → (data = [] → DebugRefused (.debugWrite addr seq port data) s port 2 seq 0) ∧
        (data ≠ [] → regionOf addr.toNat ≠ .chute → debugReach s true addr.toNat data.length = false →
          DebugRefused (.debugWrite addr seq port data) s port 2 seq 2) ∧
        (data ≠ [] → regionOf addr.toNat = .dram ∨ regionOf addr.toNat = .scratch → data.length ≤ pieceRoom addr.toNat → s.reqIds = true →
          debugReach s true addr.toNat data.length = true → ∃ t, exec (.debugWrite addr seq port data) s = .next t ∧
            DebugAnswered s t port 2 seq 0 [] ∧ WriteInFlight t .fwrite addr.toNat data))) ∧
    (romOnly s = false → s.mod.op ≠ .start → s.mod.op ≠ .standby → ∃ t, exec (.debugFell seq port) s = .next t ∧
      DebugAnswered s t port 3 seq 0 [] ∧ (s.fell.st = 0 → t.fell.st = 1 ∧ t.fell.reason = 0xFF02#16 ∧ t.fell.source = 3)) ∧
    (romOnly s = true ∨ s.mod.op = .start ∨ s.mod.op = .standby → DebugRefused (.debugFell seq port) s port 3 seq 3) ∧
    (s.fell.st = 2 → s.mod.haltN = true → ∃ t, exec (.debugResume seq port) s = .next t ∧ DebugAnswered s t port 4 seq 0 [] ∧
      t.fell.st = 3) ∧
    (s.fell.st ≠ 2 ∨ s.mod.haltN = false → DebugRefused (.debugResume seq port) s port 4 seq 3) ∧
    (∀ (arg : W32), (s.mod.op ≠ .test → DebugRefused (.tagRead arg seq port) s port 5 seq 3) ∧
      (s.mod.op = .test → 2 ^ 20 ≤ arg.toNat → DebugRefused (.tagRead arg seq port) s port 5 seq 4) ∧
      (s.mod.op = .test → arg.toNat < 2 ^ 20 → ∃ t, exec (.tagRead arg seq port) s = .next t ∧ t.mem = s.mem ∧
        DebugAnswered s t port 5 seq 0 (leBytes 16 (tagEntry s (16 * bits arg.toNat 2 0 + bits arg.toNat 6 3)
          (bits arg.toNat 15 7) (bits arg.toNat 19 16)))))) ∧
  (s.fell.st < 256 → ∃ t w, exec (.status seq port) s = .next t ∧ DebugAnswered s t port 6 seq 0 (leBytes 8 w) ∧
    w % 256 = opCode s.mod.op ∧ w / 2 ^ 8 % 256 = s.fell.st ∧ w / 2 ^ 16 % 2 = (if s.dbg.opened then 1 else 0) ∧
    w / 2 ^ 17 % 2 = (if s.mod.phase = .romRecovery then 1 else 0)) ∧
  (s.now < s.dbg.lockedUntil → DebugRefused (.challenge seq port) s port 7 seq 5) ∧
  (s.dbg.lockedUntil ≤ s.now → ∃ t n, exec (.challenge seq port) s = .next t ∧ n.length = 32 ∧ t.dbg.nonce = some (n, s.now) ∧
    DebugAnswered s t port 7 seq 0 n) ∧
  (∀ data, (data.length ≠ 1152 → DebugRefused (.unlock seq port data) s port 8 seq 4) ∧
    (data.length = 1152 → ∃ t, exec (.unlock seq port data) s = .next t ∧ t.dbg.nonce = none ∧
      (unlockOk s data = true → t.dbg.opened = true ∧ t.trust.debugSeen = true ∧ DebugAnswered s t port 8 seq 0 []) ∧
      (unlockOk s data = false → t.dbg.opened = s.dbg.opened ∧ DebugAnswered s t port 8 seq 2 [] ∧
        (2 ≤ s.dbg.fails → t.dbg.lockedUntil = s.now + 10000000000 ∧ t.dbg.fails = 0) ∧
        (s.dbg.fails < 2 → t.dbg.fails = s.dbg.fails + 1)))) ∧
  (∀ data, unlockOk s data = true → ∃ n at_, s.dbg.nonce = some (n, at_) ∧ s.now ≤ at_ + 60000000000) ∧
  (∀ p cause c t, c ∈ [Instr.enterStart p, .wakeFromStandby p, .moduleResetRequest p, .moduleReset, .turnOff cause] →
    exec c s = .next t → s.mod.op ≠ .start → t.mod.op = .start → t.dbg.opened = false) ∧
  (s.dbg.lockedUntil ≠ 0 → s.dbg.lockedUntil ≤ s.now → ∃ t, exec .unlockLockoutEnd s = .next t ∧ t.dbg.lockedUntil = 0 ∧
    t.dbg.opened = s.dbg.opened)

/-- R481, R482, Table 18.7: a pass through DBG_MSG takes a response word and appends a request word; a whole request, or a whole
UART frame, acts as the operation that its header names; the TAP's other registers act while debug is open, and a test-logic reset lets them go. -/
def Obligations.TheTapAndTheUartCarryDebugRequests : Prop :=
  ∀ (s : State), moduleOn s = true →
  (∀ (v : BitVec 34) (s1 : State) (ws : List W32), s1 = { s with
      dbg := { s.dbg with ir := 0x10#8, resp := s.dbg.resp.drop 1, req := ws }, out := .tap (msgCapture s.dbg) :: s.out } →
    (requestWhole s.dbg.req = true ∧ ws = s.dbg.req) ∨ (requestWhole s.dbg.req = false ∧ v.getLsbD 33 = true ∧
      ws = s.dbg.req ++ [v.truncate 32] ∧ requestWhole ws = true) →
    ∀ h (seq : W16), h = leNat ((wordBytes ws).take 16) → seq = BitVec.ofNat 16 (bits h 47 32) →
    bits h 103 96 = 0 → bits h 119 104 ≤ 1152 → ∀ op c,
      (op, c) ∈ ([(1, .debugRead (BitVec.ofNat 48 (bits h 95 48)) (BitVec.ofNat 16 (bits h 119 104)) seq .jtag),
        (2, .debugWrite (BitVec.ofNat 48 (bits h 95 48)) seq .jtag (((wordBytes ws).drop 16).take (bits h 119 104))),
        (3, .debugFell seq .jtag), (4, .debugResume seq .jtag), (5, .tagRead (BitVec.ofNat 32 h) seq .jtag), (6, .status seq .jtag),
        (7, .challenge seq .jtag), (8, .unlock seq .jtag (((wordBytes ws).drop 16).take (bits h 119 104)))] : List (Nat × Instr)) →
      bits h 127 120 = op → exec (.dbgMsg v) s = exec c s1) ∧
  (∀ v : BitVec 34, v.getLsbD 33 = false → requestWhole s.dbg.req = false → ∃ t, exec (.dbgMsg v) s = .next t ∧
    t.out = .tap (msgCapture s.dbg) :: s.out ∧ t.dbg.resp = s.dbg.resp.drop 1 ∧ t.dbg.req = s.dbg.req ∧ t.mem = s.mem) ∧
  (∀ v : BitVec 34, v.getLsbD 33 = true → requestWhole s.dbg.req = false →
    requestWhole (s.dbg.req ++ [v.truncate 32]) = false → ∃ t, exec (.dbgMsg v) s = .next t ∧
    t.out = .tap (msgCapture s.dbg) :: s.out ∧ t.dbg.req = s.dbg.req ++ [v.truncate 32] ∧ t.mem = s.mem) ∧
  (∀ body crc, crc32 body ≠ crc ∨ leNat (body.take 2) + 2 ≠ body.length ∨ body.length < 18 →
    exec (.uartFrame body crc) s = .next s) ∧
  (∀ body crc h (seq : W16) data, crc32 body = crc → leNat (body.take 2) + 2 = body.length → 18 ≤ body.length →
    h = leNat ((body.drop 2).take 16) → seq = BitVec.ofNat 16 (bits h 47 32) → data = body.drop 18 →
    (data.length ≠ debugDataLen h → DebugRefused (.uartFrame body crc) s .uart (bits h 127 120) seq 4) ∧
    (data.length = debugDataLen h → bits h 103 96 = 0 → bits h 119 104 ≤ 1152 → ∀ op c,
      (op, c) ∈ ([(1, .debugRead (BitVec.ofNat 48 (bits h 95 48)) (BitVec.ofNat 16 (bits h 119 104)) seq .uart),
        (2, .debugWrite (BitVec.ofNat 48 (bits h 95 48)) seq .uart data), (3, .debugFell seq .uart), (4, .debugResume seq .uart),
        (5, .tagRead (BitVec.ofNat 32 h) seq .uart), (6, .status seq .uart), (7, .challenge seq .uart),
        (8, .unlock seq .uart data)] : List (Nat × Instr)) →
      bits h 127 120 = op → exec (.uartFrame body crc) s = exec c s)) ∧
  (∀ v : Byte, ∃ t, exec (.chainSel v) s = .next t ∧ t.dbg.ir = 0x11#8 ∧
    t.dbg.chain = (if s.dbg.opened then v &&& 0x3F#8 else s.dbg.chain) ∧ t.mem = s.mem) ∧
  (∀ v : W64, (s.dbg.opened = false → ∃ t, exec (.tapTenonTest v) s = .next t ∧ t.dbg.ir = 0x12#8 ∧ t.dict = s.dict ∧
      t.test = s.test ∧ t.out = s.out) ∧
    (s.dbg.opened = true → s.mod.op ≠ .test → ∃ t, exec (.tapTenonTest v) s = .next t ∧ t.dict = s.dict ∧ t.test = s.test ∧
      t.out = .tap 0 :: s.out) ∧
    (s.dbg.opened = true → s.mod.op = .test → bits v.toNat 7 0 ≤ 9 → bits v.toNat 15 8 ≤ 2 → 0 < bits v.toNat 47 16 →
      bits v.toNat 47 16 ≤ 60000 → v.getLsbD 48 = false → ∃ t, exec (.tapTenonTest v) s = .next t ∧
        odNat t 0xB010 1 = bits v.toNat 7 0 ∧ odNat t 0xB010 2 = bits v.toNat 15 8 ∧ odNat t 0xB010 3 = bits v.toNat 47 16 ∧
        t.dbg.lane = bits v.toNat 63 49 ∧ t.test = s.test)) ∧
  (∃ t, exec .testLogicReset s = .next t ∧ t.dbg.ir = 1#8 ∧ t.dbg.chain = 0#8 ∧ t.dbg.drive = none ∧ t.mem = s.mem) ∧
  (∀ cells : BitVec 13, ∃ t w, exec (.extest cells) s = .next t ∧ t.dbg.ir = 3#8 ∧ t.dbg.drive = some cells ∧
    t.out = .pin "UART_TX" (cells.getLsbD 11) :: .pin "ALERT_N" (cells.getLsbD 5) :: .tap w :: s.out)


/-! ## Rules of one sentence -/

/-- R44: p7 reads as 1 in every lane, and a write to it is discarded; a compare whose destination is p7 leaves every predicate. -/
def Obligations.PredicateSevenReadsAsOneAndDiscardsWrites : Prop :=
  (∀ (wh : Whorl) (l : Nat), wh.pget l 7 = true) ∧
  (∀ (wh : Whorl) (f : Nat → Bool) (ls : List Nat), wh.psetAll 7 f ls = wh) ∧
  (∀ (w : Wid) (s : State) (f : FReg) (wh : Whorl) (p : Path) (s1 : State), legalSetp f = true → f.d = 7#7 →
    ∀ (c : FCmp → Instr) fn, (c, fn) ∈ [(Instr.eq w, 0x00), (.ne w, 0x01), (.lt w, 0x02), (.le w, 0x03)] →
    Issues s w true (regWord ⟨0x0D, fn⟩ f) (regsOf (regWide f) [f.a, f.b]) wh p s1 → ∃ t wh', exec (c (.setp f)) s = .next t ∧ whorlOf t w = some wh' ∧ ∀ l r, wh'.pget l r = wh.pget l r)

/-- R61: a collective, a shuffle, a vote or a tile collective, under a guard other than p7, or with an empty mask, is illegal and faults its context with code 1. -/
def Obligations.CollectivesNeedGuardSevenAndAMember : Prop :=
  ∀ (w : Wid) (s : State) (f : FCol) (wh : Whorl) (p : Path) (s1 : State) (ctx : Nat), RunsFor s w ctx →
  (guardAll f.gn f.gp = false ∨ (f.ms = 0#1 ∧ f.mask = 0#16) → ∀ c code, (c, code) ∈ [(Instr.shflPick w f, ⟨0x20, 0x00⟩), (.shflRot w f, ⟨0x20, 0x01⟩), (.shflSwap w f, ⟨0x20, 0x02⟩), (.shflLead w f, ⟨0x20, 0x03⟩),
      (.voteAny w f, ⟨0x21, 0x00⟩), (.voteAll w f, ⟨0x21, 0x01⟩), (.voteBallot w f, ⟨0x21, 0x02⟩)] →
    Issues s w true (colWord code f) [] wh p s1 → ∃ t, exec c s = .next t ∧ FaultedWith t w ctx 1) ∧
  (guardAll f.gn f.gp = true → maskFieldOk f.ms f.mask = true → memberMask wh f.ms f.mask = 0#16 →
    (legalShfl f = true → ∀ c fn, (c, fn) ∈ [(Instr.shflPick w f, 0x00), (.shflRot w f, 0x01), (.shflSwap w f, 0x02), (.shflLead w f, 0x03)] →
      Issues s w true (colWord ⟨0x20, fn⟩ f)
        ([f.d, f.a].flatMap (regKeys 1) ++ (if f.di = 1#1 then [] else regKeys 1 f.b) ++ maskKeys f.ms f.mask) wh p s1 → ∃ t, exec c s = .next t ∧ FaultedWith t w ctx 1) ∧
    (legalVote f false = true → ∀ c fn, (c, fn) ∈ [(Instr.voteAny w f, 0x00), (.voteAll w f, 0x01)] →
      Issues s w true (colWord ⟨0x21, fn⟩ f) (maskKeys f.ms f.mask) wh p s1 → ∃ t, exec c s = .next t ∧ FaultedWith t w ctx 1) ∧
    (legalVote f true = true → Issues s w true (colWord ⟨0x21, 0x02⟩ f) (regKeys 1 f.d ++ maskKeys f.ms f.mask) wh p s1 →
      ∃ t, exec (.voteBallot w f) s = .next t ∧ FaultedWith t w ctx 1)) ∧
  (∀ (g : FTile) (c : Instr) (k : TileKind) op, (c, k, op) ∈ [(Instr.tileMac w g, TileKind.mac, 0x28), (Instr.tileSeq w g, TileKind.seq, 0x29),
      (Instr.tileSt w g, TileKind.st, 0x2B), (Instr.tileL w g, TileKind.fold, 0x2A)] →
    (guardAll g.gn g.gp = false ∨ (g.ms = 0#1 ∧ g.mask = 0#16) → Issues s w false (tileWord ⟨op, 0x00⟩ g) [] wh p s1 → ∃ t, exec c s = .next t ∧ FaultedWith t w ctx 1) ∧
    (guardAll g.gn g.gp = true → maskFieldOk g.ms g.mask = true → legalTile k g = true → (k = .fold → sn2Mode s w = true) →
      memberMask wh g.ms g.mask = 0#16 →
      Issues s w false (tileWord ⟨op, 0x00⟩ g) ([g.a, g.b, g.c].flatMap (fun r => if isU r then regKeys 1 r else []) ++ maskKeys g.ms g.mask) wh p s1 →
      ∃ t, exec c s = .next t ∧ FaultedWith t w ctx 1))

/-! ## The block -/

/-- A step runs the command at the front of the queue on the state with the queue's rest; on an empty queue the block idles (the
model's choice, log entry 1). -/
def Obligations.AStepRunsTheFrontCommand : Prop :=
  (∀ (c : Instr) (rest : List Instr) (s : State), s.pending = c :: rest → step s = exec c { s with pending := rest }) ∧
  (∀ (c : Instr) (rest : List Instr) (s : State),
    step { s with pending := c :: rest } = exec c { s with pending := rest }) ∧
  (∀ s : State, s.pending = [] → step s = .next s)

/-- R4, R444, R459, R473, R481, R483: the state right after power-on release, and the invariants of the next two statements hold in it.
The queue, the pins and registers without a stated reset value are the model's choice (log entries 1, 5 and 7). -/
def Obligations.ResetLeavesTheBlockInStart : Prop :=
  State.reset.pending = [] ∧ State.reset.mod.op = .start ∧ State.reset.mod.phase = .released ∧ State.reset.mod.cause = 1 ∧
  State.reset.mod.time = 0#64 ∧ State.reset.fell.st = 0 ∧ State.reset.felled = false ∧ State.reset.dict.peg = none ∧
  State.reset.dict.staged = [] ∧ State.reset.flog.count = 0 ∧ State.reset.flog.entries = [] ∧ alertAsserted State.reset = false ∧
  State.reset.obs.epochSh = 0 ∧ State.reset.dbg.opened = false ∧ State.reset.dbg.ir = 1#8 ∧ State.reset.dbg.chain = 0#8 ∧
  (State.reset.dom 76).st = .on ∧ (∀ g, g ≠ 76 → (State.reset.dom g).st = .off) ∧ State.reset.cores = [] ∧
  State.reset.memWf = true ∧ State.reset.pendingWf = true ∧ State.reset.reqIds = true ∧
  State.reset.mem.dram = [] ∧ State.reset.mem.store = [] ∧ State.reset.mem.scratch = []

/-- Every step takes the front command and adds none, so that the queue stays well formed; R415: no step lowers the generation. -/
def Obligations.EveryStepTakesOneCommandAndKeepsTheGeneration : Prop :=
  ∀ (s t : State), s.pendingWf = true → step s = .next t →
    t.pending = s.pending.tail ∧ t.pendingWf = true ∧ s.dict.generation ≤ t.dict.generation

/-- Every step keeps each memory of the module in its canonical form: addresses strictly rising, no entry equal to what an unlisted
address reads as. -/
def Obligations.EveryStepKeepsMemoryCanonical : Prop :=
  ∀ (s t : State), s.memWf = true → step s = .next t → t.memWf = true
end

