-- ==== Sys2Proof/Laws/Maps.lean ====
section
/-! SUPPORT. Sparse maps and byte memories: what a read after a write gives, and the canonical form of memories. -/

namespace Sys2Proof.Machine

/-! ## Sparse maps -/

@[simp] theorem fget_fset_self {V : Type} (m : FMap V) (n : Nat) (v : V) : fget (fset m n v) n = some v := by
  induction m with
  | nil => simp [fset, fget]
  | cons e r ih =>
    obtain ⟨k, w⟩ := e
    simp only [fset]
    split
    · simp [fget]
    · split
      · simp [fget]
      · rename_i h1 h2
        simp [fget, h1, h2, ih]

theorem fget_fset_ne {V : Type} (m : FMap V) {n k : Nat} (v : V) (h : k ≠ n) : fget (fset m n v) k = fget m k := by
  induction m with
  | nil => simp [fset, fget, h]
  | cons e r ih =>
    obtain ⟨j, w⟩ := e
    simp only [fset]
    split
    · rename_i h1; subst h1; simp [fget, h]
    · split
      · rename_i h1 h2
        simp only [fget, h, if_false]
        split
        · have a : k ≠ j := by omega
          have b : k < j := by omega
          simp [a, b]
        · rfl
      · simp only [fget, ih]

theorem fget_fset {V : Type} (m : FMap V) (n k : Nat) (v : V) :
    fget (fset m n v) k = if k = n then some v else fget m k := by
  split
  · rename_i h; subst h; simp
  · rename_i h; exact fget_fset_ne m v h

@[simp] theorem fgetD_fset_self {V : Type} (m : FMap V) (n : Nat) (v d : V) : fgetD (fset m n v) n d = v := by simp [fgetD]

theorem fgetD_fset_ne {V : Type} (m : FMap V) {n k : Nat} (v d : V) (h : k ≠ n) :
    fgetD (fset m n v) k d = fgetD m k d := by simp [fgetD, fget_fset_ne m v h]

theorem fgetD_fset {V : Type} (m : FMap V) (n k : Nat) (v d : V) :
    fgetD (fset m n v) k d = if k = n then v else fgetD m k d := by
  unfold fgetD
  rw [fget_fset]
  split <;> rfl

theorem fgetD_of_fget {V : Type} {m : FMap V} {n : Nat} {v : V} (d : V) (h : fget m n = some v) : fgetD m n d = v := by
  simp [fgetD, h]

/-! ## Ascending lists of numbers -/

@[simp] theorem mem_insAsc (l : List Nat) (n k : Nat) : k ∈ insAsc l n ↔ k = n ∨ k ∈ l := by
  induction l with
  | nil => simp [insAsc]
  | cons a r ih =>
    simp only [insAsc]
    split
    · rename_i h; subst h; simp
    · split
      · simp
      · simp [ih, or_left_comm]

@[simp] theorem mem_addNew (l : List Nat) (n k : Nat) : k ∈ addNew l n ↔ k = n ∨ k ∈ l := by
  unfold addNew
  split
  · rename_i h
    have : n ∈ l := by simpa using h
    constructor
    · exact Or.inr
    · rintro (rfl | h) <;> assumption
  · simp [or_comm]

/-! ## Byte memories -/

theorem wfFrom_mono {m : Mem} {lo lo' : Nat} (h : Memory.wfFrom lo m = true) (hl : lo' ≤ lo) : Memory.wfFrom lo' m = true := by
  cases m with
  | nil => rfl
  | cons e r =>
    obtain ⟨k, c⟩ := e
    simp only [Memory.wfFrom, Bool.and_eq_true, decide_eq_true_eq] at h ⊢
    exact ⟨⟨by omega, h.1.2⟩, h.2⟩

/-- Below the first listed address every byte is 0. -/
theorem mget_below {m : Mem} {lo a : Nat} (h : Memory.wfFrom lo m = true) (ha : a < lo) : mget m a = 0#8 := by
  cases m with
  | nil => rfl
  | cons e r =>
    obtain ⟨k, c⟩ := e
    simp only [Memory.wfFrom, Bool.and_eq_true, decide_eq_true_eq] at h
    have h1 : a ≠ k := by omega
    have h2 : a < k := by omega
    simp [mget, h1, h2]

theorem wfFrom_mset {m : Mem} {lo a : Nat} (b : Byte) (h : Memory.wfFrom lo m = true) (ha : lo ≤ a) :
    Memory.wfFrom lo (mset m a b) = true := by
  induction m generalizing lo with
  | nil =>
    simp only [mset]
    split
    · rfl
    · rename_i hb; simp [Memory.wfFrom, ha, hb]
  | cons e r ih =>
    obtain ⟨k, c⟩ := e
    simp only [Memory.wfFrom, Bool.and_eq_true, decide_eq_true_eq] at h
    simp only [mset]
    split
    · rename_i hk
      subst hk
      split
      · exact wfFrom_mono h.2 (by omega)
      · rename_i hb; simp [Memory.wfFrom, ha, hb, h.2]
    · split
      · split
        · simp [Memory.wfFrom, h.1.1, h.1.2, h.2]
        · rename_i h1 h2 hb
          simp only [Memory.wfFrom, Bool.and_eq_true, decide_eq_true_eq]
          exact ⟨⟨ha, hb⟩, ⟨by omega, h.1.2⟩, h.2⟩
      · rename_i h1 h2
        simp only [Memory.wfFrom, Bool.and_eq_true, decide_eq_true_eq]
        exact ⟨h.1, ih h.2 (by omega)⟩

theorem mget_mset_from {m : Mem} {lo : Nat} (a x : Nat) (b : Byte) (h : Memory.wfFrom lo m = true) :
    mget (mset m a b) x = if x = a then b else mget m x := by
  induction m generalizing lo with
  | nil =>
    simp only [mset]
    by_cases hb : b = 0#8 <;> by_cases hx : x = a <;> simp [hb, hx, mget]
  | cons e r ih =>
    obtain ⟨k, c⟩ := e
    simp only [Memory.wfFrom, Bool.and_eq_true, decide_eq_true_eq] at h
    simp only [mset]
    split
    · rename_i hk
      subst hk
      by_cases hx : x = a
      · subst hx
        by_cases hb : b = 0#8
        · simp [hb, mget_below h.2 (Nat.lt_succ_self x)]
        · simp [hb, mget]
      · by_cases hb : b = 0#8
        · simp only [hb, if_true, hx, if_false, mget]
          split
          · rename_i hlt; exact mget_below h.2 (by omega)
          · rfl
        · simp [hb, mget, hx]
    · rename_i hk
      split
      · rename_i hlt
        by_cases hb : b = 0#8
        · by_cases hx : x = a
          · subst hx; simp [hb, mget, hk, hlt]
          · simp [hb, hx]
        · by_cases hx : x = a
          · simp [hb, hx, mget]
          · simp only [hb, if_false, mget, hx]
            by_cases h3 : x < a
            · have h4 : x ≠ k := by omega
              have h5 : x < k := by omega
              simp [h3, h4, h5]
            · simp [h3]
      · rename_i hlt
        by_cases hx : x = a
        · subst hx; simp [mget, hk, hlt, ih h.2]
        · simp only [mget, ih h.2, hx, if_false]

/-- A byte read after a byte written: the byte written where the addresses agree, else what stood there. -/
theorem mget_mset {m : Mem} (a x : Nat) (b : Byte) (h : Memory.wf m = true) :
    mget (mset m a b) x = if x = a then b else mget m x := mget_mset_from a x b h

@[simp] theorem wf_nil : Memory.wf [] = true := rfl

theorem wf_mset {m : Mem} (a : Nat) (b : Byte) (h : Memory.wf m = true) : Memory.wf (mset m a b) = true :=
  wfFrom_mset b h (Nat.zero_le a)

theorem wf_mwrite {m : Mem} (a : Nat) (bs : List Byte) (h : Memory.wf m = true) : Memory.wf (mwrite m a bs) = true := by
  induction bs generalizing m a with
  | nil => exact h
  | cons b bs ih => exact ih (a + 1) (wf_mset a b h)

theorem wf_mmerge {m : Mem} (cells : List Host.Cell) (h : Memory.wf m = true) : Memory.wf (mmerge m cells) = true := by
  unfold mmerge
  induction cells generalizing m with
  | nil => exact h
  | cons c cs ih => exact ih (wf_mset c.1 c.2 h)

theorem wfFrom_filter {m : Mem} {lo : Nat} (p : Host.Cell → Bool) (h : Memory.wfFrom lo m = true) :
    Memory.wfFrom lo (m.filter p) = true := by
  induction m generalizing lo with
  | nil => rfl
  | cons e r ih =>
    obtain ⟨k, c⟩ := e
    simp only [Memory.wfFrom, Bool.and_eq_true, decide_eq_true_eq] at h
    simp only [List.filter]
    split
    · simp only [Memory.wfFrom, Bool.and_eq_true, decide_eq_true_eq]
      exact ⟨h.1, ih h.2⟩
    · exact ih (wfFrom_mono h.2 (by omega))

theorem wf_filter {m : Mem} (p : Host.Cell → Bool) (h : Memory.wf m = true) : Memory.wf (m.filter p) = true :=
  wfFrom_filter p h

theorem wf_mzero {m : Mem} (a n : Nat) (h : Memory.wf m = true) : Memory.wf (mzero m a n) = true := wf_filter _ h

/-- A byte outside the bytes stored reads as before. -/
theorem mget_mwrite_out {m : Mem} (a x : Nat) (bs : List Byte) (h : Memory.wf m = true) (hx : x < a ∨ a + bs.length ≤ x) :
    mget (mwrite m a bs) x = mget m x := by
  induction bs generalizing m a with
  | nil => rfl
  | cons b bs ih =>
    simp only [List.length_cons] at hx
    rw [mwrite, ih (a + 1) (wf_mset a b h) (by omega), mget_mset a x b h]
    have : x ≠ a := by omega
    simp [this]

/-- A byte stored reads back. -/
theorem mget_mwrite_in {m : Mem} (a i : Nat) (bs : List Byte) (h : Memory.wf m = true) (hi : i < bs.length) :
    mget (mwrite m a bs) (a + i) = bs[i] := by
  induction bs generalizing m a i with
  | nil => simp at hi
  | cons b bs ih =>
    cases i with
    | zero =>
      rw [mwrite, mget_mwrite_out (a + 1) _ bs (wf_mset a b h) (Or.inl (by omega)), mget_mset a _ b h]
      simp
    | succ i =>
      have := ih (a + 1) i (wf_mset a b h) (by simpa using hi)
      rw [mwrite]
      simpa [Nat.add_assoc, Nat.add_comm 1 i] using this

theorem mget_filter_from {m : Mem} {lo : Nat} (p : Nat → Bool) (x : Nat) (h : Memory.wfFrom lo m = true) :
    mget (m.filter fun e => p e.1) x = if p x then mget m x else 0#8 := by
  induction m generalizing lo with
  | nil => simp [mget]
  | cons e r ih =>
    obtain ⟨k, c⟩ := e
    simp only [Memory.wfFrom, Bool.and_eq_true, decide_eq_true_eq] at h
    simp only [List.filter]
    by_cases hp : p k
    · simp only [hp]
      by_cases hx : x = k
      · subst hx; simp [mget, hp]
      · simp only [mget, hx, if_false, ih h.2]
        split
        · simp
        · rfl
    · simp only [hp]
      by_cases hx : x = k
      · subst hx
        rw [ih h.2]; simp [hp]
      · simp only [ih h.2, mget, hx, if_false]
        by_cases hlt : x < k
        · simp [hlt, mget_below h.2 (show x < k + 1 by omega)]
        · simp [hlt]

/-- What a zeroed range reads as. -/
theorem mget_mzero {m : Mem} (a n x : Nat) (h : Memory.wf m = true) :
    mget (mzero m a n) x = if a ≤ x ∧ x < a + n then 0#8 else mget m x := by
  unfold mzero
  rw [mget_filter_from (fun k => decide (k < a) || decide (a + n ≤ k)) x h]
  by_cases h1 : x < a
  · have : ¬(a ≤ x ∧ x < a + n) := by omega
    simp [h1, this]
  · by_cases h2 : a + n ≤ x
    · have : ¬(a ≤ x ∧ x < a + n) := by omega
      simp [h2, this]
    · have : a ≤ x ∧ x < a + n := by omega
      simp [h1, h2, this]

end Sys2Proof.Machine
end

