-- ==== Sys2Proof/Laws/Issue.lean ====
section
/-! SUPPORT. What the issue of an instruction can do, said once: the paths settle and nothing else, the registers a result goes
to, and the whole state around the whorl. -/

namespace Sys2Proof.Machine

/-! ## Whorls in the state -/

@[simp] theorem core_setCore_self (s : State) (c : Nat) (k : Core) : (s.setCore c k).core c = k := by
  simp [State.core, State.setCore]

theorem core_setCore_ne (s : State) {c d : Nat} (k : Core) (h : d ≠ c) : (s.setCore c k).core d = s.core d := by
  simp [State.core, State.setCore, fgetD_fset_ne _ _ _ h]

@[simp] theorem whorlOf_putWhorl (s : State) (w : Wid) (wh : Whorl) : whorlOf (putWhorl s w wh) w = some wh := by
  simp [whorlOf, putWhorl]

@[simp] theorem core_count (s : State) (b i n c : Nat) : (count s b i n).core c = s.core c := rfl

theorem core_setDom (s : State) (g : Nat) (d : Dom) (c : Nat) : (s.setDom g d).core c = s.core c := rfl

/-- An issue is counted outside the cores, but for the round robin of the SIMT slot. -/
theorem core_countIssue (s : State) (w : Wid) (n : Nat) (b : Bool) (c : Nat) :
    (countIssue s w n b).core c = if b ∧ c = w.core then { s.core c with simtRr := w.slot } else s.core c := by
  unfold countIssue
  cases b
  · simp [core_setDom]
  · by_cases h : c = w.core
    · subst h; simp [core_setDom]
    · simp [core_setDom, core_setCore_ne _ _ h, h]

@[simp] theorem whorlOf_countIssue (s : State) (w v : Wid) (n : Nat) (b : Bool) :
    whorlOf (countIssue s w n b) v = whorlOf s v := by
  unfold whorlOf
  rw [core_countIssue]
  split <;> rfl

/-! ## The paths settle -/

theorem PathsOnly.refl (wh : Whorl) : PathsOnly wh wh := rfl

theorem PathsOnly.trans {a b c : Whorl} (h1 : PathsOnly a b) (h2 : PathsOnly b c) : PathsOnly a c := by
  unfold PathsOnly at *
  rw [h2, h1]

theorem PathsOnly.setPath (wh : Whorl) (p : Path) : PathsOnly wh (wh.setPath p) := rfl

theorem PathsOnly.settle (n : Nat) (wh : Whorl) : PathsOnly wh (settle n wh) := by
  induction n generalizing wh with
  | zero => rfl
  | succ n ih =>
    simp only [Machine.settle]
    split
    · rfl
    · exact PathsOnly.trans (by rfl) (ih _)

theorem PathsOnly.switchPath (wh : Whorl) : PathsOnly wh (switchPath wh) := by
  unfold Machine.switchPath
  split <;> rfl

theorem PathsOnly.afterIssue (wh : Whorl) : PathsOnly wh (afterIssue wh) := by
  unfold Machine.afterIssue
  extract_lets wh1 wh2
  have h1 : PathsOnly wh wh1 := by
    unfold wh1
    repeat' split
    all_goals rfl
  have h2 : PathsOnly wh wh2 := h1.trans (PathsOnly.settle 24 wh1)
  split
  · split
    · exact h2
    · exact h2.trans (PathsOnly.switchPath wh2)
  · exact h2.trans (PathsOnly.switchPath wh2)

theorem PathsOnly.giveWay (wh : Whorl) (n : Nat) : PathsOnly wh (giveWay wh n) := by
  unfold Machine.giveWay
  split
  · exact PathsOnly.switchPath wh
  · rfl

theorem PathsOnly.stepPath (wh : Whorl) (n : Nat) : PathsOnly wh (stepPath wh n) := by
  unfold Machine.stepPath
  split <;> rfl

theorem PathsOnly.mergeAtIssue (wh : Whorl) (p : Path) : PathsOnly wh (mergeAtIssue wh p) := by
  unfold Machine.mergeAtIssue
  split <;> rfl

theorem PathsOnly.issued (wh : Whorl) : PathsOnly wh wh.issued := rfl

theorem PathsOnly.closeWhorl (wh : Whorl) (n : Nat) (adv away : Bool) : PathsOnly wh (closeWhorl wh n adv away) := by
  unfold Machine.closeWhorl
  extract_lets wh1
  have h : PathsOnly wh wh1 := by
    refine PathsOnly.trans ?_ (PathsOnly.afterIssue _)
    refine PathsOnly.trans ?_ (PathsOnly.issued _)
    cases adv
    · exact PathsOnly.refl wh
    · exact PathsOnly.stepPath wh n
  split
  · exact h.trans (PathsOnly.giveWay wh1 n)
  · exact h

/-! ## Only the whorl -/

theorem OnlyWhorl.putWhorl (s : State) (w : Wid) (wh : Whorl) : OnlyWhorl s (putWhorl s w wh) w := by
  refine ⟨rfl, ?_, ?_, ?_⟩
  · intro c h; exact core_setCore_ne _ _ h
  · simp [Machine.putWhorl]
  · intro n h; simp [Machine.putWhorl, fget_fset_ne _ _ h]

theorem OnlyWhorl.trans {a b c : State} {w : Wid} (h1 : OnlyWhorl a b w) (h2 : OnlyWhorl b c w) : OnlyWhorl a c w := by
  obtain ⟨e1, f1, g1, k1⟩ := h1
  obtain ⟨e2, f2, g2, k2⟩ := h2
  refine ⟨?_, fun d h => (f2 d h).trans (f1 d h), ?_, fun n h => (k2 n h).trans (k1 n h)⟩
  · rw [e2, e1]
  · rw [g2, g1]

theorem OnlyWhorl.countIssue (s : State) (w : Wid) (n : Nat) (b : Bool) : OnlyWhorl s (countIssue s w n b) w := by
  refine ⟨?_, fun c h => by simp [core_countIssue, h], ?_, fun _ _ => ?_⟩
  · unfold Machine.countIssue
    cases b <;> rfl
  · rw [core_countIssue]
    split <;> rfl
  · rw [core_countIssue]
    split <;> rfl

/-- Closing an issue moves the paths of its whorl and counts it. -/
theorem closeIssue_spec {s : State} {w : Wid} {wh : Whorl} (pid : Nat) (adv away simt : Bool) (n : Nat)
    (h : whorlOf s w = some wh) :
    whorlOf (closeIssue s w pid adv away simt n) w = some (closeWhorl wh pid adv away) ∧
      OnlyWhorl s (closeIssue s w pid adv away simt n) w := by
  simp only [closeIssue, h]
  exact ⟨by simp, (OnlyWhorl.putWhorl s w _).trans (OnlyWhorl.countIssue _ _ _ _)⟩

theorem closeIssue_next {s : State} {w : Wid} {wh : Whorl} (p : Path) (simt : Bool) (n : Nat) (h : whorlOf s w = some wh) :
    ClosesNext s (closeIssue s w p.pid true false simt n) w p wh := closeIssue_spec p.pid true false simt n h

theorem closeIssue_jump {s : State} {w : Wid} {wh : Whorl} (p : Path) (simt : Bool) (n : Nat) (h : whorlOf s w = some wh) :
    ClosesJump s (closeIssue s w p.pid false false simt n) w p wh := closeIssue_spec p.pid false false simt n h

/-! ## The issue -/

/-- A legal instruction that issues does what its body says, and the issue closes. -/
theorem issueInstr_next {s s1 s2 : State} {w : Wid} {simt : Bool} {code : W64} {gn : BitVec 1} {gp : BitVec 3} {keys : List Nat} {wh : Whorl}
    {p : Path} {body : State → Whorl → Path → Done} (h : Issues s w simt code keys wh p s1) (hb : body s1 wh p = .next s2) :
    issueInstr s w simt code gn gp true keys body = closeIssue s2 w p.pid true false simt (execLanes wh p gn gp).length := by
  obtain ⟨⟨wh0, c, hr, rfl⟩, hc, hf, hd, hk⟩ := h
  simp [issueInstr, hr, hc, hf, hd, hk, hb]

theorem issueInstr_jumped {s s1 s2 : State} {w : Wid} {simt : Bool} {code : W64} {gn : BitVec 1} {gp : BitVec 3} {keys : List Nat} {wh : Whorl}
    {p : Path} {body : State → Whorl → Path → Done} (h : Issues s w simt code keys wh p s1) (hb : body s1 wh p = .jumped s2) :
    issueInstr s w simt code gn gp true keys body = closeIssue s2 w p.pid false false simt (execLanes wh p gn gp).length := by
  obtain ⟨⟨wh0, c, hr, rfl⟩, hc, hf, hd, hk⟩ := h
  simp [issueInstr, hr, hc, hf, hd, hk, hb]

/-- A faulting instruction raises its fault at the path's program counter. -/
theorem issueInstr_fault {s s1 s2 : State} {w : Wid} {simt : Bool} {code : W64} {gn : BitVec 1} {gp : BitVec 3} {keys : List Nat} {wh : Whorl}
    {p : Path} {i : FaultInfo} {body : State → Whorl → Path → Done} (h : Issues s w simt code keys wh p s1)
    (hb : body s1 wh p = .fault i s2) : issueInstr s w simt code gn gp true keys body = faultWhorl s2 w p.pc i := by
  obtain ⟨⟨wh0, c, hr, rfl⟩, hc, hf, hd, hk⟩ := h
  simp [issueInstr, hr, hc, hf, hd, hk, hb]

/-- An instruction whose fields are illegal raises code 1 for every lane of its path (R79). -/
theorem issueInstr_illegal {s s1 : State} {w : Wid} {simt : Bool} {code : W64} {gn : BitVec 1} {gp : BitVec 3} {keys : List Nat} {wh : Whorl}
    {p : Path} {body : State → Whorl → Path → Done} (h : Issues s w simt code keys wh p s1) :
    issueInstr s w simt code gn gp false keys body =
      faultWhorl s1 w p.pc { code := 1, lanes := p.lanes, kind := 0, addr := 0, other := 0 } := by
  obtain ⟨⟨wh0, c, hr, rfl⟩, hc, hf, hd, hk⟩ := h
  simp [issueInstr, hr, hc, hf, hd]

/-- An instruction that only changes registers: what its whorl holds afterwards, and that nothing else changed. -/
theorem issueRegs_spec {s s1 : State} {w : Wid} {code : W64} {gn : BitVec 1} {gp : BitVec 3} {keys : List Nat} {wh : Whorl} {p : Path}
    {f : Whorl → Path → Whorl} (h : Issues s w true code keys wh p s1) :
    ∃ wh', whorlOf (issueRegs s w code gn gp true keys f) w = some wh' ∧ PathsOnly (f wh p) wh' ∧
      OnlyWhorl s1 (issueRegs s w code gn gp true keys f) w := by
  unfold issueRegs
  rw [issueInstr_next (s2 := putWhorl s1 w (f wh p)) h rfl]
  obtain ⟨a, c⟩ := closeIssue_spec p.pid true false true (execLanes wh p gn gp).length (whorlOf_putWhorl s1 w (f wh p))
  exact ⟨_, a, PathsOnly.closeWhorl _ _ _ _, (OnlyWhorl.putWhorl s1 w _).trans c⟩

/-! ## Registers -/

theorem regNo_lt (d : BitVec 7) : regNo d < 64 := Nat.mod_lt _ (by decide)

theorem vget_vset (wh : Whorl) {l r l' r' : Nat} (n : Nat) (hr : r < 64) (hr' : r' < 64) :
    (wh.vset l r n).vget l' r' = if l' = l ∧ r' = r then n % 2 ^ 32 else wh.vget l' r' := by
  unfold Whorl.vget Whorl.vset fgetD
  simp only [fget_fset]
  by_cases h : l' = l ∧ r' = r
  · obtain ⟨rfl, rfl⟩ := h
    simp [BitVec.toNat_ofNat]
  · have : ¬ l' * 64 + r' = l * 64 + r := by omega
    simp [this, h]

theorem vget_lt (wh : Whorl) (l r : Nat) : wh.vget l r < 2 ^ 32 := BitVec.isLt _
theorem uget_lt (wh : Whorl) (r : Nat) : wh.uget r < 2 ^ 64 := BitVec.isLt _

theorem uget_uset (wh : Whorl) (r r' n : Nat) : (wh.uset r n).uget r' = if r' = r then n % 2 ^ 64 else wh.uget r' := by
  unfold Whorl.uget Whorl.uset fgetD
  simp only [fget_fset]
  by_cases h : r' = r
  · simp [h, BitVec.toNat_ofNat]
  · simp [h]

/-- The v registers that a result of one or two words takes from register r on. -/
def inPair (wide : Bool) (r r' : Nat) : Prop := r' = r ∨ (wide = true ∧ r' = r + 1)

theorem vget_vput (wh : Whorl) {wide : Bool} {l r l' r' n : Nat} (hr : r < 64) (hw : wide = true → r + 1 < 64) (hr' : r' < 64) :
    (wh.vput wide l r n).vget l' r' =
      if l' = l ∧ r' = r then n % 2 ^ 32
      else if l' = l ∧ wide = true ∧ r' = r + 1 then n / 2 ^ 32 % 2 ^ 32 else wh.vget l' r' := by
  unfold Whorl.vput
  cases wide
  · simp [vget_vset _ _ hr hr']
  · simp only [if_true, vget_vset _ _ (hw rfl) hr', vget_vset _ _ hr hr']
    by_cases h : l' = l ∧ r' = r
    · simp [h]
    · by_cases h2 : l' = l ∧ r' = r + 1
      · simp [h2]
      · simp [h, h2]

/-- Writing v destinations of several lanes: a lane of the list holds its result, any other register what it held. -/
theorem vget_vputAll (wh : Whorl) {wide : Bool} {r r' : Nat} (f : Nat → Nat) (ls : List Nat) (l' : Nat) (hr : r < 64)
    (hw : wide = true → r + 1 < 64) (hr' : r' < 64) :
    (wh.vputAll wide r f ls).vget l' r' =
      if l' ∈ ls ∧ r' = r then f l' % 2 ^ 32
      else if l' ∈ ls ∧ wide = true ∧ r' = r + 1 then f l' / 2 ^ 32 % 2 ^ 32 else wh.vget l' r' := by
  induction ls generalizing wh with
  | nil => simp [Whorl.vputAll]
  | cons l ls ih =>
    rw [Whorl.vputAll, ih, vget_vput wh hr hw hr']
    by_cases h1 : l' ∈ ls <;> by_cases h2 : l' = l <;> simp [h1, h2]
    all_goals (try subst h2); try simp_all

/-- Everything a whorl has beside its registers. -/
def RegsOnly (wh wh' : Whorl) : Prop := wh' = { wh with v := wh'.v, liveV := wh'.liveV, u := wh'.u, p := wh'.p }

theorem vputAll_u (wh : Whorl) (wide : Bool) (r : Nat) (f : Nat → Nat) (ls : List Nat) :
    (wh.vputAll wide r f ls).u = wh.u ∧ (wh.vputAll wide r f ls).p = wh.p ∧ RegsOnly wh (wh.vputAll wide r f ls) := by
  induction ls generalizing wh with
  | nil => exact ⟨rfl, rfl, rfl⟩
  | cons l ls ih =>
    obtain ⟨a, b, c⟩ := ih (wh.vput wide l r (f l))
    refine ⟨?_, ?_, ?_⟩
    · rw [Whorl.vputAll, a]; unfold Whorl.vput; split <;> rfl
    · rw [Whorl.vputAll, b]; unfold Whorl.vput; split <;> rfl
    · rw [Whorl.vputAll]
      unfold RegsOnly at c ⊢
      rw [c]; unfold Whorl.vput; split <;> rfl

theorem psetAll_other (wh : Whorl) (r : Nat) (f : Nat → Bool) (ls : List Nat) :
    (wh.psetAll r f ls).u = wh.u ∧ (wh.psetAll r f ls).v = wh.v ∧ RegsOnly wh (wh.psetAll r f ls) := by
  induction ls generalizing wh with
  | nil => exact ⟨rfl, rfl, rfl⟩
  | cons l ls ih =>
    obtain ⟨a, b, c⟩ := ih (wh.pset l r (f l))
    refine ⟨?_, ?_, ?_⟩
    · rw [Whorl.psetAll, a]; unfold Whorl.pset; split <;> rfl
    · rw [Whorl.psetAll, b]; unfold Whorl.pset; split <;> rfl
    · rw [Whorl.psetAll]
      unfold RegsOnly at c ⊢
      rw [c]; unfold Whorl.pset; split <;> rfl

theorem pget_pset (wh : Whorl) {l r l' r' : Nat} (b : Bool) (hr : r < 8) (hr' : r' < 8) :
    (wh.pset l r b).pget l' r' = if l' = l ∧ r' = r then (r == 7 || b) else wh.pget l' r' := by
  unfold Whorl.pset
  split
  · rename_i h
    subst h
    by_cases h : l' = l ∧ r' = 7
    · simp [h, Whorl.pget]
    · simp [h]
  · rename_i h7
    unfold Whorl.pget
    by_cases h : l' = l ∧ r' = r
    · obtain ⟨rfl, rfl⟩ := h
      cases b <;> simp
    · have hk : ¬ l' * 8 + r' = l * 8 + r := by omega
      cases b <;> simp [h, hk]

theorem pget_psetAll (wh : Whorl) {r r' : Nat} (f : Nat → Bool) (ls : List Nat) (l' : Nat) (hr : r < 8) (hr' : r' < 8) :
    (wh.psetAll r f ls).pget l' r' = if l' ∈ ls ∧ r' = r then (r == 7 || f l') else wh.pget l' r' := by
  induction ls generalizing wh with
  | nil => simp [Whorl.psetAll]
  | cons l ls ih =>
    rw [Whorl.psetAll, ih, pget_pset wh _ hr hr']
    by_cases h1 : l' ∈ ls <;> by_cases h2 : l' = l <;> simp [h1, h2]
    all_goals (try subst h2); try simp_all

end Sys2Proof.Machine
end

