-- ==== Sys2Proof/Laws/Results.lean ====
section
/-! SUPPORT. The two shapes of result: a destination register of every lane that runs, and a predicate. -/

namespace Sys2Proof.Machine

theorem patternOf_lt (n : Nat) (v : Int) : patternOf n v < 2 ^ n := by
  unfold patternOf
  have h : (0 : Int) < (2 ^ n : Nat) := by exact_mod_cast Nat.two_pow_pos n
  have h1 := Int.emod_lt_of_pos v h
  have h2 := Int.emod_nonneg v (by omega : ((2 ^ n : Nat) : Int) ≠ 0)
  omega

theorem widenU_lt (wide s32 : Bool) (n : Nat) : widenU wide s32 n < 2 ^ 64 := by
  unfold widenU
  cases wide
  · cases s32
    · exact Nat.lt_of_lt_of_le (Nat.mod_lt _ (by decide)) (by decide)
    · exact patternOf_lt 64 _
  · exact Nat.mod_lt _ (by decide)

theorem isU_regNo {d : BitVec 7} {wide : Bool} (h : pairOk wide d = true) (hu : isU d = true) : regNo d < 32 := by
  revert h hu
  cases wide <;> revert d <;> decide

theorem pair_regNo {d : BitVec 7} {wide : Bool} (h : pairOk wide d = true) (hu : isU d = false) (hw : wide = true) :
    regNo d + 1 < 64 := by
  subst hw
  revert h hu
  revert d
  decide

/-- A result written to its destination (R82): each lane that runs reads it, and no other register changes. -/
theorem dest_spec (wh : Whorl) (p : Path) (gn : BitVec 1) (gp : BitVec 3) {wide : Bool} (s32 : Bool) {d : BitVec 7}
    (f : Nat → Nat) (hd : pairOk wide d = true) :
    (∀ l, l ∈ runLanes wh p gn gp (isU d) → (wh.dest p gn gp wide s32 d f).readD wide l d = heldIn wide s32 d (f l)) ∧
    SameBut wh (wh.dest p gn gp wide s32 d f) (runLanes wh p gn gp (isU d)) (regKeys (if wide then 2 else 1) d) [] := by
  cases hu : isU d
  · -- a v destination
    unfold Whorl.dest
    rw [hu]
    have hw := pair_regNo hd hu
    have hr := regNo_lt d
    generalize hl : runLanes wh p gn gp false = ls
    have hk : ∀ r, r ∈ regKeys (if wide then 2 else 1) d ↔ r = regNo d ∨ (wide = true ∧ r = regNo d + 1) := by
      intro r
      unfold regKeys
      rw [hu]
      cases wide
      · simp
      · simp [List.range, List.range.loop]
    have main : ∀ ls, (∀ l, l ∈ ls → (wh.vputAll wide (regNo d) f ls).readD wide l d = heldIn wide s32 d (f l)) ∧
        SameBut wh (wh.vputAll wide (regNo d) f ls) ls (regKeys (if wide then 2 else 1) d) [] := by
      intro ls
      obtain ⟨eu, ep, eo⟩ := vputAll_u wh wide (regNo d) f ls
      refine ⟨?_, ?_, ?_, ?_, ?_⟩
      · intro l hmem
        unfold Whorl.readD Whorl.src heldIn
        rw [hu]
        cases wide
        · simp [vget_vputAll wh f ls l hr hw hr, hmem]
        · have hr1 := hw rfl
          simp only [Bool.false_eq_true, if_false, if_true, vget_vputAll wh f ls l hr hw hr,
            vget_vputAll wh f ls l hr hw hr1, hmem]
          have : ¬ regNo d + 1 = regNo d := by omega
          simp only [this, and_false, true_and, if_false, if_true, and_true]
          omega
      · intro l r hr' hn
        rw [vget_vputAll wh f ls l hr hw hr']
        rw [hk] at hn
        have n1 : ¬(l ∈ ls ∧ r = regNo d) := fun ⟨a, b⟩ => hn ⟨a, Or.inl b⟩
        have n2 : ¬(l ∈ ls ∧ wide = true ∧ r = regNo d + 1) := fun ⟨a, b⟩ => hn ⟨a, Or.inr b⟩
        simp [n1, n2]
      · intro r _ _
        unfold Whorl.uget
        rw [eu]
      · intro l r _ _
        unfold Whorl.pget
        rw [ep]
      · rw [RegsOnly] at eo
        rw [eo]
    cases ls with
    | nil =>
      have := main []
      exact this
    | cons l ls =>
      have := main (l :: ls)
      exact this
  · -- a u destination
    have hr := isU_regNo hd hu
    unfold Whorl.dest
    rw [hu]
    unfold runLanes
    cases hg : wh.guard gn gp (lowLane p)
    · simp only [Bool.false_eq_true, if_true, if_false]
      exact ⟨by simp, fun _ _ _ _ => rfl, fun _ _ _ => rfl, fun _ _ _ _ => rfl, rfl⟩
    · simp only [if_true]
      refine ⟨?_, fun _ _ _ _ => rfl, ?_, fun _ _ _ _ => rfl, rfl⟩
      · intro l hl
        have : l = lowLane p := by simpa using hl
        subst this
        unfold Whorl.readD heldIn
        rw [hu]
        rw [uget_uset, if_pos rfl, if_pos rfl]
        exact Nat.mod_eq_of_lt (widenU_lt wide s32 _)
      · intro r hr' hn
        rw [uget_uset]
        have hk : regKeys (if wide then 2 else 1) d = [64 + regNo d % 32] := by
          unfold regKeys regKey
          rw [hu]
          rfl
        rw [hk] at hn
        have : r ≠ regNo d := by
          intro e
          subst e
          apply hn
          simp [Nat.mod_eq_of_lt hr]
        simp [this]

theorem SameBut.paths {a b c : Whorl} {lanes keys preds : List Nat} (h : SameBut a b lanes keys preds) (hp : PathsOnly b c) :
    SameBut a c lanes keys preds := by
  obtain ⟨h1, h2, h3, h4⟩ := h
  unfold PathsOnly at hp
  have ev : c.v = b.v := by rw [hp]
  have eu : c.u = b.u := by rw [hp]
  have ep : c.p = b.p := by rw [hp]
  refine ⟨fun l r hr hn => ?_, fun r hr hn => ?_, fun l r hr hn => ?_, ?_⟩
  · rw [← h1 l r hr hn]; unfold Whorl.vget; rw [ev]
  · rw [← h2 r hr hn]; unfold Whorl.uget; rw [eu]
  · rw [← h3 l r hr hn]; unfold Whorl.pget; rw [ep]
  · rw [hp, h4]

theorem readD_paths {b c : Whorl} (hp : PathsOnly b c) (wide : Bool) (l : Nat) (d : BitVec 7) :
    c.readD wide l d = b.readD wide l d := by
  unfold PathsOnly at hp
  rw [hp]; rfl

/-- Commands whose meaning is the issue of a register instruction write their destination. -/
theorem writesD_of {c : Instr} {code : W64} {s : State} {w : Wid} {gn : BitVec 1} {gp : BitVec 3} {keys : List Nat} {wide s32 : Bool}
    {d : BitVec 7} {res : Whorl → Nat → Nat} (hd : pairOk wide d = true)
    (he : exec c s = .next (issueRegs s w code gn gp true keys fun wh p => wh.dest p gn gp wide s32 d (res wh))) :
    WritesD c code s w gn gp keys wide s32 d res := by
  intro wh p s1 h
  obtain ⟨wh', a, b, o⟩ := issueRegs_spec (gn := gn) (gp := gp) (f := fun wh p => wh.dest p gn gp wide s32 d (res wh)) h
  obtain ⟨r, q⟩ := dest_spec wh p gn gp s32 (res wh) hd
  exact ⟨_, wh', he, a, o, fun l hl => (readD_paths b wide l d).trans (r l hl), q.paths b⟩

/-- Commands whose meaning is the issue of an instruction that writes a predicate write it. -/
theorem writesP_of {c : Instr} {code : W64} {s : State} {w : Wid} {gn : BitVec 1} {gp : BitVec 3} {keys : List Nat}
    {pd : BitVec 7} {res : Whorl → Nat → Bool} (hd : predOk pd = true)
    (he : exec c s = .next (issuePred s w code gn gp true keys pd res)) : WritesP c code s w gn gp keys pd res := by
  intro wh p s1 h
  have hp : pd.toNat < 8 := by simpa [predOk] using hd
  obtain ⟨wh', a, b, o⟩ := issueRegs_spec (gn := gn) (gp := gp)
    (f := fun wh p => wh.psetAll pd.toNat (res wh) (execLanes wh p gn gp)) h
  obtain ⟨eu, ev, eo⟩ := psetAll_other wh pd.toNat (res wh) (execLanes wh p gn gp)
  have hb : SameBut wh (wh.psetAll pd.toNat (res wh) (execLanes wh p gn gp)) (execLanes wh p gn gp) [] [pd.toNat] := by
    refine ⟨fun l r _ _ => ?_, fun r _ _ => ?_, fun l r hr hn => ?_, ?_⟩
    · unfold Whorl.vget; rw [ev]
    · unfold Whorl.uget; rw [eu]
    · rw [pget_psetAll wh _ _ l hp hr]
      have : ¬(l ∈ execLanes wh p gn gp ∧ r = pd.toNat) := by simpa using hn
      simp [this]
    · rw [RegsOnly] at eo; rw [eo]
  refine ⟨_, wh', he, a, o, fun l hl => ?_, hb.paths b⟩
  have e : wh'.p = (wh.psetAll pd.toNat (res wh) (execLanes wh p gn gp)).p := by
    unfold PathsOnly at b; rw [b]
  have g : wh'.pget l pd.toNat = (wh.psetAll pd.toNat (res wh) (execLanes wh p gn gp)).pget l pd.toNat := by
    unfold Whorl.pget; rw [e]
  rw [g, pget_psetAll wh _ _ l hp hp]
  have h7 : (pd == 7#7) = (pd.toNat == 7) := (by decide : ∀ q : BitVec 7, (q == 7#7) = (q.toNat == 7)) pd
  simp [hl, h7]

end Sys2Proof.Machine
end

