-- ==== Sys2Proof/Laws/Access.lean ====
section
/-! SUPPORT. What an access does around its own effect: a translation changes the cached translations and what its walk looks up, a
fetch the instruction caches besides, and a posted request joins the requests in flight. -/

namespace Sys2Proof.Machine

/-! ## Translation -/

/-- t is s but for its cached translations. -/
def TlbOnly (s t : State) : Prop := t = { s with mem := { s.mem with tlb := t.mem.tlb } }

theorem TlbOnly.refl (s : State) : TlbOnly s s := rfl

theorem TlbOnly.trans {a b c : State} (h1 : TlbOnly a b) (h2 : TlbOnly b c) : TlbOnly a c := by
  unfold TlbOnly at *
  rw [h2, h1]

theorem findLeaf_state (s : State) (ctx va : Nat) : TlbOnly s (findLeaf s ctx va).2 := by
  unfold findLeaf
  split
  · rfl
  · split
    · rfl
    · split <;> rfl

theorem translate_state (s : State) (ctx : Nat) (u : Use) (va len : Nat) : TlbOnly s (translate s ctx u va len).2 := by
  have h := findLeaf_state s ctx va
  unfold translate
  split
  · rfl
  · split
    · rename_i e; rw [e] at h; exact h
    · rename_i e; rw [e] at h; exact h
    · rename_i e
      rw [e] at h
      split
      · exact h
      · dsimp only
        split
        · exact h
        · split
          · split
            · split <;> exact h
            · exact h
          · exact h

/-- t is s but for its cached translations and what reads that hit change: the counters, and which lines are recent. -/
def Looked (s t : State) : Prop :=
  t = { s with dict := { s.dict with od := t.dict.od }, obs := t.obs,
               mem := { s.mem with tlb := t.mem.tlb, lines := t.mem.lines, stamp := t.mem.stamp } }

theorem Looked.refl (s : State) : Looked s s := rfl

theorem Looked.trans {a b c : State} (h1 : Looked a b) (h2 : Looked b c) : Looked a c := by
  unfold Looked at *
  rw [h2, h1]

theorem TlbOnly.looked {s t : State} (h : TlbOnly s t) : Looked s t := by
  unfold TlbOnly Looked at *
  rw [h]

theorem Looked.core {s t : State} (h : Looked s t) (c : Nat) : t.core c = s.core c := by
  unfold Looked at h
  rw [h]; rfl

theorem count_looked (s : State) (b i n : Nat) : Looked s (count s b i n) := rfl

theorem odAdd_looked (s : State) (idx i n : Nat) : Looked s (odAdd s idx i n) := rfl

theorem classCount_state (s : State) (half cls tag : Nat) (hit joined : Bool) :
    Looked s (classCount s half cls tag hit joined) := by
  unfold classCount
  extract_lets one
  have h1 : ∀ (t : State) (c : Nat), Looked t (one t c) := by
    intro t c
    unfold one
    cases hit <;> cases joined
    · exact odAdd_looked _ _ _ _
    · exact (odAdd_looked _ _ _ _).trans (odAdd_looked _ _ _ _)
    · exact (odAdd_looked _ _ _ _).trans (odAdd_looked _ _ _ _)
    · exact ((odAdd_looked _ _ _ _).trans (odAdd_looked _ _ _ _)).trans (odAdd_looked _ _ _ _)
  exact (h1 _ _).trans (h1 _ _)

theorem countLookup_state (s : State) (r : HomeReq) : Looked s (countLookup s r) := by
  unfold countLookup
  repeat' split
  all_goals first
    | exact Looked.refl s
    | exact ((classCount_state _ _ _ _ _ _).trans (count_looked _ _ _ _)).trans (count_looked _ _ _ _)

theorem touch_state (s : State) (line : Nat) : Looked s (touch s line) := by
  unfold touch
  split <;> rfl

/-- A hit at a home changes counters and stamps alone. -/
theorem hitHome_state (s : State) (pa len cls : Nat) : Looked s (hitHome s pa len false cls) := by
  unfold hitHome
  extract_lets line
  split
  · rfl
  · exact (countLookup_state s _).trans (touch_state _ line)

theorem walkHits_state (s : State) (f va level table : Nat) : Looked s (walkHits s f va level table) := by
  induction level generalizing table with
  | zero => rfl
  | succ level ih =>
    unfold walkHits
    extract_lets a
    split
    · rfl
    · split
      · exact (ih _).trans (hitHome_state _ _ _ _)
      · exact hitHome_state _ _ _ _

theorem translateAsk_state {s s1 : State} {a : Agent} {ctx va len : Nat} {u : Use} {x : Xlat}
    (h : translateAsk s a ctx u va len = (x, s1)) (hx : x ≠ .wait) : Looked s s1 := by
  have t := (translate_state s ctx u va len).looked
  unfold translateAsk at h
  split at h
  · rw [h] at t; exact t
  · split at h
    · rw [h] at t; exact t
    · split at h
      · exact absurd (congrArg Prod.fst h).symm hx
      · have e := congrArg Prod.snd h
        dsimp only at e
        rw [← e]
        exact t.trans (walkHits_state _ _ _ _ _)

theorem xlatLanes_state {a : Agent} {ctx size : Nat} {u : Use} (eas : List (Nat × Nat)) {s s2 : State}
    {xs : List (Nat × Nat × Xlat)} (h : xlatLanes a ctx u size s eas = (xs, s2)) (hx : ∀ x, x ∈ xs → x.2.2 ≠ .wait) :
    Looked s s2 := by
  induction eas generalizing s xs with
  | nil => cases h; rfl
  | cons e eas ih =>
    obtain ⟨l, va⟩ := e
    simp only [xlatLanes] at h
    cases h
    have h1 := hx (l, va, (translateAsk s a ctx u va size).1) (by simp)
    refine (translateAsk_state (x := (translateAsk s a ctx u va size).1) rfl h1).trans ?_
    exact ih rfl (fun x hm => hx x (List.mem_cons_of_mem _ hm))

theorem resolve_state {s s2 : State} {a : Agent} {ctx kind size : Nat} {u : Use} {eas : List (Nat × Nat)}
    {as : List (Nat × Nat × Nat)} (h : resolve s a ctx u kind size eas = .ok as s2) : Looked s s2 := by
  unfold resolve at h
  extract_lets mis at h
  split at h
  · cases h
  · split at h
    rename_i xs s1 hx
    extract_lets bad pois at h
    split at h
    · cases h
    · rename_i hw
      have hn : ∀ x, x ∈ xs → x.2.2 ≠ .wait := by
        intro x hm he
        apply hw
        simp only [List.any_eq_true, beq_iff_eq]
        exact ⟨x, hm, he⟩
      have t := xlatLanes_state eas hx hn
      split at h
      · cases h
      · split at h
        · cases h
        · split at h
          · cases h
          · cases h; exact t

/-! ## Fetch -/

/-- t is s but for core c's instruction cache, its grove's, and what translations and hits change. -/
def Fetched (s t : State) (c : Nat) : Prop :=
  t = { s with cores := t.cores, dict := { s.dict with od := t.dict.od }, obs := t.obs,
               mem := { s.mem with tlb := t.mem.tlb, lines := t.mem.lines, stamp := t.mem.stamp, icFill := t.mem.icFill } } ∧
  (∀ d, d ≠ c → t.core d = s.core d) ∧ (t.core c).slots = (s.core c).slots

theorem Looked.fetched {s t : State} (h : Looked s t) (c : Nat) : Fetched s t c := by
  refine ⟨?_, fun d _ => h.core d, by rw [h.core]⟩
  unfold Looked at h
  rw [h]

theorem Fetched.trans {a b d : State} {c : Nat} (h1 : Fetched a b c) (h2 : Fetched b d c) : Fetched a d c := by
  obtain ⟨e1, f1, g1⟩ := h1
  obtain ⟨e2, f2, g2⟩ := h2
  refine ⟨?_, fun x hx => (f2 x hx).trans (f1 x hx), g2.trans g1⟩
  rw [e2, e1]

theorem takeBlock_state (s : State) (c block started : Nat) (bytes : List Byte) :
    Fetched s (takeBlock s c block started bytes) c := by
  unfold takeBlock
  extract_lets k own g l at_ s1
  split
  · exact ⟨rfl, fun d hd => core_setCore_ne s _ hd, by simp [s1, k]⟩
  · refine ⟨rfl, fun d hd => core_setCore_ne s _ hd, ?_⟩
    have h : s1.core c = { k with icache := icacheAdd k.icache block bytes } := core_setCore_self s c _
    exact (show ((s1.core c).slots = k.slots) by rw [h])

theorem fetchBlock_state {s s2 : State} {c block started : Nat} {b : List Byte}
    (h : fetchBlock s c block started = some (b, s2)) : Fetched s s2 c := by
  unfold fetchBlock at h
  split at h
  · cases h
    exact takeBlock_state _ _ _ _ _
  · split at h
    · cases h
    · cases h
      exact ((hitHome_state _ _ _ _).fetched c).trans (takeBlock_state _ _ _ _ _)

theorem fetchAt_state {s s2 : State} {w : Wid} {wh : Whorl} {p : Path} {word : W64} (h : fetchAt s w wh p = .ok word s2) :
    Fetched s s2 w.core := by
  unfold fetchAt at h
  extract_lets pc bad at h
  split at h
  · cases h
  · split at h
    · cases h
    · cases h
    · cases h
    · cases h
    · rename_i pa s1 hx
      have t := translateAsk_state hx (by simp)
      extract_lets started at h
      split at h
      · cases h
      · split at h
        · rename_i hb
          cases h
          exact (t.fetched _).trans (fetchBlock_state hb)
        · cases h

theorem issuePath_whorl {s : State} {w : Wid} {simt : Bool} {wh : Whorl} {p : Path} (h : issuePath s w simt = some (wh, p)) :
    whorlOf s w = some wh := by
  unfold issuePath at h
  split at h
  · cases h
  · unfold readyPath at h
    split at h
    · split at h
      · cases h
      · rename_i hw
        split at h
        · cases h
        · split at h
          · split at h
            · cases h; exact hw
            · cases h
          · cases h
    · cases h

/-- What an issue has done before the instruction's own effect. -/
theorem Issues.state {s s1 : State} {w : Wid} {simt : Bool} {code : W64} {keys : List Nat} {wh : Whorl} {p : Path}
    (h : Issues s w simt code keys wh p s1) :
    (∃ wh0, whorlOf s w = some wh0 ∧ wh = { wh0 with paths := wh.paths }) ∧ whorlOf s1 w = some wh ∧
    s1 = { s with cores := s1.cores, dict := { s.dict with od := s1.dict.od }, obs := s1.obs,
                  mem := { s.mem with tlb := s1.mem.tlb, lines := s1.mem.lines, stamp := s1.mem.stamp,
                                      icFill := s1.mem.icFill } } ∧
    (∀ c, c ≠ w.core → s1.core c = s.core c) ∧
    (∀ n, n ≠ w.slot → fget (s1.core w.core).slots n = fget (s.core w.core).slots n) := by
  obtain ⟨⟨wh0, c, hr, hm⟩, hc, hf, hd, hk⟩ := h
  obtain ⟨e, f, g⟩ := fetchAt_state hf
  refine ⟨⟨wh0, issuePath_whorl hr, ?_⟩, ?_, ?_, ?_, ?_⟩
  · rw [hm]; unfold mergeAtIssue; split <;> rfl
  · unfold whorlOf; rw [g]; simp [putWhorl]
  · unfold putWhorl State.setCore at e
    exact e
  · intro d hd; rw [f d hd]; exact core_setCore_ne s _ hd
  · intro n hn; rw [g]; simp [putWhorl, fget_fset_ne _ _ hn]

/-! ## Posting a request -/

theorem peerLanes_none (s : State) (r : Req) (f : Nat) (ls : List LaneAcc) (h : ∀ l, l ∈ ls → regionOf l.pa ≠ .peer) :
    peerLanes s r f ls = (s, ls) := by
  induction ls with
  | nil => rfl
  | cons l ls ih =>
    have h1 := h l (by simp)
    have hc : (l.sent || l.done || regionOf l.pa != .peer) = true := by
      rw [show (regionOf l.pa != .peer) = true from bne_iff_ne.mpr h1]; simp
    rw [peerLanes, if_pos hc, ih (fun x hx => h x (List.mem_cons_of_mem _ hx))]

theorem find_last {l : List Req} {r : Req} (h : ∀ x, x ∈ l → x.id ≠ r.id) : (l ++ [r]).find? (fun x => x.id == r.id) = some r := by
  induction l with
  | nil => simp
  | cons x l ih =>
    have h1 := h x (by simp)
    simp [h1, ih (fun y hy => h y (by simp [hy]))]

theorem settleReq_id (r : Req) : (settleReq r).id = r.id := by unfold settleReq; split <;> rfl

theorem routeLanes_id (s : State) (r : Req) : (routeLanes s r).id = r.id := rfl

theorem routeLanes_phase (s : State) (r : Req) : (routeLanes s r).phase = r.phase := rfl

theorem routeLanes_pa (s : State) (r : Req) (h : ∀ l, l ∈ r.lanes → regionOf l.pa ≠ .peer) :
    ∀ l, l ∈ (routeLanes s r).lanes → regionOf l.pa ≠ .peer := by
  intro l hl
  obtain ⟨x, hx, rfl⟩ := List.mem_map.mp hl
  split
  · exact h x hx
  · exact h x hx

/-- A request that names no peer window joins the requests in flight, with the next number and the routes in force. -/
theorem postReq_spec (s : State) (r : Req) (h : s.reqIds = true) (hp : ∀ l, l ∈ r.lanes → regionOf l.pa ≠ .peer) :
    postReq s r = (s.mem.nextReq, { s with mem := { s.mem with
      reqs := s.mem.reqs ++ [if r.phase = .sent then settleReq (routeLanes s { r with id := s.mem.nextReq })
        else routeLanes s { r with id := s.mem.nextReq }],
      nextReq := s.mem.nextReq + 1 } }) := by
  generalize hq : routeLanes s { r with id := s.mem.nextReq } = q
  have qi : q.id = s.mem.nextReq := by rw [← hq]; rfl
  have qp : q.phase = r.phase := by rw [← hq]; rfl
  have ql : ∀ l, l ∈ q.lanes → regionOf l.pa ≠ .peer := by rw [← hq]; exact routeLanes_pa s _ hp
  have hid : ∀ x, x ∈ s.mem.reqs → x.id ≠ q.id := by
    intro x hx
    have := List.all_eq_true.mp h x hx
    simp only [decide_eq_true_eq] at this
    omega
  unfold postReq addReq
  simp only [hq, Prod.mk.injEq, true_and]
  unfold pumpPeer findReq
  dsimp only
  rw [← qi, find_last hid]
  simp only
  by_cases hph : r.phase = .sent
  · rw [if_pos (qp.trans hph), if_pos hph, peerLanes_none _ _ _ _ ql]
    have hmap : ∀ z, List.map (fun x => if x.id == q.id then z else x) s.mem.reqs = s.mem.reqs := by
      intro z
      conv => rhs; rw [← List.map_id s.mem.reqs]
      apply List.map_congr_left
      intro x hx
      simp [hid x hx]
    simp only [setReq, settleReq_id, List.map_append, List.map_cons, List.map_nil, beq_self_eq_true, if_true, hmap]
  · rw [if_neg (by rw [qp]; exact hph), if_neg hph]

end Sys2Proof.Machine
end

