-- ==== Sys2Proof/Laws/Lanes.lean ====
section
/-! SUPPORT. Lanes and paths: which lanes a mask names, and which paths a table holds after a change. -/

namespace Sys2Proof.Machine

theorem mem_lanesOf (m : BitVec 16) (l : Nat) : l ∈ lanesOf m ↔ l < 16 ∧ m.getLsbD l = true := by
  simp [lanesOf]

theorem mask_fold (ls : List Nat) (m : BitVec 16) (l : Nat) (h : l < 16) :
    (ls.foldl (fun m i => m ||| (BitVec.ofNat 16 1 <<< i)) m).getLsbD l = (m.getLsbD l || ls.contains l) := by
  induction ls generalizing m with
  | nil => simp
  | cons k ls ih =>
    rw [List.foldl_cons, ih, List.contains_cons]
    have : (m ||| (BitVec.ofNat 16 1 <<< k)).getLsbD l = (m.getLsbD l || l == k) := by
      simp only [BitVec.getLsbD_or, BitVec.getLsbD_shiftLeft, BitVec.getLsbD_ofNat, h, decide_true, Bool.true_and]
      by_cases hk : l = k
      · subst hk; simp
      · by_cases hlt : l < k
        · simp [hlt, hk]
        · have h1 : l - k ≠ 0 := by omega
          have : Nat.testBit 1 (l - k) = false := by
            obtain ⟨d, hd⟩ := Nat.exists_eq_succ_of_ne_zero h1
            rw [hd, Nat.testBit_succ]; simp
          simp [hk, this]
    rw [this, Bool.or_assoc]

/-- A lane is named by the mask of a list exactly when the list holds it. -/
theorem getLsbD_maskOf (ls : List Nat) {l : Nat} (h : l < 16) : (maskOf ls).getLsbD l = ls.contains l := by
  unfold maskOf
  rw [mask_fold ls _ l h]
  simp

theorem execLanes_sub {wh : Whorl} {p : Path} {gn : BitVec 1} {gp : BitVec 3} {l : Nat} (h : l ∈ execLanes wh p gn gp) :
    l ∈ lanesOf p.lanes := by
  unfold execLanes at h
  exact (List.mem_filter.mp h).1

theorem curPath_mem {wh : Whorl} {p : Path} (h : wh.curPath? = some p) : p ∈ wh.paths :=
  List.mem_of_find?_eq_some h

theorem mem_setPath {wh : Whorl} {p q : Path} (hp : p ∈ wh.paths) (hq : q.pid = p.pid) : q ∈ (wh.setPath q).paths := by
  unfold Whorl.setPath
  refine List.mem_map.mpr ⟨p, hp, ?_⟩
  simp [hq]

theorem mem_insertAfter (ps : List Path) (pid : Nat) (new : List Path) (x : Path) :
    x ∈ insertAfter ps pid new ↔ x ∈ ps ∨ x ∈ new := by
  induction ps with
  | nil => simp [insertAfter]
  | cons p ps ih =>
    simp only [insertAfter]
    split
    · simp [or_left_comm, or_comm]
    · simp [ih, or_assoc]

theorem mem_numberPaths (ps : List Path) (n : Nat) {x : Path} (h : x ∈ ps) :
    ∃ y, y ∈ numberPaths n ps ∧ y.lanes = x.lanes ∧ y.pc = x.pc := by
  induction ps generalizing n with
  | nil => simp at h
  | cons p ps ih =>
    rcases List.mem_cons.mp h with rfl | h
    · exact ⟨_, List.mem_cons_self, rfl, rfl⟩
    · obtain ⟨y, a, b⟩ := ih (n + 1) h
      exact ⟨y, List.mem_cons_of_mem _ a, b⟩

theorem laneAt_parkNew {wh : Whorl} {since l : Nat} {pc : W64} (h : LaneAt wh l pc) : LaneAt (parkNew wh since) l pc := by
  obtain ⟨x, a, b, c⟩ := h
  unfold parkNew LaneAt
  refine ⟨_, List.mem_map.mpr ⟨x, a, rfl⟩, ?_⟩
  split
  · split <;> exact ⟨b, c⟩
  · exact ⟨b, c⟩

/-- A branch puts the taken threads at the target and the others at the next instruction (R50). -/
theorem branchPath_lanes {wh : Whorl} {p : Path} {taken : List Nat} (target : W64) (join : Option W64) (hp : p ∈ wh.paths)
    (ht : ∀ l, l ∈ taken → l ∈ lanesOf p.lanes) :
    (∀ l, l ∈ taken → LaneAt (branchPath wh p taken target join) l target) ∧
    (∀ l, l ∈ lanesOf p.lanes → l ∉ taken → LaneAt (branchPath wh p taken target join) l (p.pc + 8)) := by
  unfold branchPath
  extract_lets m js stay go
  split
  · rename_i he
    have : taken = [] := by simpa using he
    subst this
    refine ⟨by simp, fun l hl _ => ⟨_, mem_setPath hp rfl, ((mem_lanesOf _ _).mp hl).2, rfl⟩⟩
  · split
    · rename_i hm
      refine ⟨fun l hl => ⟨_, mem_setPath hp rfl, ((mem_lanesOf _ _).mp (ht l hl)).2, rfl⟩, fun l hl hn => ?_⟩
      obtain ⟨h16, hb⟩ := (mem_lanesOf _ _).mp hl
      rw [← hm, getLsbD_maskOf _ h16] at hb
      exact absurd (by simpa using hb) hn
    · refine ⟨fun l hl => ⟨go, ?_, ?_, rfl⟩, fun l hl hn => ⟨stay, ?_, ?_, rfl⟩⟩
      · exact (mem_insertAfter _ _ _ _).mpr (Or.inr (by simp))
      · have h16 := ((mem_lanesOf _ _).mp (ht l hl)).1
        show (maskOf taken).getLsbD l = true
        rw [getLsbD_maskOf _ h16]; simpa using hl
      · exact (mem_insertAfter _ _ _ _).mpr (Or.inl (mem_setPath hp rfl))
      · obtain ⟨h16, hb⟩ := (mem_lanesOf _ _).mp hl
        show (p.lanes &&& ~~~(maskOf taken)).getLsbD l = true
        have hz : (maskOf taken).getLsbD l = false := by rw [getLsbD_maskOf _ h16]; simpa using hn
        rw [BitVec.getLsbD_and, BitVec.getLsbD_not, hb, hz]; simp [h16]

theorem branchPath_else (wh : Whorl) (p : Path) (taken : List Nat) (target : W64) (join : Option W64) : ∃ ps n k, branchPath wh p taken target join = { wh with paths := ps, nextPid := n, nextSplit := k } := by
  unfold branchPath
  extract_lets m js stay go
  split
  · exact ⟨_, _, _, rfl⟩
  · split <;> exact ⟨_, _, _, rfl⟩

end Sys2Proof.Machine
end

