-- ==== Sys2Proof/Laws/State.lean ====
section
/-! SUPPORT. What each named update of the state leaves and sets, field by field. -/

namespace Sys2Proof.Machine

/-! ## setCore -/

@[simp] theorem State.setCore_pending (s : State) (c : Nat) (x : Core) : (s.setCore c x).pending = s.pending := rfl
@[simp] theorem State.setCore_mod (s : State) (c : Nat) (x : Core) : (s.setCore c x).mod = s.mod := rfl
@[simp] theorem State.setCore_dict (s : State) (c : Nat) (x : Core) : (s.setCore c x).dict = s.dict := rfl
@[simp] theorem State.setCore_flash (s : State) (c : Nat) (x : Core) : (s.setCore c x).flash = s.flash := rfl
@[simp] theorem State.setCore_trust (s : State) (c : Nat) (x : Core) : (s.setCore c x).trust = s.trust := rfl
@[simp] theorem State.setCore_groves (s : State) (c : Nat) (x : Core) : (s.setCore c x).groves = s.groves := rfl
@[simp] theorem State.setCore_deadGroves (s : State) (c : Nat) (x : Core) : (s.setCore c x).deadGroves = s.deadGroves := rfl
@[simp] theorem State.setCore_bays (s : State) (c : Nat) (x : Core) : (s.setCore c x).bays = s.bays := rfl
@[simp] theorem State.setCore_doms (s : State) (c : Nat) (x : Core) : (s.setCore c x).doms = s.doms := rfl
@[simp] theorem State.setCore_ctxs (s : State) (c : Nat) (x : Core) : (s.setCore c x).ctxs = s.ctxs := rfl
@[simp] theorem State.setCore_queues (s : State) (c : Nat) (x : Core) : (s.setCore c x).queues = s.queues := rfl
@[simp] theorem State.setCore_kerns (s : State) (c : Nat) (x : Core) : (s.setCore c x).kerns = s.kerns := rfl
@[simp] theorem State.setCore_nextKern (s : State) (c : Nat) (x : Core) : (s.setCore c x).nextKern = s.nextKern := rfl
@[simp] theorem State.setCore_graphs (s : State) (c : Nat) (x : Core) : (s.setCore c x).graphs = s.graphs := rfl
@[simp] theorem State.setCore_rets (s : State) (c : Nat) (x : Core) : (s.setCore c x).rets = s.rets := rfl
@[simp] theorem State.setCore_launches (s : State) (c : Nat) (x : Core) : (s.setCore c x).launches = s.launches := rfl
@[simp] theorem State.setCore_chutes (s : State) (c : Nat) (x : Core) : (s.setCore c x).chutes = s.chutes := rfl
@[simp] theorem State.setCore_fns (s : State) (c : Nat) (x : Core) : (s.setCore c x).fns = s.fns := rfl
@[simp] theorem State.setCore_classC (s : State) (c : Nat) (x : Core) : (s.setCore c x).classC = s.classC := rfl
@[simp] theorem State.setCore_rr (s : State) (c : Nat) (x : Core) : (s.setCore c x).rr = s.rr := rfl
@[simp] theorem State.setCore_resid (s : State) (c : Nat) (x : Core) : (s.setCore c x).resid = s.resid := rfl
@[simp] theorem State.setCore_ports (s : State) (c : Nat) (x : Core) : (s.setCore c x).ports = s.ports := rfl
@[simp] theorem State.setCore_mbox (s : State) (c : Nat) (x : Core) : (s.setCore c x).mbox = s.mbox := rfl
@[simp] theorem State.setCore_mem (s : State) (c : Nat) (x : Core) : (s.setCore c x).mem = s.mem := rfl
@[simp] theorem State.setCore_tenons (s : State) (c : Nat) (x : Core) : (s.setCore c x).tenons = s.tenons := rfl
@[simp] theorem State.setCore_cuts (s : State) (c : Nat) (x : Core) : (s.setCore c x).cuts = s.cuts := rfl
@[simp] theorem State.setCore_dies (s : State) (c : Nat) (x : Core) : (s.setCore c x).dies = s.dies := rfl
@[simp] theorem State.setCore_sess (s : State) (c : Nat) (x : Core) : (s.setCore c x).sess = s.sess := rfl
@[simp] theorem State.setCore_test (s : State) (c : Nat) (x : Core) : (s.setCore c x).test = s.test := rfl
@[simp] theorem State.setCore_power (s : State) (c : Nat) (x : Core) : (s.setCore c x).power = s.power := rfl
@[simp] theorem State.setCore_flog (s : State) (c : Nat) (x : Core) : (s.setCore c x).flog = s.flog := rfl
@[simp] theorem State.setCore_fell (s : State) (c : Nat) (x : Core) : (s.setCore c x).fell = s.fell := rfl
@[simp] theorem State.setCore_obs (s : State) (c : Nat) (x : Core) : (s.setCore c x).obs = s.obs := rfl
@[simp] theorem State.setCore_dbg (s : State) (c : Nat) (x : Core) : (s.setCore c x).dbg = s.dbg := rfl
@[simp] theorem State.setCore_free (s : State) (c : Nat) (x : Core) : (s.setCore c x).free = s.free := rfl
@[simp] theorem State.setCore_out (s : State) (c : Nat) (x : Core) : (s.setCore c x).out = s.out := rfl
@[simp] theorem State.setCore_cores (s : State) (c : Nat) (x : Core) : (s.setCore c x).cores = fset s.cores c x := rfl
theorem State.setCore_core (s : State) (c : Nat) (x : Core) (j : Nat) : (s.setCore c x).core j = if j = c then x else s.core j := by
  simp only [State.setCore, State.core, fgetD_fset]
@[simp] theorem State.setCore_core_self (s : State) (c : Nat) (x : Core) : (s.setCore c x).core c = x := by
  rw [State.setCore_core, if_pos rfl]
@[simp] theorem State.setCore_dom (s : State) (c : Nat) (x : Core) (j : Nat) : (s.setCore c x).dom j = s.dom j := rfl
@[simp] theorem State.setCore_bay (s : State) (c : Nat) (x : Core) (j : Nat) : (s.setCore c x).bay j = s.bay j := rfl
@[simp] theorem State.setCore_fn (s : State) (c : Nat) (x : Core) (j : Nat) : (s.setCore c x).fn j = s.fn j := rfl
@[simp] theorem State.setCore_port (s : State) (c : Nat) (x : Core) (j : Nat) : (s.setCore c x).port j = s.port j := rfl
@[simp] theorem State.setCore_chute (s : State) (c : Nat) (x : Core) (j : Nat) : (s.setCore c x).chute j = s.chute j := rfl
@[simp] theorem State.setCore_tenon (s : State) (c : Nat) (x : Core) (j : Nat) : (s.setCore c x).tenon j = s.tenon j := rfl
@[simp] theorem State.setCore_die (s : State) (c : Nat) (x : Core) (j : Nat) : (s.setCore c x).die j = s.die j := rfl
@[simp] theorem State.setCore_session (s : State) (c : Nat) (x : Core) (j : Nat) : (s.setCore c x).session j = s.session j := rfl
@[simp] theorem State.setCore_now (s : State) (c : Nat) (x : Core) : (s.setCore c x).now = s.now := rfl
@[simp] theorem State.setCore_felled (s : State) (c : Nat) (x : Core) : (s.setCore c x).felled = s.felled := rfl

/-! ## setDom -/

@[simp] theorem State.setDom_pending (s : State) (g : Nat) (x : Dom) : (s.setDom g x).pending = s.pending := rfl
@[simp] theorem State.setDom_mod (s : State) (g : Nat) (x : Dom) : (s.setDom g x).mod = s.mod := rfl
@[simp] theorem State.setDom_dict (s : State) (g : Nat) (x : Dom) : (s.setDom g x).dict = s.dict := rfl
@[simp] theorem State.setDom_flash (s : State) (g : Nat) (x : Dom) : (s.setDom g x).flash = s.flash := rfl
@[simp] theorem State.setDom_trust (s : State) (g : Nat) (x : Dom) : (s.setDom g x).trust = s.trust := rfl
@[simp] theorem State.setDom_groves (s : State) (g : Nat) (x : Dom) : (s.setDom g x).groves = s.groves := rfl
@[simp] theorem State.setDom_deadGroves (s : State) (g : Nat) (x : Dom) : (s.setDom g x).deadGroves = s.deadGroves := rfl
@[simp] theorem State.setDom_bays (s : State) (g : Nat) (x : Dom) : (s.setDom g x).bays = s.bays := rfl
@[simp] theorem State.setDom_cores (s : State) (g : Nat) (x : Dom) : (s.setDom g x).cores = s.cores := rfl
@[simp] theorem State.setDom_ctxs (s : State) (g : Nat) (x : Dom) : (s.setDom g x).ctxs = s.ctxs := rfl
@[simp] theorem State.setDom_queues (s : State) (g : Nat) (x : Dom) : (s.setDom g x).queues = s.queues := rfl
@[simp] theorem State.setDom_kerns (s : State) (g : Nat) (x : Dom) : (s.setDom g x).kerns = s.kerns := rfl
@[simp] theorem State.setDom_nextKern (s : State) (g : Nat) (x : Dom) : (s.setDom g x).nextKern = s.nextKern := rfl
@[simp] theorem State.setDom_graphs (s : State) (g : Nat) (x : Dom) : (s.setDom g x).graphs = s.graphs := rfl
@[simp] theorem State.setDom_rets (s : State) (g : Nat) (x : Dom) : (s.setDom g x).rets = s.rets := rfl
@[simp] theorem State.setDom_launches (s : State) (g : Nat) (x : Dom) : (s.setDom g x).launches = s.launches := rfl
@[simp] theorem State.setDom_chutes (s : State) (g : Nat) (x : Dom) : (s.setDom g x).chutes = s.chutes := rfl
@[simp] theorem State.setDom_fns (s : State) (g : Nat) (x : Dom) : (s.setDom g x).fns = s.fns := rfl
@[simp] theorem State.setDom_classC (s : State) (g : Nat) (x : Dom) : (s.setDom g x).classC = s.classC := rfl
@[simp] theorem State.setDom_rr (s : State) (g : Nat) (x : Dom) : (s.setDom g x).rr = s.rr := rfl
@[simp] theorem State.setDom_resid (s : State) (g : Nat) (x : Dom) : (s.setDom g x).resid = s.resid := rfl
@[simp] theorem State.setDom_ports (s : State) (g : Nat) (x : Dom) : (s.setDom g x).ports = s.ports := rfl
@[simp] theorem State.setDom_mbox (s : State) (g : Nat) (x : Dom) : (s.setDom g x).mbox = s.mbox := rfl
@[simp] theorem State.setDom_mem (s : State) (g : Nat) (x : Dom) : (s.setDom g x).mem = s.mem := rfl
@[simp] theorem State.setDom_tenons (s : State) (g : Nat) (x : Dom) : (s.setDom g x).tenons = s.tenons := rfl
@[simp] theorem State.setDom_cuts (s : State) (g : Nat) (x : Dom) : (s.setDom g x).cuts = s.cuts := rfl
@[simp] theorem State.setDom_dies (s : State) (g : Nat) (x : Dom) : (s.setDom g x).dies = s.dies := rfl
@[simp] theorem State.setDom_sess (s : State) (g : Nat) (x : Dom) : (s.setDom g x).sess = s.sess := rfl
@[simp] theorem State.setDom_test (s : State) (g : Nat) (x : Dom) : (s.setDom g x).test = s.test := rfl
@[simp] theorem State.setDom_power (s : State) (g : Nat) (x : Dom) : (s.setDom g x).power = s.power := rfl
@[simp] theorem State.setDom_flog (s : State) (g : Nat) (x : Dom) : (s.setDom g x).flog = s.flog := rfl
@[simp] theorem State.setDom_fell (s : State) (g : Nat) (x : Dom) : (s.setDom g x).fell = s.fell := rfl
@[simp] theorem State.setDom_obs (s : State) (g : Nat) (x : Dom) : (s.setDom g x).obs = s.obs := rfl
@[simp] theorem State.setDom_dbg (s : State) (g : Nat) (x : Dom) : (s.setDom g x).dbg = s.dbg := rfl
@[simp] theorem State.setDom_free (s : State) (g : Nat) (x : Dom) : (s.setDom g x).free = s.free := rfl
@[simp] theorem State.setDom_out (s : State) (g : Nat) (x : Dom) : (s.setDom g x).out = s.out := rfl
@[simp] theorem State.setDom_doms (s : State) (g : Nat) (x : Dom) : (s.setDom g x).doms = fset s.doms g x := rfl
@[simp] theorem State.setDom_core (s : State) (g : Nat) (x : Dom) (j : Nat) : (s.setDom g x).core j = s.core j := rfl
theorem State.setDom_dom (s : State) (g : Nat) (x : Dom) (j : Nat) : (s.setDom g x).dom j = if j = g then x else s.dom j := by
  simp only [State.setDom, State.dom, fgetD_fset]
@[simp] theorem State.setDom_dom_self (s : State) (g : Nat) (x : Dom) : (s.setDom g x).dom g = x := by
  rw [State.setDom_dom, if_pos rfl]
@[simp] theorem State.setDom_bay (s : State) (g : Nat) (x : Dom) (j : Nat) : (s.setDom g x).bay j = s.bay j := rfl
@[simp] theorem State.setDom_fn (s : State) (g : Nat) (x : Dom) (j : Nat) : (s.setDom g x).fn j = s.fn j := rfl
@[simp] theorem State.setDom_port (s : State) (g : Nat) (x : Dom) (j : Nat) : (s.setDom g x).port j = s.port j := rfl
@[simp] theorem State.setDom_chute (s : State) (g : Nat) (x : Dom) (j : Nat) : (s.setDom g x).chute j = s.chute j := rfl
@[simp] theorem State.setDom_tenon (s : State) (g : Nat) (x : Dom) (j : Nat) : (s.setDom g x).tenon j = s.tenon j := rfl
@[simp] theorem State.setDom_die (s : State) (g : Nat) (x : Dom) (j : Nat) : (s.setDom g x).die j = s.die j := rfl
@[simp] theorem State.setDom_session (s : State) (g : Nat) (x : Dom) (j : Nat) : (s.setDom g x).session j = s.session j := rfl
@[simp] theorem State.setDom_now (s : State) (g : Nat) (x : Dom) : (s.setDom g x).now = s.now := rfl
@[simp] theorem State.setDom_felled (s : State) (g : Nat) (x : Dom) : (s.setDom g x).felled = s.felled := rfl

/-! ## setBay -/

@[simp] theorem State.setBay_pending (s : State) (n : Nat) (x : Bay) : (s.setBay n x).pending = s.pending := rfl
@[simp] theorem State.setBay_mod (s : State) (n : Nat) (x : Bay) : (s.setBay n x).mod = s.mod := rfl
@[simp] theorem State.setBay_dict (s : State) (n : Nat) (x : Bay) : (s.setBay n x).dict = s.dict := rfl
@[simp] theorem State.setBay_flash (s : State) (n : Nat) (x : Bay) : (s.setBay n x).flash = s.flash := rfl
@[simp] theorem State.setBay_trust (s : State) (n : Nat) (x : Bay) : (s.setBay n x).trust = s.trust := rfl
@[simp] theorem State.setBay_groves (s : State) (n : Nat) (x : Bay) : (s.setBay n x).groves = s.groves := rfl
@[simp] theorem State.setBay_deadGroves (s : State) (n : Nat) (x : Bay) : (s.setBay n x).deadGroves = s.deadGroves := rfl
@[simp] theorem State.setBay_doms (s : State) (n : Nat) (x : Bay) : (s.setBay n x).doms = s.doms := rfl
@[simp] theorem State.setBay_cores (s : State) (n : Nat) (x : Bay) : (s.setBay n x).cores = s.cores := rfl
@[simp] theorem State.setBay_ctxs (s : State) (n : Nat) (x : Bay) : (s.setBay n x).ctxs = s.ctxs := rfl
@[simp] theorem State.setBay_queues (s : State) (n : Nat) (x : Bay) : (s.setBay n x).queues = s.queues := rfl
@[simp] theorem State.setBay_kerns (s : State) (n : Nat) (x : Bay) : (s.setBay n x).kerns = s.kerns := rfl
@[simp] theorem State.setBay_nextKern (s : State) (n : Nat) (x : Bay) : (s.setBay n x).nextKern = s.nextKern := rfl
@[simp] theorem State.setBay_graphs (s : State) (n : Nat) (x : Bay) : (s.setBay n x).graphs = s.graphs := rfl
@[simp] theorem State.setBay_rets (s : State) (n : Nat) (x : Bay) : (s.setBay n x).rets = s.rets := rfl
@[simp] theorem State.setBay_launches (s : State) (n : Nat) (x : Bay) : (s.setBay n x).launches = s.launches := rfl
@[simp] theorem State.setBay_chutes (s : State) (n : Nat) (x : Bay) : (s.setBay n x).chutes = s.chutes := rfl
@[simp] theorem State.setBay_fns (s : State) (n : Nat) (x : Bay) : (s.setBay n x).fns = s.fns := rfl
@[simp] theorem State.setBay_classC (s : State) (n : Nat) (x : Bay) : (s.setBay n x).classC = s.classC := rfl
@[simp] theorem State.setBay_rr (s : State) (n : Nat) (x : Bay) : (s.setBay n x).rr = s.rr := rfl
@[simp] theorem State.setBay_resid (s : State) (n : Nat) (x : Bay) : (s.setBay n x).resid = s.resid := rfl
@[simp] theorem State.setBay_ports (s : State) (n : Nat) (x : Bay) : (s.setBay n x).ports = s.ports := rfl
@[simp] theorem State.setBay_mbox (s : State) (n : Nat) (x : Bay) : (s.setBay n x).mbox = s.mbox := rfl
@[simp] theorem State.setBay_mem (s : State) (n : Nat) (x : Bay) : (s.setBay n x).mem = s.mem := rfl
@[simp] theorem State.setBay_tenons (s : State) (n : Nat) (x : Bay) : (s.setBay n x).tenons = s.tenons := rfl
@[simp] theorem State.setBay_cuts (s : State) (n : Nat) (x : Bay) : (s.setBay n x).cuts = s.cuts := rfl
@[simp] theorem State.setBay_dies (s : State) (n : Nat) (x : Bay) : (s.setBay n x).dies = s.dies := rfl
@[simp] theorem State.setBay_sess (s : State) (n : Nat) (x : Bay) : (s.setBay n x).sess = s.sess := rfl
@[simp] theorem State.setBay_test (s : State) (n : Nat) (x : Bay) : (s.setBay n x).test = s.test := rfl
@[simp] theorem State.setBay_power (s : State) (n : Nat) (x : Bay) : (s.setBay n x).power = s.power := rfl
@[simp] theorem State.setBay_flog (s : State) (n : Nat) (x : Bay) : (s.setBay n x).flog = s.flog := rfl
@[simp] theorem State.setBay_fell (s : State) (n : Nat) (x : Bay) : (s.setBay n x).fell = s.fell := rfl
@[simp] theorem State.setBay_obs (s : State) (n : Nat) (x : Bay) : (s.setBay n x).obs = s.obs := rfl
@[simp] theorem State.setBay_dbg (s : State) (n : Nat) (x : Bay) : (s.setBay n x).dbg = s.dbg := rfl
@[simp] theorem State.setBay_free (s : State) (n : Nat) (x : Bay) : (s.setBay n x).free = s.free := rfl
@[simp] theorem State.setBay_out (s : State) (n : Nat) (x : Bay) : (s.setBay n x).out = s.out := rfl
@[simp] theorem State.setBay_bays (s : State) (n : Nat) (x : Bay) : (s.setBay n x).bays = fset s.bays n x := rfl
@[simp] theorem State.setBay_core (s : State) (n : Nat) (x : Bay) (j : Nat) : (s.setBay n x).core j = s.core j := rfl
@[simp] theorem State.setBay_dom (s : State) (n : Nat) (x : Bay) (j : Nat) : (s.setBay n x).dom j = s.dom j := rfl
theorem State.setBay_bay (s : State) (n : Nat) (x : Bay) (j : Nat) : (s.setBay n x).bay j = if j = n then x else s.bay j := by
  simp only [State.setBay, State.bay, fgetD_fset]
@[simp] theorem State.setBay_bay_self (s : State) (n : Nat) (x : Bay) : (s.setBay n x).bay n = x := by
  rw [State.setBay_bay, if_pos rfl]
@[simp] theorem State.setBay_fn (s : State) (n : Nat) (x : Bay) (j : Nat) : (s.setBay n x).fn j = s.fn j := rfl
@[simp] theorem State.setBay_port (s : State) (n : Nat) (x : Bay) (j : Nat) : (s.setBay n x).port j = s.port j := rfl
@[simp] theorem State.setBay_chute (s : State) (n : Nat) (x : Bay) (j : Nat) : (s.setBay n x).chute j = s.chute j := rfl
@[simp] theorem State.setBay_tenon (s : State) (n : Nat) (x : Bay) (j : Nat) : (s.setBay n x).tenon j = s.tenon j := rfl
@[simp] theorem State.setBay_die (s : State) (n : Nat) (x : Bay) (j : Nat) : (s.setBay n x).die j = s.die j := rfl
@[simp] theorem State.setBay_session (s : State) (n : Nat) (x : Bay) (j : Nat) : (s.setBay n x).session j = s.session j := rfl
@[simp] theorem State.setBay_now (s : State) (n : Nat) (x : Bay) : (s.setBay n x).now = s.now := rfl
@[simp] theorem State.setBay_felled (s : State) (n : Nat) (x : Bay) : (s.setBay n x).felled = s.felled := rfl

/-! ## setFn -/

@[simp] theorem State.setFn_pending (s : State) (f : Nat) (x : Fn) : (s.setFn f x).pending = s.pending := rfl
@[simp] theorem State.setFn_mod (s : State) (f : Nat) (x : Fn) : (s.setFn f x).mod = s.mod := rfl
@[simp] theorem State.setFn_dict (s : State) (f : Nat) (x : Fn) : (s.setFn f x).dict = s.dict := rfl
@[simp] theorem State.setFn_flash (s : State) (f : Nat) (x : Fn) : (s.setFn f x).flash = s.flash := rfl
@[simp] theorem State.setFn_trust (s : State) (f : Nat) (x : Fn) : (s.setFn f x).trust = s.trust := rfl
@[simp] theorem State.setFn_groves (s : State) (f : Nat) (x : Fn) : (s.setFn f x).groves = s.groves := rfl
@[simp] theorem State.setFn_deadGroves (s : State) (f : Nat) (x : Fn) : (s.setFn f x).deadGroves = s.deadGroves := rfl
@[simp] theorem State.setFn_bays (s : State) (f : Nat) (x : Fn) : (s.setFn f x).bays = s.bays := rfl
@[simp] theorem State.setFn_doms (s : State) (f : Nat) (x : Fn) : (s.setFn f x).doms = s.doms := rfl
@[simp] theorem State.setFn_cores (s : State) (f : Nat) (x : Fn) : (s.setFn f x).cores = s.cores := rfl
@[simp] theorem State.setFn_ctxs (s : State) (f : Nat) (x : Fn) : (s.setFn f x).ctxs = s.ctxs := rfl
@[simp] theorem State.setFn_queues (s : State) (f : Nat) (x : Fn) : (s.setFn f x).queues = s.queues := rfl
@[simp] theorem State.setFn_kerns (s : State) (f : Nat) (x : Fn) : (s.setFn f x).kerns = s.kerns := rfl
@[simp] theorem State.setFn_nextKern (s : State) (f : Nat) (x : Fn) : (s.setFn f x).nextKern = s.nextKern := rfl
@[simp] theorem State.setFn_graphs (s : State) (f : Nat) (x : Fn) : (s.setFn f x).graphs = s.graphs := rfl
@[simp] theorem State.setFn_rets (s : State) (f : Nat) (x : Fn) : (s.setFn f x).rets = s.rets := rfl
@[simp] theorem State.setFn_launches (s : State) (f : Nat) (x : Fn) : (s.setFn f x).launches = s.launches := rfl
@[simp] theorem State.setFn_chutes (s : State) (f : Nat) (x : Fn) : (s.setFn f x).chutes = s.chutes := rfl
@[simp] theorem State.setFn_classC (s : State) (f : Nat) (x : Fn) : (s.setFn f x).classC = s.classC := rfl
@[simp] theorem State.setFn_rr (s : State) (f : Nat) (x : Fn) : (s.setFn f x).rr = s.rr := rfl
@[simp] theorem State.setFn_resid (s : State) (f : Nat) (x : Fn) : (s.setFn f x).resid = s.resid := rfl
@[simp] theorem State.setFn_ports (s : State) (f : Nat) (x : Fn) : (s.setFn f x).ports = s.ports := rfl
@[simp] theorem State.setFn_mbox (s : State) (f : Nat) (x : Fn) : (s.setFn f x).mbox = s.mbox := rfl
@[simp] theorem State.setFn_mem (s : State) (f : Nat) (x : Fn) : (s.setFn f x).mem = s.mem := rfl
@[simp] theorem State.setFn_tenons (s : State) (f : Nat) (x : Fn) : (s.setFn f x).tenons = s.tenons := rfl
@[simp] theorem State.setFn_cuts (s : State) (f : Nat) (x : Fn) : (s.setFn f x).cuts = s.cuts := rfl
@[simp] theorem State.setFn_dies (s : State) (f : Nat) (x : Fn) : (s.setFn f x).dies = s.dies := rfl
@[simp] theorem State.setFn_sess (s : State) (f : Nat) (x : Fn) : (s.setFn f x).sess = s.sess := rfl
@[simp] theorem State.setFn_test (s : State) (f : Nat) (x : Fn) : (s.setFn f x).test = s.test := rfl
@[simp] theorem State.setFn_power (s : State) (f : Nat) (x : Fn) : (s.setFn f x).power = s.power := rfl
@[simp] theorem State.setFn_flog (s : State) (f : Nat) (x : Fn) : (s.setFn f x).flog = s.flog := rfl
@[simp] theorem State.setFn_fell (s : State) (f : Nat) (x : Fn) : (s.setFn f x).fell = s.fell := rfl
@[simp] theorem State.setFn_obs (s : State) (f : Nat) (x : Fn) : (s.setFn f x).obs = s.obs := rfl
@[simp] theorem State.setFn_dbg (s : State) (f : Nat) (x : Fn) : (s.setFn f x).dbg = s.dbg := rfl
@[simp] theorem State.setFn_free (s : State) (f : Nat) (x : Fn) : (s.setFn f x).free = s.free := rfl
@[simp] theorem State.setFn_out (s : State) (f : Nat) (x : Fn) : (s.setFn f x).out = s.out := rfl
@[simp] theorem State.setFn_fns (s : State) (f : Nat) (x : Fn) : (s.setFn f x).fns = fset s.fns f x := rfl
@[simp] theorem State.setFn_core (s : State) (f : Nat) (x : Fn) (j : Nat) : (s.setFn f x).core j = s.core j := rfl
@[simp] theorem State.setFn_dom (s : State) (f : Nat) (x : Fn) (j : Nat) : (s.setFn f x).dom j = s.dom j := rfl
@[simp] theorem State.setFn_bay (s : State) (f : Nat) (x : Fn) (j : Nat) : (s.setFn f x).bay j = s.bay j := rfl
theorem State.setFn_fn (s : State) (f : Nat) (x : Fn) (j : Nat) : (s.setFn f x).fn j = if j = f then x else s.fn j := by
  simp only [State.setFn, State.fn, fgetD_fset]
@[simp] theorem State.setFn_fn_self (s : State) (f : Nat) (x : Fn) : (s.setFn f x).fn f = x := by
  rw [State.setFn_fn, if_pos rfl]
@[simp] theorem State.setFn_port (s : State) (f : Nat) (x : Fn) (j : Nat) : (s.setFn f x).port j = s.port j := rfl
@[simp] theorem State.setFn_chute (s : State) (f : Nat) (x : Fn) (j : Nat) : (s.setFn f x).chute j = s.chute j := rfl
@[simp] theorem State.setFn_tenon (s : State) (f : Nat) (x : Fn) (j : Nat) : (s.setFn f x).tenon j = s.tenon j := rfl
@[simp] theorem State.setFn_die (s : State) (f : Nat) (x : Fn) (j : Nat) : (s.setFn f x).die j = s.die j := rfl
@[simp] theorem State.setFn_session (s : State) (f : Nat) (x : Fn) (j : Nat) : (s.setFn f x).session j = s.session j := rfl
@[simp] theorem State.setFn_now (s : State) (f : Nat) (x : Fn) : (s.setFn f x).now = s.now := rfl
@[simp] theorem State.setFn_felled (s : State) (f : Nat) (x : Fn) : (s.setFn f x).felled = s.felled := rfl

/-! ## setPort -/

@[simp] theorem State.setPort_pending (s : State) (p : Nat) (x : CxlPort) : (s.setPort p x).pending = s.pending := rfl
@[simp] theorem State.setPort_mod (s : State) (p : Nat) (x : CxlPort) : (s.setPort p x).mod = s.mod := rfl
@[simp] theorem State.setPort_dict (s : State) (p : Nat) (x : CxlPort) : (s.setPort p x).dict = s.dict := rfl
@[simp] theorem State.setPort_flash (s : State) (p : Nat) (x : CxlPort) : (s.setPort p x).flash = s.flash := rfl
@[simp] theorem State.setPort_trust (s : State) (p : Nat) (x : CxlPort) : (s.setPort p x).trust = s.trust := rfl
@[simp] theorem State.setPort_groves (s : State) (p : Nat) (x : CxlPort) : (s.setPort p x).groves = s.groves := rfl
@[simp] theorem State.setPort_deadGroves (s : State) (p : Nat) (x : CxlPort) : (s.setPort p x).deadGroves = s.deadGroves := rfl
@[simp] theorem State.setPort_bays (s : State) (p : Nat) (x : CxlPort) : (s.setPort p x).bays = s.bays := rfl
@[simp] theorem State.setPort_doms (s : State) (p : Nat) (x : CxlPort) : (s.setPort p x).doms = s.doms := rfl
@[simp] theorem State.setPort_cores (s : State) (p : Nat) (x : CxlPort) : (s.setPort p x).cores = s.cores := rfl
@[simp] theorem State.setPort_ctxs (s : State) (p : Nat) (x : CxlPort) : (s.setPort p x).ctxs = s.ctxs := rfl
@[simp] theorem State.setPort_queues (s : State) (p : Nat) (x : CxlPort) : (s.setPort p x).queues = s.queues := rfl
@[simp] theorem State.setPort_kerns (s : State) (p : Nat) (x : CxlPort) : (s.setPort p x).kerns = s.kerns := rfl
@[simp] theorem State.setPort_nextKern (s : State) (p : Nat) (x : CxlPort) : (s.setPort p x).nextKern = s.nextKern := rfl
@[simp] theorem State.setPort_graphs (s : State) (p : Nat) (x : CxlPort) : (s.setPort p x).graphs = s.graphs := rfl
@[simp] theorem State.setPort_rets (s : State) (p : Nat) (x : CxlPort) : (s.setPort p x).rets = s.rets := rfl
@[simp] theorem State.setPort_launches (s : State) (p : Nat) (x : CxlPort) : (s.setPort p x).launches = s.launches := rfl
@[simp] theorem State.setPort_chutes (s : State) (p : Nat) (x : CxlPort) : (s.setPort p x).chutes = s.chutes := rfl
@[simp] theorem State.setPort_fns (s : State) (p : Nat) (x : CxlPort) : (s.setPort p x).fns = s.fns := rfl
@[simp] theorem State.setPort_classC (s : State) (p : Nat) (x : CxlPort) : (s.setPort p x).classC = s.classC := rfl
@[simp] theorem State.setPort_rr (s : State) (p : Nat) (x : CxlPort) : (s.setPort p x).rr = s.rr := rfl
@[simp] theorem State.setPort_resid (s : State) (p : Nat) (x : CxlPort) : (s.setPort p x).resid = s.resid := rfl
@[simp] theorem State.setPort_mbox (s : State) (p : Nat) (x : CxlPort) : (s.setPort p x).mbox = s.mbox := rfl
@[simp] theorem State.setPort_mem (s : State) (p : Nat) (x : CxlPort) : (s.setPort p x).mem = s.mem := rfl
@[simp] theorem State.setPort_tenons (s : State) (p : Nat) (x : CxlPort) : (s.setPort p x).tenons = s.tenons := rfl
@[simp] theorem State.setPort_cuts (s : State) (p : Nat) (x : CxlPort) : (s.setPort p x).cuts = s.cuts := rfl
@[simp] theorem State.setPort_dies (s : State) (p : Nat) (x : CxlPort) : (s.setPort p x).dies = s.dies := rfl
@[simp] theorem State.setPort_sess (s : State) (p : Nat) (x : CxlPort) : (s.setPort p x).sess = s.sess := rfl
@[simp] theorem State.setPort_test (s : State) (p : Nat) (x : CxlPort) : (s.setPort p x).test = s.test := rfl
@[simp] theorem State.setPort_power (s : State) (p : Nat) (x : CxlPort) : (s.setPort p x).power = s.power := rfl
@[simp] theorem State.setPort_flog (s : State) (p : Nat) (x : CxlPort) : (s.setPort p x).flog = s.flog := rfl
@[simp] theorem State.setPort_fell (s : State) (p : Nat) (x : CxlPort) : (s.setPort p x).fell = s.fell := rfl
@[simp] theorem State.setPort_obs (s : State) (p : Nat) (x : CxlPort) : (s.setPort p x).obs = s.obs := rfl
@[simp] theorem State.setPort_dbg (s : State) (p : Nat) (x : CxlPort) : (s.setPort p x).dbg = s.dbg := rfl
@[simp] theorem State.setPort_free (s : State) (p : Nat) (x : CxlPort) : (s.setPort p x).free = s.free := rfl
@[simp] theorem State.setPort_out (s : State) (p : Nat) (x : CxlPort) : (s.setPort p x).out = s.out := rfl
@[simp] theorem State.setPort_ports (s : State) (p : Nat) (x : CxlPort) : (s.setPort p x).ports = fset s.ports p x := rfl
@[simp] theorem State.setPort_core (s : State) (p : Nat) (x : CxlPort) (j : Nat) : (s.setPort p x).core j = s.core j := rfl
@[simp] theorem State.setPort_dom (s : State) (p : Nat) (x : CxlPort) (j : Nat) : (s.setPort p x).dom j = s.dom j := rfl
@[simp] theorem State.setPort_bay (s : State) (p : Nat) (x : CxlPort) (j : Nat) : (s.setPort p x).bay j = s.bay j := rfl
@[simp] theorem State.setPort_fn (s : State) (p : Nat) (x : CxlPort) (j : Nat) : (s.setPort p x).fn j = s.fn j := rfl
theorem State.setPort_port (s : State) (p : Nat) (x : CxlPort) (j : Nat) : (s.setPort p x).port j = if j = p then x else s.port j := by
  simp only [State.setPort, State.port, fgetD_fset]
@[simp] theorem State.setPort_port_self (s : State) (p : Nat) (x : CxlPort) : (s.setPort p x).port p = x := by
  rw [State.setPort_port, if_pos rfl]
@[simp] theorem State.setPort_chute (s : State) (p : Nat) (x : CxlPort) (j : Nat) : (s.setPort p x).chute j = s.chute j := rfl
@[simp] theorem State.setPort_tenon (s : State) (p : Nat) (x : CxlPort) (j : Nat) : (s.setPort p x).tenon j = s.tenon j := rfl
@[simp] theorem State.setPort_die (s : State) (p : Nat) (x : CxlPort) (j : Nat) : (s.setPort p x).die j = s.die j := rfl
@[simp] theorem State.setPort_session (s : State) (p : Nat) (x : CxlPort) (j : Nat) : (s.setPort p x).session j = s.session j := rfl
@[simp] theorem State.setPort_now (s : State) (p : Nat) (x : CxlPort) : (s.setPort p x).now = s.now := rfl
@[simp] theorem State.setPort_felled (s : State) (p : Nat) (x : CxlPort) : (s.setPort p x).felled = s.felled := rfl

/-! ## setChute -/

@[simp] theorem State.setChute_pending (s : State) (c : Nat) (x : Chute) : (s.setChute c x).pending = s.pending := rfl
@[simp] theorem State.setChute_mod (s : State) (c : Nat) (x : Chute) : (s.setChute c x).mod = s.mod := rfl
@[simp] theorem State.setChute_dict (s : State) (c : Nat) (x : Chute) : (s.setChute c x).dict = s.dict := rfl
@[simp] theorem State.setChute_flash (s : State) (c : Nat) (x : Chute) : (s.setChute c x).flash = s.flash := rfl
@[simp] theorem State.setChute_trust (s : State) (c : Nat) (x : Chute) : (s.setChute c x).trust = s.trust := rfl
@[simp] theorem State.setChute_groves (s : State) (c : Nat) (x : Chute) : (s.setChute c x).groves = s.groves := rfl
@[simp] theorem State.setChute_deadGroves (s : State) (c : Nat) (x : Chute) : (s.setChute c x).deadGroves = s.deadGroves := rfl
@[simp] theorem State.setChute_bays (s : State) (c : Nat) (x : Chute) : (s.setChute c x).bays = s.bays := rfl
@[simp] theorem State.setChute_doms (s : State) (c : Nat) (x : Chute) : (s.setChute c x).doms = s.doms := rfl
@[simp] theorem State.setChute_cores (s : State) (c : Nat) (x : Chute) : (s.setChute c x).cores = s.cores := rfl
@[simp] theorem State.setChute_ctxs (s : State) (c : Nat) (x : Chute) : (s.setChute c x).ctxs = s.ctxs := rfl
@[simp] theorem State.setChute_queues (s : State) (c : Nat) (x : Chute) : (s.setChute c x).queues = s.queues := rfl
@[simp] theorem State.setChute_kerns (s : State) (c : Nat) (x : Chute) : (s.setChute c x).kerns = s.kerns := rfl
@[simp] theorem State.setChute_nextKern (s : State) (c : Nat) (x : Chute) : (s.setChute c x).nextKern = s.nextKern := rfl
@[simp] theorem State.setChute_graphs (s : State) (c : Nat) (x : Chute) : (s.setChute c x).graphs = s.graphs := rfl
@[simp] theorem State.setChute_rets (s : State) (c : Nat) (x : Chute) : (s.setChute c x).rets = s.rets := rfl
@[simp] theorem State.setChute_launches (s : State) (c : Nat) (x : Chute) : (s.setChute c x).launches = s.launches := rfl
@[simp] theorem State.setChute_fns (s : State) (c : Nat) (x : Chute) : (s.setChute c x).fns = s.fns := rfl
@[simp] theorem State.setChute_classC (s : State) (c : Nat) (x : Chute) : (s.setChute c x).classC = s.classC := rfl
@[simp] theorem State.setChute_rr (s : State) (c : Nat) (x : Chute) : (s.setChute c x).rr = s.rr := rfl
@[simp] theorem State.setChute_resid (s : State) (c : Nat) (x : Chute) : (s.setChute c x).resid = s.resid := rfl
@[simp] theorem State.setChute_ports (s : State) (c : Nat) (x : Chute) : (s.setChute c x).ports = s.ports := rfl
@[simp] theorem State.setChute_mbox (s : State) (c : Nat) (x : Chute) : (s.setChute c x).mbox = s.mbox := rfl
@[simp] theorem State.setChute_mem (s : State) (c : Nat) (x : Chute) : (s.setChute c x).mem = s.mem := rfl
@[simp] theorem State.setChute_tenons (s : State) (c : Nat) (x : Chute) : (s.setChute c x).tenons = s.tenons := rfl
@[simp] theorem State.setChute_cuts (s : State) (c : Nat) (x : Chute) : (s.setChute c x).cuts = s.cuts := rfl
@[simp] theorem State.setChute_dies (s : State) (c : Nat) (x : Chute) : (s.setChute c x).dies = s.dies := rfl
@[simp] theorem State.setChute_sess (s : State) (c : Nat) (x : Chute) : (s.setChute c x).sess = s.sess := rfl
@[simp] theorem State.setChute_test (s : State) (c : Nat) (x : Chute) : (s.setChute c x).test = s.test := rfl
@[simp] theorem State.setChute_power (s : State) (c : Nat) (x : Chute) : (s.setChute c x).power = s.power := rfl
@[simp] theorem State.setChute_flog (s : State) (c : Nat) (x : Chute) : (s.setChute c x).flog = s.flog := rfl
@[simp] theorem State.setChute_fell (s : State) (c : Nat) (x : Chute) : (s.setChute c x).fell = s.fell := rfl
@[simp] theorem State.setChute_obs (s : State) (c : Nat) (x : Chute) : (s.setChute c x).obs = s.obs := rfl
@[simp] theorem State.setChute_dbg (s : State) (c : Nat) (x : Chute) : (s.setChute c x).dbg = s.dbg := rfl
@[simp] theorem State.setChute_free (s : State) (c : Nat) (x : Chute) : (s.setChute c x).free = s.free := rfl
@[simp] theorem State.setChute_out (s : State) (c : Nat) (x : Chute) : (s.setChute c x).out = s.out := rfl
@[simp] theorem State.setChute_chutes (s : State) (c : Nat) (x : Chute) : (s.setChute c x).chutes = fset s.chutes c x := rfl
@[simp] theorem State.setChute_core (s : State) (c : Nat) (x : Chute) (j : Nat) : (s.setChute c x).core j = s.core j := rfl
@[simp] theorem State.setChute_dom (s : State) (c : Nat) (x : Chute) (j : Nat) : (s.setChute c x).dom j = s.dom j := rfl
@[simp] theorem State.setChute_bay (s : State) (c : Nat) (x : Chute) (j : Nat) : (s.setChute c x).bay j = s.bay j := rfl
@[simp] theorem State.setChute_fn (s : State) (c : Nat) (x : Chute) (j : Nat) : (s.setChute c x).fn j = s.fn j := rfl
@[simp] theorem State.setChute_port (s : State) (c : Nat) (x : Chute) (j : Nat) : (s.setChute c x).port j = s.port j := rfl
theorem State.setChute_chute (s : State) (c : Nat) (x : Chute) (j : Nat) : (s.setChute c x).chute j = if j = c then x else s.chute j := by
  simp only [State.setChute, State.chute, fgetD_fset]
@[simp] theorem State.setChute_chute_self (s : State) (c : Nat) (x : Chute) : (s.setChute c x).chute c = x := by
  rw [State.setChute_chute, if_pos rfl]
@[simp] theorem State.setChute_tenon (s : State) (c : Nat) (x : Chute) (j : Nat) : (s.setChute c x).tenon j = s.tenon j := rfl
@[simp] theorem State.setChute_die (s : State) (c : Nat) (x : Chute) (j : Nat) : (s.setChute c x).die j = s.die j := rfl
@[simp] theorem State.setChute_session (s : State) (c : Nat) (x : Chute) (j : Nat) : (s.setChute c x).session j = s.session j := rfl
@[simp] theorem State.setChute_now (s : State) (c : Nat) (x : Chute) : (s.setChute c x).now = s.now := rfl
@[simp] theorem State.setChute_felled (s : State) (c : Nat) (x : Chute) : (s.setChute c x).felled = s.felled := rfl

/-! ## setTenon -/

@[simp] theorem State.setTenon_pending (s : State) (k : Nat) (x : Tenon) : (s.setTenon k x).pending = s.pending := rfl
@[simp] theorem State.setTenon_mod (s : State) (k : Nat) (x : Tenon) : (s.setTenon k x).mod = s.mod := rfl
@[simp] theorem State.setTenon_dict (s : State) (k : Nat) (x : Tenon) : (s.setTenon k x).dict = s.dict := rfl
@[simp] theorem State.setTenon_flash (s : State) (k : Nat) (x : Tenon) : (s.setTenon k x).flash = s.flash := rfl
@[simp] theorem State.setTenon_trust (s : State) (k : Nat) (x : Tenon) : (s.setTenon k x).trust = s.trust := rfl
@[simp] theorem State.setTenon_groves (s : State) (k : Nat) (x : Tenon) : (s.setTenon k x).groves = s.groves := rfl
@[simp] theorem State.setTenon_deadGroves (s : State) (k : Nat) (x : Tenon) : (s.setTenon k x).deadGroves = s.deadGroves := rfl
@[simp] theorem State.setTenon_bays (s : State) (k : Nat) (x : Tenon) : (s.setTenon k x).bays = s.bays := rfl
@[simp] theorem State.setTenon_doms (s : State) (k : Nat) (x : Tenon) : (s.setTenon k x).doms = s.doms := rfl
@[simp] theorem State.setTenon_cores (s : State) (k : Nat) (x : Tenon) : (s.setTenon k x).cores = s.cores := rfl
@[simp] theorem State.setTenon_ctxs (s : State) (k : Nat) (x : Tenon) : (s.setTenon k x).ctxs = s.ctxs := rfl
@[simp] theorem State.setTenon_queues (s : State) (k : Nat) (x : Tenon) : (s.setTenon k x).queues = s.queues := rfl
@[simp] theorem State.setTenon_kerns (s : State) (k : Nat) (x : Tenon) : (s.setTenon k x).kerns = s.kerns := rfl
@[simp] theorem State.setTenon_nextKern (s : State) (k : Nat) (x : Tenon) : (s.setTenon k x).nextKern = s.nextKern := rfl
@[simp] theorem State.setTenon_graphs (s : State) (k : Nat) (x : Tenon) : (s.setTenon k x).graphs = s.graphs := rfl
@[simp] theorem State.setTenon_rets (s : State) (k : Nat) (x : Tenon) : (s.setTenon k x).rets = s.rets := rfl
@[simp] theorem State.setTenon_launches (s : State) (k : Nat) (x : Tenon) : (s.setTenon k x).launches = s.launches := rfl
@[simp] theorem State.setTenon_chutes (s : State) (k : Nat) (x : Tenon) : (s.setTenon k x).chutes = s.chutes := rfl
@[simp] theorem State.setTenon_fns (s : State) (k : Nat) (x : Tenon) : (s.setTenon k x).fns = s.fns := rfl
@[simp] theorem State.setTenon_classC (s : State) (k : Nat) (x : Tenon) : (s.setTenon k x).classC = s.classC := rfl
@[simp] theorem State.setTenon_rr (s : State) (k : Nat) (x : Tenon) : (s.setTenon k x).rr = s.rr := rfl
@[simp] theorem State.setTenon_resid (s : State) (k : Nat) (x : Tenon) : (s.setTenon k x).resid = s.resid := rfl
@[simp] theorem State.setTenon_ports (s : State) (k : Nat) (x : Tenon) : (s.setTenon k x).ports = s.ports := rfl
@[simp] theorem State.setTenon_mbox (s : State) (k : Nat) (x : Tenon) : (s.setTenon k x).mbox = s.mbox := rfl
@[simp] theorem State.setTenon_mem (s : State) (k : Nat) (x : Tenon) : (s.setTenon k x).mem = s.mem := rfl
@[simp] theorem State.setTenon_cuts (s : State) (k : Nat) (x : Tenon) : (s.setTenon k x).cuts = s.cuts := rfl
@[simp] theorem State.setTenon_dies (s : State) (k : Nat) (x : Tenon) : (s.setTenon k x).dies = s.dies := rfl
@[simp] theorem State.setTenon_sess (s : State) (k : Nat) (x : Tenon) : (s.setTenon k x).sess = s.sess := rfl
@[simp] theorem State.setTenon_test (s : State) (k : Nat) (x : Tenon) : (s.setTenon k x).test = s.test := rfl
@[simp] theorem State.setTenon_power (s : State) (k : Nat) (x : Tenon) : (s.setTenon k x).power = s.power := rfl
@[simp] theorem State.setTenon_flog (s : State) (k : Nat) (x : Tenon) : (s.setTenon k x).flog = s.flog := rfl
@[simp] theorem State.setTenon_fell (s : State) (k : Nat) (x : Tenon) : (s.setTenon k x).fell = s.fell := rfl
@[simp] theorem State.setTenon_obs (s : State) (k : Nat) (x : Tenon) : (s.setTenon k x).obs = s.obs := rfl
@[simp] theorem State.setTenon_dbg (s : State) (k : Nat) (x : Tenon) : (s.setTenon k x).dbg = s.dbg := rfl
@[simp] theorem State.setTenon_free (s : State) (k : Nat) (x : Tenon) : (s.setTenon k x).free = s.free := rfl
@[simp] theorem State.setTenon_out (s : State) (k : Nat) (x : Tenon) : (s.setTenon k x).out = s.out := rfl
@[simp] theorem State.setTenon_tenons (s : State) (k : Nat) (x : Tenon) : (s.setTenon k x).tenons = fset s.tenons k x := rfl
@[simp] theorem State.setTenon_core (s : State) (k : Nat) (x : Tenon) (j : Nat) : (s.setTenon k x).core j = s.core j := rfl
@[simp] theorem State.setTenon_dom (s : State) (k : Nat) (x : Tenon) (j : Nat) : (s.setTenon k x).dom j = s.dom j := rfl
@[simp] theorem State.setTenon_bay (s : State) (k : Nat) (x : Tenon) (j : Nat) : (s.setTenon k x).bay j = s.bay j := rfl
@[simp] theorem State.setTenon_fn (s : State) (k : Nat) (x : Tenon) (j : Nat) : (s.setTenon k x).fn j = s.fn j := rfl
@[simp] theorem State.setTenon_port (s : State) (k : Nat) (x : Tenon) (j : Nat) : (s.setTenon k x).port j = s.port j := rfl
@[simp] theorem State.setTenon_chute (s : State) (k : Nat) (x : Tenon) (j : Nat) : (s.setTenon k x).chute j = s.chute j := rfl
theorem State.setTenon_tenon (s : State) (k : Nat) (x : Tenon) (j : Nat) : (s.setTenon k x).tenon j = if j = k then x else s.tenon j := by
  simp only [State.setTenon, State.tenon, fgetD_fset]
@[simp] theorem State.setTenon_tenon_self (s : State) (k : Nat) (x : Tenon) : (s.setTenon k x).tenon k = x := by
  rw [State.setTenon_tenon, if_pos rfl]
@[simp] theorem State.setTenon_die (s : State) (k : Nat) (x : Tenon) (j : Nat) : (s.setTenon k x).die j = s.die j := rfl
@[simp] theorem State.setTenon_session (s : State) (k : Nat) (x : Tenon) (j : Nat) : (s.setTenon k x).session j = s.session j := rfl
@[simp] theorem State.setTenon_now (s : State) (k : Nat) (x : Tenon) : (s.setTenon k x).now = s.now := rfl
@[simp] theorem State.setTenon_felled (s : State) (k : Nat) (x : Tenon) : (s.setTenon k x).felled = s.felled := rfl

/-! ## setDie -/

@[simp] theorem State.setDie_pending (s : State) (n : Nat) (x : Die) : (s.setDie n x).pending = s.pending := rfl
@[simp] theorem State.setDie_mod (s : State) (n : Nat) (x : Die) : (s.setDie n x).mod = s.mod := rfl
@[simp] theorem State.setDie_dict (s : State) (n : Nat) (x : Die) : (s.setDie n x).dict = s.dict := rfl
@[simp] theorem State.setDie_flash (s : State) (n : Nat) (x : Die) : (s.setDie n x).flash = s.flash := rfl
@[simp] theorem State.setDie_trust (s : State) (n : Nat) (x : Die) : (s.setDie n x).trust = s.trust := rfl
@[simp] theorem State.setDie_groves (s : State) (n : Nat) (x : Die) : (s.setDie n x).groves = s.groves := rfl
@[simp] theorem State.setDie_deadGroves (s : State) (n : Nat) (x : Die) : (s.setDie n x).deadGroves = s.deadGroves := rfl
@[simp] theorem State.setDie_bays (s : State) (n : Nat) (x : Die) : (s.setDie n x).bays = s.bays := rfl
@[simp] theorem State.setDie_doms (s : State) (n : Nat) (x : Die) : (s.setDie n x).doms = s.doms := rfl
@[simp] theorem State.setDie_cores (s : State) (n : Nat) (x : Die) : (s.setDie n x).cores = s.cores := rfl
@[simp] theorem State.setDie_ctxs (s : State) (n : Nat) (x : Die) : (s.setDie n x).ctxs = s.ctxs := rfl
@[simp] theorem State.setDie_queues (s : State) (n : Nat) (x : Die) : (s.setDie n x).queues = s.queues := rfl
@[simp] theorem State.setDie_kerns (s : State) (n : Nat) (x : Die) : (s.setDie n x).kerns = s.kerns := rfl
@[simp] theorem State.setDie_nextKern (s : State) (n : Nat) (x : Die) : (s.setDie n x).nextKern = s.nextKern := rfl
@[simp] theorem State.setDie_graphs (s : State) (n : Nat) (x : Die) : (s.setDie n x).graphs = s.graphs := rfl
@[simp] theorem State.setDie_rets (s : State) (n : Nat) (x : Die) : (s.setDie n x).rets = s.rets := rfl
@[simp] theorem State.setDie_launches (s : State) (n : Nat) (x : Die) : (s.setDie n x).launches = s.launches := rfl
@[simp] theorem State.setDie_chutes (s : State) (n : Nat) (x : Die) : (s.setDie n x).chutes = s.chutes := rfl
@[simp] theorem State.setDie_fns (s : State) (n : Nat) (x : Die) : (s.setDie n x).fns = s.fns := rfl
@[simp] theorem State.setDie_classC (s : State) (n : Nat) (x : Die) : (s.setDie n x).classC = s.classC := rfl
@[simp] theorem State.setDie_rr (s : State) (n : Nat) (x : Die) : (s.setDie n x).rr = s.rr := rfl
@[simp] theorem State.setDie_resid (s : State) (n : Nat) (x : Die) : (s.setDie n x).resid = s.resid := rfl
@[simp] theorem State.setDie_ports (s : State) (n : Nat) (x : Die) : (s.setDie n x).ports = s.ports := rfl
@[simp] theorem State.setDie_mbox (s : State) (n : Nat) (x : Die) : (s.setDie n x).mbox = s.mbox := rfl
@[simp] theorem State.setDie_mem (s : State) (n : Nat) (x : Die) : (s.setDie n x).mem = s.mem := rfl
@[simp] theorem State.setDie_tenons (s : State) (n : Nat) (x : Die) : (s.setDie n x).tenons = s.tenons := rfl
@[simp] theorem State.setDie_cuts (s : State) (n : Nat) (x : Die) : (s.setDie n x).cuts = s.cuts := rfl
@[simp] theorem State.setDie_sess (s : State) (n : Nat) (x : Die) : (s.setDie n x).sess = s.sess := rfl
@[simp] theorem State.setDie_test (s : State) (n : Nat) (x : Die) : (s.setDie n x).test = s.test := rfl
@[simp] theorem State.setDie_power (s : State) (n : Nat) (x : Die) : (s.setDie n x).power = s.power := rfl
@[simp] theorem State.setDie_flog (s : State) (n : Nat) (x : Die) : (s.setDie n x).flog = s.flog := rfl
@[simp] theorem State.setDie_fell (s : State) (n : Nat) (x : Die) : (s.setDie n x).fell = s.fell := rfl
@[simp] theorem State.setDie_obs (s : State) (n : Nat) (x : Die) : (s.setDie n x).obs = s.obs := rfl
@[simp] theorem State.setDie_dbg (s : State) (n : Nat) (x : Die) : (s.setDie n x).dbg = s.dbg := rfl
@[simp] theorem State.setDie_free (s : State) (n : Nat) (x : Die) : (s.setDie n x).free = s.free := rfl
@[simp] theorem State.setDie_out (s : State) (n : Nat) (x : Die) : (s.setDie n x).out = s.out := rfl
@[simp] theorem State.setDie_dies (s : State) (n : Nat) (x : Die) : (s.setDie n x).dies = fset s.dies n x := rfl
@[simp] theorem State.setDie_core (s : State) (n : Nat) (x : Die) (j : Nat) : (s.setDie n x).core j = s.core j := rfl
@[simp] theorem State.setDie_dom (s : State) (n : Nat) (x : Die) (j : Nat) : (s.setDie n x).dom j = s.dom j := rfl
@[simp] theorem State.setDie_bay (s : State) (n : Nat) (x : Die) (j : Nat) : (s.setDie n x).bay j = s.bay j := rfl
@[simp] theorem State.setDie_fn (s : State) (n : Nat) (x : Die) (j : Nat) : (s.setDie n x).fn j = s.fn j := rfl
@[simp] theorem State.setDie_port (s : State) (n : Nat) (x : Die) (j : Nat) : (s.setDie n x).port j = s.port j := rfl
@[simp] theorem State.setDie_chute (s : State) (n : Nat) (x : Die) (j : Nat) : (s.setDie n x).chute j = s.chute j := rfl
@[simp] theorem State.setDie_tenon (s : State) (n : Nat) (x : Die) (j : Nat) : (s.setDie n x).tenon j = s.tenon j := rfl
theorem State.setDie_die (s : State) (n : Nat) (x : Die) (j : Nat) : (s.setDie n x).die j = if j = n then x else s.die j := by
  simp only [State.setDie, State.die, fgetD_fset]
@[simp] theorem State.setDie_die_self (s : State) (n : Nat) (x : Die) : (s.setDie n x).die n = x := by
  rw [State.setDie_die, if_pos rfl]
@[simp] theorem State.setDie_session (s : State) (n : Nat) (x : Die) (j : Nat) : (s.setDie n x).session j = s.session j := rfl
@[simp] theorem State.setDie_now (s : State) (n : Nat) (x : Die) : (s.setDie n x).now = s.now := rfl
@[simp] theorem State.setDie_felled (s : State) (n : Nat) (x : Die) : (s.setDie n x).felled = s.felled := rfl

/-! ## setSess -/

@[simp] theorem State.setSess_pending (s : State) (n : Nat) (x : Sess) : (s.setSess n x).pending = s.pending := rfl
@[simp] theorem State.setSess_mod (s : State) (n : Nat) (x : Sess) : (s.setSess n x).mod = s.mod := rfl
@[simp] theorem State.setSess_dict (s : State) (n : Nat) (x : Sess) : (s.setSess n x).dict = s.dict := rfl
@[simp] theorem State.setSess_flash (s : State) (n : Nat) (x : Sess) : (s.setSess n x).flash = s.flash := rfl
@[simp] theorem State.setSess_trust (s : State) (n : Nat) (x : Sess) : (s.setSess n x).trust = s.trust := rfl
@[simp] theorem State.setSess_groves (s : State) (n : Nat) (x : Sess) : (s.setSess n x).groves = s.groves := rfl
@[simp] theorem State.setSess_deadGroves (s : State) (n : Nat) (x : Sess) : (s.setSess n x).deadGroves = s.deadGroves := rfl
@[simp] theorem State.setSess_bays (s : State) (n : Nat) (x : Sess) : (s.setSess n x).bays = s.bays := rfl
@[simp] theorem State.setSess_doms (s : State) (n : Nat) (x : Sess) : (s.setSess n x).doms = s.doms := rfl
@[simp] theorem State.setSess_cores (s : State) (n : Nat) (x : Sess) : (s.setSess n x).cores = s.cores := rfl
@[simp] theorem State.setSess_ctxs (s : State) (n : Nat) (x : Sess) : (s.setSess n x).ctxs = s.ctxs := rfl
@[simp] theorem State.setSess_queues (s : State) (n : Nat) (x : Sess) : (s.setSess n x).queues = s.queues := rfl
@[simp] theorem State.setSess_kerns (s : State) (n : Nat) (x : Sess) : (s.setSess n x).kerns = s.kerns := rfl
@[simp] theorem State.setSess_nextKern (s : State) (n : Nat) (x : Sess) : (s.setSess n x).nextKern = s.nextKern := rfl
@[simp] theorem State.setSess_graphs (s : State) (n : Nat) (x : Sess) : (s.setSess n x).graphs = s.graphs := rfl
@[simp] theorem State.setSess_rets (s : State) (n : Nat) (x : Sess) : (s.setSess n x).rets = s.rets := rfl
@[simp] theorem State.setSess_launches (s : State) (n : Nat) (x : Sess) : (s.setSess n x).launches = s.launches := rfl
@[simp] theorem State.setSess_chutes (s : State) (n : Nat) (x : Sess) : (s.setSess n x).chutes = s.chutes := rfl
@[simp] theorem State.setSess_fns (s : State) (n : Nat) (x : Sess) : (s.setSess n x).fns = s.fns := rfl
@[simp] theorem State.setSess_classC (s : State) (n : Nat) (x : Sess) : (s.setSess n x).classC = s.classC := rfl
@[simp] theorem State.setSess_rr (s : State) (n : Nat) (x : Sess) : (s.setSess n x).rr = s.rr := rfl
@[simp] theorem State.setSess_resid (s : State) (n : Nat) (x : Sess) : (s.setSess n x).resid = s.resid := rfl
@[simp] theorem State.setSess_ports (s : State) (n : Nat) (x : Sess) : (s.setSess n x).ports = s.ports := rfl
@[simp] theorem State.setSess_mbox (s : State) (n : Nat) (x : Sess) : (s.setSess n x).mbox = s.mbox := rfl
@[simp] theorem State.setSess_mem (s : State) (n : Nat) (x : Sess) : (s.setSess n x).mem = s.mem := rfl
@[simp] theorem State.setSess_tenons (s : State) (n : Nat) (x : Sess) : (s.setSess n x).tenons = s.tenons := rfl
@[simp] theorem State.setSess_cuts (s : State) (n : Nat) (x : Sess) : (s.setSess n x).cuts = s.cuts := rfl
@[simp] theorem State.setSess_dies (s : State) (n : Nat) (x : Sess) : (s.setSess n x).dies = s.dies := rfl
@[simp] theorem State.setSess_test (s : State) (n : Nat) (x : Sess) : (s.setSess n x).test = s.test := rfl
@[simp] theorem State.setSess_power (s : State) (n : Nat) (x : Sess) : (s.setSess n x).power = s.power := rfl
@[simp] theorem State.setSess_flog (s : State) (n : Nat) (x : Sess) : (s.setSess n x).flog = s.flog := rfl
@[simp] theorem State.setSess_fell (s : State) (n : Nat) (x : Sess) : (s.setSess n x).fell = s.fell := rfl
@[simp] theorem State.setSess_obs (s : State) (n : Nat) (x : Sess) : (s.setSess n x).obs = s.obs := rfl
@[simp] theorem State.setSess_dbg (s : State) (n : Nat) (x : Sess) : (s.setSess n x).dbg = s.dbg := rfl
@[simp] theorem State.setSess_free (s : State) (n : Nat) (x : Sess) : (s.setSess n x).free = s.free := rfl
@[simp] theorem State.setSess_out (s : State) (n : Nat) (x : Sess) : (s.setSess n x).out = s.out := rfl
@[simp] theorem State.setSess_sess (s : State) (n : Nat) (x : Sess) : (s.setSess n x).sess = fset s.sess n x := rfl
@[simp] theorem State.setSess_core (s : State) (n : Nat) (x : Sess) (j : Nat) : (s.setSess n x).core j = s.core j := rfl
@[simp] theorem State.setSess_dom (s : State) (n : Nat) (x : Sess) (j : Nat) : (s.setSess n x).dom j = s.dom j := rfl
@[simp] theorem State.setSess_bay (s : State) (n : Nat) (x : Sess) (j : Nat) : (s.setSess n x).bay j = s.bay j := rfl
@[simp] theorem State.setSess_fn (s : State) (n : Nat) (x : Sess) (j : Nat) : (s.setSess n x).fn j = s.fn j := rfl
@[simp] theorem State.setSess_port (s : State) (n : Nat) (x : Sess) (j : Nat) : (s.setSess n x).port j = s.port j := rfl
@[simp] theorem State.setSess_chute (s : State) (n : Nat) (x : Sess) (j : Nat) : (s.setSess n x).chute j = s.chute j := rfl
@[simp] theorem State.setSess_tenon (s : State) (n : Nat) (x : Sess) (j : Nat) : (s.setSess n x).tenon j = s.tenon j := rfl
@[simp] theorem State.setSess_die (s : State) (n : Nat) (x : Sess) (j : Nat) : (s.setSess n x).die j = s.die j := rfl
theorem State.setSess_session (s : State) (n : Nat) (x : Sess) (j : Nat) : (s.setSess n x).session j = if j = n then x else s.session j := by
  simp only [State.setSess, State.session, fgetD_fset]
@[simp] theorem State.setSess_session_self (s : State) (n : Nat) (x : Sess) : (s.setSess n x).session n = x := by
  rw [State.setSess_session, if_pos rfl]
@[simp] theorem State.setSess_now (s : State) (n : Nat) (x : Sess) : (s.setSess n x).now = s.now := rfl
@[simp] theorem State.setSess_felled (s : State) (n : Nat) (x : Sess) : (s.setSess n x).felled = s.felled := rfl

/-! ## setQueue -/

@[simp] theorem State.setQueue_pending (s : State) (q : Nat) (x : Queue) : (s.setQueue q x).pending = s.pending := rfl
@[simp] theorem State.setQueue_mod (s : State) (q : Nat) (x : Queue) : (s.setQueue q x).mod = s.mod := rfl
@[simp] theorem State.setQueue_dict (s : State) (q : Nat) (x : Queue) : (s.setQueue q x).dict = s.dict := rfl
@[simp] theorem State.setQueue_flash (s : State) (q : Nat) (x : Queue) : (s.setQueue q x).flash = s.flash := rfl
@[simp] theorem State.setQueue_trust (s : State) (q : Nat) (x : Queue) : (s.setQueue q x).trust = s.trust := rfl
@[simp] theorem State.setQueue_groves (s : State) (q : Nat) (x : Queue) : (s.setQueue q x).groves = s.groves := rfl
@[simp] theorem State.setQueue_deadGroves (s : State) (q : Nat) (x : Queue) : (s.setQueue q x).deadGroves = s.deadGroves := rfl
@[simp] theorem State.setQueue_bays (s : State) (q : Nat) (x : Queue) : (s.setQueue q x).bays = s.bays := rfl
@[simp] theorem State.setQueue_doms (s : State) (q : Nat) (x : Queue) : (s.setQueue q x).doms = s.doms := rfl
@[simp] theorem State.setQueue_cores (s : State) (q : Nat) (x : Queue) : (s.setQueue q x).cores = s.cores := rfl
@[simp] theorem State.setQueue_ctxs (s : State) (q : Nat) (x : Queue) : (s.setQueue q x).ctxs = s.ctxs := rfl
@[simp] theorem State.setQueue_kerns (s : State) (q : Nat) (x : Queue) : (s.setQueue q x).kerns = s.kerns := rfl
@[simp] theorem State.setQueue_nextKern (s : State) (q : Nat) (x : Queue) : (s.setQueue q x).nextKern = s.nextKern := rfl
@[simp] theorem State.setQueue_graphs (s : State) (q : Nat) (x : Queue) : (s.setQueue q x).graphs = s.graphs := rfl
@[simp] theorem State.setQueue_rets (s : State) (q : Nat) (x : Queue) : (s.setQueue q x).rets = s.rets := rfl
@[simp] theorem State.setQueue_launches (s : State) (q : Nat) (x : Queue) : (s.setQueue q x).launches = s.launches := rfl
@[simp] theorem State.setQueue_chutes (s : State) (q : Nat) (x : Queue) : (s.setQueue q x).chutes = s.chutes := rfl
@[simp] theorem State.setQueue_fns (s : State) (q : Nat) (x : Queue) : (s.setQueue q x).fns = s.fns := rfl
@[simp] theorem State.setQueue_classC (s : State) (q : Nat) (x : Queue) : (s.setQueue q x).classC = s.classC := rfl
@[simp] theorem State.setQueue_rr (s : State) (q : Nat) (x : Queue) : (s.setQueue q x).rr = s.rr := rfl
@[simp] theorem State.setQueue_resid (s : State) (q : Nat) (x : Queue) : (s.setQueue q x).resid = s.resid := rfl
@[simp] theorem State.setQueue_ports (s : State) (q : Nat) (x : Queue) : (s.setQueue q x).ports = s.ports := rfl
@[simp] theorem State.setQueue_mbox (s : State) (q : Nat) (x : Queue) : (s.setQueue q x).mbox = s.mbox := rfl
@[simp] theorem State.setQueue_mem (s : State) (q : Nat) (x : Queue) : (s.setQueue q x).mem = s.mem := rfl
@[simp] theorem State.setQueue_tenons (s : State) (q : Nat) (x : Queue) : (s.setQueue q x).tenons = s.tenons := rfl
@[simp] theorem State.setQueue_cuts (s : State) (q : Nat) (x : Queue) : (s.setQueue q x).cuts = s.cuts := rfl
@[simp] theorem State.setQueue_dies (s : State) (q : Nat) (x : Queue) : (s.setQueue q x).dies = s.dies := rfl
@[simp] theorem State.setQueue_sess (s : State) (q : Nat) (x : Queue) : (s.setQueue q x).sess = s.sess := rfl
@[simp] theorem State.setQueue_test (s : State) (q : Nat) (x : Queue) : (s.setQueue q x).test = s.test := rfl
@[simp] theorem State.setQueue_power (s : State) (q : Nat) (x : Queue) : (s.setQueue q x).power = s.power := rfl
@[simp] theorem State.setQueue_flog (s : State) (q : Nat) (x : Queue) : (s.setQueue q x).flog = s.flog := rfl
@[simp] theorem State.setQueue_fell (s : State) (q : Nat) (x : Queue) : (s.setQueue q x).fell = s.fell := rfl
@[simp] theorem State.setQueue_obs (s : State) (q : Nat) (x : Queue) : (s.setQueue q x).obs = s.obs := rfl
@[simp] theorem State.setQueue_dbg (s : State) (q : Nat) (x : Queue) : (s.setQueue q x).dbg = s.dbg := rfl
@[simp] theorem State.setQueue_free (s : State) (q : Nat) (x : Queue) : (s.setQueue q x).free = s.free := rfl
@[simp] theorem State.setQueue_out (s : State) (q : Nat) (x : Queue) : (s.setQueue q x).out = s.out := rfl
@[simp] theorem State.setQueue_queues (s : State) (q : Nat) (x : Queue) : (s.setQueue q x).queues = fset s.queues q x := rfl
@[simp] theorem State.setQueue_core (s : State) (q : Nat) (x : Queue) (j : Nat) : (s.setQueue q x).core j = s.core j := rfl
@[simp] theorem State.setQueue_dom (s : State) (q : Nat) (x : Queue) (j : Nat) : (s.setQueue q x).dom j = s.dom j := rfl
@[simp] theorem State.setQueue_bay (s : State) (q : Nat) (x : Queue) (j : Nat) : (s.setQueue q x).bay j = s.bay j := rfl
@[simp] theorem State.setQueue_fn (s : State) (q : Nat) (x : Queue) (j : Nat) : (s.setQueue q x).fn j = s.fn j := rfl
@[simp] theorem State.setQueue_port (s : State) (q : Nat) (x : Queue) (j : Nat) : (s.setQueue q x).port j = s.port j := rfl
@[simp] theorem State.setQueue_chute (s : State) (q : Nat) (x : Queue) (j : Nat) : (s.setQueue q x).chute j = s.chute j := rfl
@[simp] theorem State.setQueue_tenon (s : State) (q : Nat) (x : Queue) (j : Nat) : (s.setQueue q x).tenon j = s.tenon j := rfl
@[simp] theorem State.setQueue_die (s : State) (q : Nat) (x : Queue) (j : Nat) : (s.setQueue q x).die j = s.die j := rfl
@[simp] theorem State.setQueue_session (s : State) (q : Nat) (x : Queue) (j : Nat) : (s.setQueue q x).session j = s.session j := rfl
@[simp] theorem State.setQueue_now (s : State) (q : Nat) (x : Queue) : (s.setQueue q x).now = s.now := rfl
@[simp] theorem State.setQueue_felled (s : State) (q : Nat) (x : Queue) : (s.setQueue q x).felled = s.felled := rfl

/-! ## setCtx -/

@[simp] theorem State.setCtx_pending (s : State) (c : Nat) (x : Ctx) : (s.setCtx c x).pending = s.pending := rfl
@[simp] theorem State.setCtx_mod (s : State) (c : Nat) (x : Ctx) : (s.setCtx c x).mod = s.mod := rfl
@[simp] theorem State.setCtx_dict (s : State) (c : Nat) (x : Ctx) : (s.setCtx c x).dict = s.dict := rfl
@[simp] theorem State.setCtx_flash (s : State) (c : Nat) (x : Ctx) : (s.setCtx c x).flash = s.flash := rfl
@[simp] theorem State.setCtx_trust (s : State) (c : Nat) (x : Ctx) : (s.setCtx c x).trust = s.trust := rfl
@[simp] theorem State.setCtx_groves (s : State) (c : Nat) (x : Ctx) : (s.setCtx c x).groves = s.groves := rfl
@[simp] theorem State.setCtx_deadGroves (s : State) (c : Nat) (x : Ctx) : (s.setCtx c x).deadGroves = s.deadGroves := rfl
@[simp] theorem State.setCtx_bays (s : State) (c : Nat) (x : Ctx) : (s.setCtx c x).bays = s.bays := rfl
@[simp] theorem State.setCtx_doms (s : State) (c : Nat) (x : Ctx) : (s.setCtx c x).doms = s.doms := rfl
@[simp] theorem State.setCtx_cores (s : State) (c : Nat) (x : Ctx) : (s.setCtx c x).cores = s.cores := rfl
@[simp] theorem State.setCtx_queues (s : State) (c : Nat) (x : Ctx) : (s.setCtx c x).queues = s.queues := rfl
@[simp] theorem State.setCtx_kerns (s : State) (c : Nat) (x : Ctx) : (s.setCtx c x).kerns = s.kerns := rfl
@[simp] theorem State.setCtx_nextKern (s : State) (c : Nat) (x : Ctx) : (s.setCtx c x).nextKern = s.nextKern := rfl
@[simp] theorem State.setCtx_graphs (s : State) (c : Nat) (x : Ctx) : (s.setCtx c x).graphs = s.graphs := rfl
@[simp] theorem State.setCtx_rets (s : State) (c : Nat) (x : Ctx) : (s.setCtx c x).rets = s.rets := rfl
@[simp] theorem State.setCtx_launches (s : State) (c : Nat) (x : Ctx) : (s.setCtx c x).launches = s.launches := rfl
@[simp] theorem State.setCtx_chutes (s : State) (c : Nat) (x : Ctx) : (s.setCtx c x).chutes = s.chutes := rfl
@[simp] theorem State.setCtx_fns (s : State) (c : Nat) (x : Ctx) : (s.setCtx c x).fns = s.fns := rfl
@[simp] theorem State.setCtx_classC (s : State) (c : Nat) (x : Ctx) : (s.setCtx c x).classC = s.classC := rfl
@[simp] theorem State.setCtx_rr (s : State) (c : Nat) (x : Ctx) : (s.setCtx c x).rr = s.rr := rfl
@[simp] theorem State.setCtx_resid (s : State) (c : Nat) (x : Ctx) : (s.setCtx c x).resid = s.resid := rfl
@[simp] theorem State.setCtx_ports (s : State) (c : Nat) (x : Ctx) : (s.setCtx c x).ports = s.ports := rfl
@[simp] theorem State.setCtx_mbox (s : State) (c : Nat) (x : Ctx) : (s.setCtx c x).mbox = s.mbox := rfl
@[simp] theorem State.setCtx_mem (s : State) (c : Nat) (x : Ctx) : (s.setCtx c x).mem = s.mem := rfl
@[simp] theorem State.setCtx_tenons (s : State) (c : Nat) (x : Ctx) : (s.setCtx c x).tenons = s.tenons := rfl
@[simp] theorem State.setCtx_cuts (s : State) (c : Nat) (x : Ctx) : (s.setCtx c x).cuts = s.cuts := rfl
@[simp] theorem State.setCtx_dies (s : State) (c : Nat) (x : Ctx) : (s.setCtx c x).dies = s.dies := rfl
@[simp] theorem State.setCtx_sess (s : State) (c : Nat) (x : Ctx) : (s.setCtx c x).sess = s.sess := rfl
@[simp] theorem State.setCtx_test (s : State) (c : Nat) (x : Ctx) : (s.setCtx c x).test = s.test := rfl
@[simp] theorem State.setCtx_power (s : State) (c : Nat) (x : Ctx) : (s.setCtx c x).power = s.power := rfl
@[simp] theorem State.setCtx_flog (s : State) (c : Nat) (x : Ctx) : (s.setCtx c x).flog = s.flog := rfl
@[simp] theorem State.setCtx_fell (s : State) (c : Nat) (x : Ctx) : (s.setCtx c x).fell = s.fell := rfl
@[simp] theorem State.setCtx_obs (s : State) (c : Nat) (x : Ctx) : (s.setCtx c x).obs = s.obs := rfl
@[simp] theorem State.setCtx_dbg (s : State) (c : Nat) (x : Ctx) : (s.setCtx c x).dbg = s.dbg := rfl
@[simp] theorem State.setCtx_free (s : State) (c : Nat) (x : Ctx) : (s.setCtx c x).free = s.free := rfl
@[simp] theorem State.setCtx_out (s : State) (c : Nat) (x : Ctx) : (s.setCtx c x).out = s.out := rfl
@[simp] theorem State.setCtx_ctxs (s : State) (c : Nat) (x : Ctx) : (s.setCtx c x).ctxs = fset s.ctxs c x := rfl
@[simp] theorem State.setCtx_core (s : State) (c : Nat) (x : Ctx) (j : Nat) : (s.setCtx c x).core j = s.core j := rfl
@[simp] theorem State.setCtx_dom (s : State) (c : Nat) (x : Ctx) (j : Nat) : (s.setCtx c x).dom j = s.dom j := rfl
@[simp] theorem State.setCtx_bay (s : State) (c : Nat) (x : Ctx) (j : Nat) : (s.setCtx c x).bay j = s.bay j := rfl
@[simp] theorem State.setCtx_fn (s : State) (c : Nat) (x : Ctx) (j : Nat) : (s.setCtx c x).fn j = s.fn j := rfl
@[simp] theorem State.setCtx_port (s : State) (c : Nat) (x : Ctx) (j : Nat) : (s.setCtx c x).port j = s.port j := rfl
@[simp] theorem State.setCtx_chute (s : State) (c : Nat) (x : Ctx) (j : Nat) : (s.setCtx c x).chute j = s.chute j := rfl
@[simp] theorem State.setCtx_tenon (s : State) (c : Nat) (x : Ctx) (j : Nat) : (s.setCtx c x).tenon j = s.tenon j := rfl
@[simp] theorem State.setCtx_die (s : State) (c : Nat) (x : Ctx) (j : Nat) : (s.setCtx c x).die j = s.die j := rfl
@[simp] theorem State.setCtx_session (s : State) (c : Nat) (x : Ctx) (j : Nat) : (s.setCtx c x).session j = s.session j := rfl
@[simp] theorem State.setCtx_now (s : State) (c : Nat) (x : Ctx) : (s.setCtx c x).now = s.now := rfl
@[simp] theorem State.setCtx_felled (s : State) (c : Nat) (x : Ctx) : (s.setCtx c x).felled = s.felled := rfl

/-! ## setKern -/

@[simp] theorem State.setKern_pending (s : State) (k : Nat) (x : Kern) : (s.setKern k x).pending = s.pending := rfl
@[simp] theorem State.setKern_mod (s : State) (k : Nat) (x : Kern) : (s.setKern k x).mod = s.mod := rfl
@[simp] theorem State.setKern_dict (s : State) (k : Nat) (x : Kern) : (s.setKern k x).dict = s.dict := rfl
@[simp] theorem State.setKern_flash (s : State) (k : Nat) (x : Kern) : (s.setKern k x).flash = s.flash := rfl
@[simp] theorem State.setKern_trust (s : State) (k : Nat) (x : Kern) : (s.setKern k x).trust = s.trust := rfl
@[simp] theorem State.setKern_groves (s : State) (k : Nat) (x : Kern) : (s.setKern k x).groves = s.groves := rfl
@[simp] theorem State.setKern_deadGroves (s : State) (k : Nat) (x : Kern) : (s.setKern k x).deadGroves = s.deadGroves := rfl
@[simp] theorem State.setKern_bays (s : State) (k : Nat) (x : Kern) : (s.setKern k x).bays = s.bays := rfl
@[simp] theorem State.setKern_doms (s : State) (k : Nat) (x : Kern) : (s.setKern k x).doms = s.doms := rfl
@[simp] theorem State.setKern_cores (s : State) (k : Nat) (x : Kern) : (s.setKern k x).cores = s.cores := rfl
@[simp] theorem State.setKern_ctxs (s : State) (k : Nat) (x : Kern) : (s.setKern k x).ctxs = s.ctxs := rfl
@[simp] theorem State.setKern_queues (s : State) (k : Nat) (x : Kern) : (s.setKern k x).queues = s.queues := rfl
@[simp] theorem State.setKern_nextKern (s : State) (k : Nat) (x : Kern) : (s.setKern k x).nextKern = s.nextKern := rfl
@[simp] theorem State.setKern_graphs (s : State) (k : Nat) (x : Kern) : (s.setKern k x).graphs = s.graphs := rfl
@[simp] theorem State.setKern_rets (s : State) (k : Nat) (x : Kern) : (s.setKern k x).rets = s.rets := rfl
@[simp] theorem State.setKern_launches (s : State) (k : Nat) (x : Kern) : (s.setKern k x).launches = s.launches := rfl
@[simp] theorem State.setKern_chutes (s : State) (k : Nat) (x : Kern) : (s.setKern k x).chutes = s.chutes := rfl
@[simp] theorem State.setKern_fns (s : State) (k : Nat) (x : Kern) : (s.setKern k x).fns = s.fns := rfl
@[simp] theorem State.setKern_classC (s : State) (k : Nat) (x : Kern) : (s.setKern k x).classC = s.classC := rfl
@[simp] theorem State.setKern_rr (s : State) (k : Nat) (x : Kern) : (s.setKern k x).rr = s.rr := rfl
@[simp] theorem State.setKern_resid (s : State) (k : Nat) (x : Kern) : (s.setKern k x).resid = s.resid := rfl
@[simp] theorem State.setKern_ports (s : State) (k : Nat) (x : Kern) : (s.setKern k x).ports = s.ports := rfl
@[simp] theorem State.setKern_mbox (s : State) (k : Nat) (x : Kern) : (s.setKern k x).mbox = s.mbox := rfl
@[simp] theorem State.setKern_mem (s : State) (k : Nat) (x : Kern) : (s.setKern k x).mem = s.mem := rfl
@[simp] theorem State.setKern_tenons (s : State) (k : Nat) (x : Kern) : (s.setKern k x).tenons = s.tenons := rfl
@[simp] theorem State.setKern_cuts (s : State) (k : Nat) (x : Kern) : (s.setKern k x).cuts = s.cuts := rfl
@[simp] theorem State.setKern_dies (s : State) (k : Nat) (x : Kern) : (s.setKern k x).dies = s.dies := rfl
@[simp] theorem State.setKern_sess (s : State) (k : Nat) (x : Kern) : (s.setKern k x).sess = s.sess := rfl
@[simp] theorem State.setKern_test (s : State) (k : Nat) (x : Kern) : (s.setKern k x).test = s.test := rfl
@[simp] theorem State.setKern_power (s : State) (k : Nat) (x : Kern) : (s.setKern k x).power = s.power := rfl
@[simp] theorem State.setKern_flog (s : State) (k : Nat) (x : Kern) : (s.setKern k x).flog = s.flog := rfl
@[simp] theorem State.setKern_fell (s : State) (k : Nat) (x : Kern) : (s.setKern k x).fell = s.fell := rfl
@[simp] theorem State.setKern_obs (s : State) (k : Nat) (x : Kern) : (s.setKern k x).obs = s.obs := rfl
@[simp] theorem State.setKern_dbg (s : State) (k : Nat) (x : Kern) : (s.setKern k x).dbg = s.dbg := rfl
@[simp] theorem State.setKern_free (s : State) (k : Nat) (x : Kern) : (s.setKern k x).free = s.free := rfl
@[simp] theorem State.setKern_out (s : State) (k : Nat) (x : Kern) : (s.setKern k x).out = s.out := rfl
@[simp] theorem State.setKern_kerns (s : State) (k : Nat) (x : Kern) : (s.setKern k x).kerns = fset s.kerns k x := rfl
@[simp] theorem State.setKern_core (s : State) (k : Nat) (x : Kern) (j : Nat) : (s.setKern k x).core j = s.core j := rfl
@[simp] theorem State.setKern_dom (s : State) (k : Nat) (x : Kern) (j : Nat) : (s.setKern k x).dom j = s.dom j := rfl
@[simp] theorem State.setKern_bay (s : State) (k : Nat) (x : Kern) (j : Nat) : (s.setKern k x).bay j = s.bay j := rfl
@[simp] theorem State.setKern_fn (s : State) (k : Nat) (x : Kern) (j : Nat) : (s.setKern k x).fn j = s.fn j := rfl
@[simp] theorem State.setKern_port (s : State) (k : Nat) (x : Kern) (j : Nat) : (s.setKern k x).port j = s.port j := rfl
@[simp] theorem State.setKern_chute (s : State) (k : Nat) (x : Kern) (j : Nat) : (s.setKern k x).chute j = s.chute j := rfl
@[simp] theorem State.setKern_tenon (s : State) (k : Nat) (x : Kern) (j : Nat) : (s.setKern k x).tenon j = s.tenon j := rfl
@[simp] theorem State.setKern_die (s : State) (k : Nat) (x : Kern) (j : Nat) : (s.setKern k x).die j = s.die j := rfl
@[simp] theorem State.setKern_session (s : State) (k : Nat) (x : Kern) (j : Nat) : (s.setKern k x).session j = s.session j := rfl
@[simp] theorem State.setKern_now (s : State) (k : Nat) (x : Kern) : (s.setKern k x).now = s.now := rfl
@[simp] theorem State.setKern_felled (s : State) (k : Nat) (x : Kern) : (s.setKern k x).felled = s.felled := rfl

/-! ## setLaunch -/

@[simp] theorem State.setLaunch_pending (s : State) (k : Nat) (x : Launch) : (s.setLaunch k x).pending = s.pending := rfl
@[simp] theorem State.setLaunch_mod (s : State) (k : Nat) (x : Launch) : (s.setLaunch k x).mod = s.mod := rfl
@[simp] theorem State.setLaunch_dict (s : State) (k : Nat) (x : Launch) : (s.setLaunch k x).dict = s.dict := rfl
@[simp] theorem State.setLaunch_flash (s : State) (k : Nat) (x : Launch) : (s.setLaunch k x).flash = s.flash := rfl
@[simp] theorem State.setLaunch_trust (s : State) (k : Nat) (x : Launch) : (s.setLaunch k x).trust = s.trust := rfl
@[simp] theorem State.setLaunch_groves (s : State) (k : Nat) (x : Launch) : (s.setLaunch k x).groves = s.groves := rfl
@[simp] theorem State.setLaunch_deadGroves (s : State) (k : Nat) (x : Launch) : (s.setLaunch k x).deadGroves = s.deadGroves := rfl
@[simp] theorem State.setLaunch_bays (s : State) (k : Nat) (x : Launch) : (s.setLaunch k x).bays = s.bays := rfl
@[simp] theorem State.setLaunch_doms (s : State) (k : Nat) (x : Launch) : (s.setLaunch k x).doms = s.doms := rfl
@[simp] theorem State.setLaunch_cores (s : State) (k : Nat) (x : Launch) : (s.setLaunch k x).cores = s.cores := rfl
@[simp] theorem State.setLaunch_ctxs (s : State) (k : Nat) (x : Launch) : (s.setLaunch k x).ctxs = s.ctxs := rfl
@[simp] theorem State.setLaunch_queues (s : State) (k : Nat) (x : Launch) : (s.setLaunch k x).queues = s.queues := rfl
@[simp] theorem State.setLaunch_kerns (s : State) (k : Nat) (x : Launch) : (s.setLaunch k x).kerns = s.kerns := rfl
@[simp] theorem State.setLaunch_nextKern (s : State) (k : Nat) (x : Launch) : (s.setLaunch k x).nextKern = s.nextKern := rfl
@[simp] theorem State.setLaunch_graphs (s : State) (k : Nat) (x : Launch) : (s.setLaunch k x).graphs = s.graphs := rfl
@[simp] theorem State.setLaunch_rets (s : State) (k : Nat) (x : Launch) : (s.setLaunch k x).rets = s.rets := rfl
@[simp] theorem State.setLaunch_chutes (s : State) (k : Nat) (x : Launch) : (s.setLaunch k x).chutes = s.chutes := rfl
@[simp] theorem State.setLaunch_fns (s : State) (k : Nat) (x : Launch) : (s.setLaunch k x).fns = s.fns := rfl
@[simp] theorem State.setLaunch_classC (s : State) (k : Nat) (x : Launch) : (s.setLaunch k x).classC = s.classC := rfl
@[simp] theorem State.setLaunch_rr (s : State) (k : Nat) (x : Launch) : (s.setLaunch k x).rr = s.rr := rfl
@[simp] theorem State.setLaunch_resid (s : State) (k : Nat) (x : Launch) : (s.setLaunch k x).resid = s.resid := rfl
@[simp] theorem State.setLaunch_ports (s : State) (k : Nat) (x : Launch) : (s.setLaunch k x).ports = s.ports := rfl
@[simp] theorem State.setLaunch_mbox (s : State) (k : Nat) (x : Launch) : (s.setLaunch k x).mbox = s.mbox := rfl
@[simp] theorem State.setLaunch_mem (s : State) (k : Nat) (x : Launch) : (s.setLaunch k x).mem = s.mem := rfl
@[simp] theorem State.setLaunch_tenons (s : State) (k : Nat) (x : Launch) : (s.setLaunch k x).tenons = s.tenons := rfl
@[simp] theorem State.setLaunch_cuts (s : State) (k : Nat) (x : Launch) : (s.setLaunch k x).cuts = s.cuts := rfl
@[simp] theorem State.setLaunch_dies (s : State) (k : Nat) (x : Launch) : (s.setLaunch k x).dies = s.dies := rfl
@[simp] theorem State.setLaunch_sess (s : State) (k : Nat) (x : Launch) : (s.setLaunch k x).sess = s.sess := rfl
@[simp] theorem State.setLaunch_test (s : State) (k : Nat) (x : Launch) : (s.setLaunch k x).test = s.test := rfl
@[simp] theorem State.setLaunch_power (s : State) (k : Nat) (x : Launch) : (s.setLaunch k x).power = s.power := rfl
@[simp] theorem State.setLaunch_flog (s : State) (k : Nat) (x : Launch) : (s.setLaunch k x).flog = s.flog := rfl
@[simp] theorem State.setLaunch_fell (s : State) (k : Nat) (x : Launch) : (s.setLaunch k x).fell = s.fell := rfl
@[simp] theorem State.setLaunch_obs (s : State) (k : Nat) (x : Launch) : (s.setLaunch k x).obs = s.obs := rfl
@[simp] theorem State.setLaunch_dbg (s : State) (k : Nat) (x : Launch) : (s.setLaunch k x).dbg = s.dbg := rfl
@[simp] theorem State.setLaunch_free (s : State) (k : Nat) (x : Launch) : (s.setLaunch k x).free = s.free := rfl
@[simp] theorem State.setLaunch_out (s : State) (k : Nat) (x : Launch) : (s.setLaunch k x).out = s.out := rfl
@[simp] theorem State.setLaunch_launches (s : State) (k : Nat) (x : Launch) : (s.setLaunch k x).launches = fset s.launches k x := rfl
@[simp] theorem State.setLaunch_core (s : State) (k : Nat) (x : Launch) (j : Nat) : (s.setLaunch k x).core j = s.core j := rfl
@[simp] theorem State.setLaunch_dom (s : State) (k : Nat) (x : Launch) (j : Nat) : (s.setLaunch k x).dom j = s.dom j := rfl
@[simp] theorem State.setLaunch_bay (s : State) (k : Nat) (x : Launch) (j : Nat) : (s.setLaunch k x).bay j = s.bay j := rfl
@[simp] theorem State.setLaunch_fn (s : State) (k : Nat) (x : Launch) (j : Nat) : (s.setLaunch k x).fn j = s.fn j := rfl
@[simp] theorem State.setLaunch_port (s : State) (k : Nat) (x : Launch) (j : Nat) : (s.setLaunch k x).port j = s.port j := rfl
@[simp] theorem State.setLaunch_chute (s : State) (k : Nat) (x : Launch) (j : Nat) : (s.setLaunch k x).chute j = s.chute j := rfl
@[simp] theorem State.setLaunch_tenon (s : State) (k : Nat) (x : Launch) (j : Nat) : (s.setLaunch k x).tenon j = s.tenon j := rfl
@[simp] theorem State.setLaunch_die (s : State) (k : Nat) (x : Launch) (j : Nat) : (s.setLaunch k x).die j = s.die j := rfl
@[simp] theorem State.setLaunch_session (s : State) (k : Nat) (x : Launch) (j : Nat) : (s.setLaunch k x).session j = s.session j := rfl
@[simp] theorem State.setLaunch_now (s : State) (k : Nat) (x : Launch) : (s.setLaunch k x).now = s.now := rfl
@[simp] theorem State.setLaunch_felled (s : State) (k : Nat) (x : Launch) : (s.setLaunch k x).felled = s.felled := rfl

/-! ## setMem -/

@[simp] theorem State.setMem_pending (s : State) (m : MemSys) : (s.setMem m).pending = s.pending := rfl
@[simp] theorem State.setMem_mod (s : State) (m : MemSys) : (s.setMem m).mod = s.mod := rfl
@[simp] theorem State.setMem_dict (s : State) (m : MemSys) : (s.setMem m).dict = s.dict := rfl
@[simp] theorem State.setMem_flash (s : State) (m : MemSys) : (s.setMem m).flash = s.flash := rfl
@[simp] theorem State.setMem_trust (s : State) (m : MemSys) : (s.setMem m).trust = s.trust := rfl
@[simp] theorem State.setMem_groves (s : State) (m : MemSys) : (s.setMem m).groves = s.groves := rfl
@[simp] theorem State.setMem_deadGroves (s : State) (m : MemSys) : (s.setMem m).deadGroves = s.deadGroves := rfl
@[simp] theorem State.setMem_bays (s : State) (m : MemSys) : (s.setMem m).bays = s.bays := rfl
@[simp] theorem State.setMem_doms (s : State) (m : MemSys) : (s.setMem m).doms = s.doms := rfl
@[simp] theorem State.setMem_cores (s : State) (m : MemSys) : (s.setMem m).cores = s.cores := rfl
@[simp] theorem State.setMem_ctxs (s : State) (m : MemSys) : (s.setMem m).ctxs = s.ctxs := rfl
@[simp] theorem State.setMem_queues (s : State) (m : MemSys) : (s.setMem m).queues = s.queues := rfl
@[simp] theorem State.setMem_kerns (s : State) (m : MemSys) : (s.setMem m).kerns = s.kerns := rfl
@[simp] theorem State.setMem_nextKern (s : State) (m : MemSys) : (s.setMem m).nextKern = s.nextKern := rfl
@[simp] theorem State.setMem_graphs (s : State) (m : MemSys) : (s.setMem m).graphs = s.graphs := rfl
@[simp] theorem State.setMem_rets (s : State) (m : MemSys) : (s.setMem m).rets = s.rets := rfl
@[simp] theorem State.setMem_launches (s : State) (m : MemSys) : (s.setMem m).launches = s.launches := rfl
@[simp] theorem State.setMem_chutes (s : State) (m : MemSys) : (s.setMem m).chutes = s.chutes := rfl
@[simp] theorem State.setMem_fns (s : State) (m : MemSys) : (s.setMem m).fns = s.fns := rfl
@[simp] theorem State.setMem_classC (s : State) (m : MemSys) : (s.setMem m).classC = s.classC := rfl
@[simp] theorem State.setMem_rr (s : State) (m : MemSys) : (s.setMem m).rr = s.rr := rfl
@[simp] theorem State.setMem_resid (s : State) (m : MemSys) : (s.setMem m).resid = s.resid := rfl
@[simp] theorem State.setMem_ports (s : State) (m : MemSys) : (s.setMem m).ports = s.ports := rfl
@[simp] theorem State.setMem_mbox (s : State) (m : MemSys) : (s.setMem m).mbox = s.mbox := rfl
@[simp] theorem State.setMem_tenons (s : State) (m : MemSys) : (s.setMem m).tenons = s.tenons := rfl
@[simp] theorem State.setMem_cuts (s : State) (m : MemSys) : (s.setMem m).cuts = s.cuts := rfl
@[simp] theorem State.setMem_dies (s : State) (m : MemSys) : (s.setMem m).dies = s.dies := rfl
@[simp] theorem State.setMem_sess (s : State) (m : MemSys) : (s.setMem m).sess = s.sess := rfl
@[simp] theorem State.setMem_test (s : State) (m : MemSys) : (s.setMem m).test = s.test := rfl
@[simp] theorem State.setMem_power (s : State) (m : MemSys) : (s.setMem m).power = s.power := rfl
@[simp] theorem State.setMem_flog (s : State) (m : MemSys) : (s.setMem m).flog = s.flog := rfl
@[simp] theorem State.setMem_fell (s : State) (m : MemSys) : (s.setMem m).fell = s.fell := rfl
@[simp] theorem State.setMem_obs (s : State) (m : MemSys) : (s.setMem m).obs = s.obs := rfl
@[simp] theorem State.setMem_dbg (s : State) (m : MemSys) : (s.setMem m).dbg = s.dbg := rfl
@[simp] theorem State.setMem_free (s : State) (m : MemSys) : (s.setMem m).free = s.free := rfl
@[simp] theorem State.setMem_out (s : State) (m : MemSys) : (s.setMem m).out = s.out := rfl
@[simp] theorem State.setMem_mem (s : State) (m : MemSys) : (s.setMem m).mem = m := rfl
@[simp] theorem State.setMem_core (s : State) (m : MemSys) (j : Nat) : (s.setMem m).core j = s.core j := rfl
@[simp] theorem State.setMem_dom (s : State) (m : MemSys) (j : Nat) : (s.setMem m).dom j = s.dom j := rfl
@[simp] theorem State.setMem_bay (s : State) (m : MemSys) (j : Nat) : (s.setMem m).bay j = s.bay j := rfl
@[simp] theorem State.setMem_fn (s : State) (m : MemSys) (j : Nat) : (s.setMem m).fn j = s.fn j := rfl
@[simp] theorem State.setMem_port (s : State) (m : MemSys) (j : Nat) : (s.setMem m).port j = s.port j := rfl
@[simp] theorem State.setMem_chute (s : State) (m : MemSys) (j : Nat) : (s.setMem m).chute j = s.chute j := rfl
@[simp] theorem State.setMem_tenon (s : State) (m : MemSys) (j : Nat) : (s.setMem m).tenon j = s.tenon j := rfl
@[simp] theorem State.setMem_die (s : State) (m : MemSys) (j : Nat) : (s.setMem m).die j = s.die j := rfl
@[simp] theorem State.setMem_session (s : State) (m : MemSys) (j : Nat) : (s.setMem m).session j = s.session j := rfl
@[simp] theorem State.setMem_now (s : State) (m : MemSys) : (s.setMem m).now = s.now := rfl
@[simp] theorem State.setMem_felled (s : State) (m : MemSys) : (s.setMem m).felled = s.felled := rfl

/-! ## emit -/

@[simp] theorem State.emit_pending (s : State) (o : Out) : (s.emit o).pending = s.pending := rfl
@[simp] theorem State.emit_mod (s : State) (o : Out) : (s.emit o).mod = s.mod := rfl
@[simp] theorem State.emit_dict (s : State) (o : Out) : (s.emit o).dict = s.dict := rfl
@[simp] theorem State.emit_flash (s : State) (o : Out) : (s.emit o).flash = s.flash := rfl
@[simp] theorem State.emit_trust (s : State) (o : Out) : (s.emit o).trust = s.trust := rfl
@[simp] theorem State.emit_groves (s : State) (o : Out) : (s.emit o).groves = s.groves := rfl
@[simp] theorem State.emit_deadGroves (s : State) (o : Out) : (s.emit o).deadGroves = s.deadGroves := rfl
@[simp] theorem State.emit_bays (s : State) (o : Out) : (s.emit o).bays = s.bays := rfl
@[simp] theorem State.emit_doms (s : State) (o : Out) : (s.emit o).doms = s.doms := rfl
@[simp] theorem State.emit_cores (s : State) (o : Out) : (s.emit o).cores = s.cores := rfl
@[simp] theorem State.emit_ctxs (s : State) (o : Out) : (s.emit o).ctxs = s.ctxs := rfl
@[simp] theorem State.emit_queues (s : State) (o : Out) : (s.emit o).queues = s.queues := rfl
@[simp] theorem State.emit_kerns (s : State) (o : Out) : (s.emit o).kerns = s.kerns := rfl
@[simp] theorem State.emit_nextKern (s : State) (o : Out) : (s.emit o).nextKern = s.nextKern := rfl
@[simp] theorem State.emit_graphs (s : State) (o : Out) : (s.emit o).graphs = s.graphs := rfl
@[simp] theorem State.emit_rets (s : State) (o : Out) : (s.emit o).rets = s.rets := rfl
@[simp] theorem State.emit_launches (s : State) (o : Out) : (s.emit o).launches = s.launches := rfl
@[simp] theorem State.emit_chutes (s : State) (o : Out) : (s.emit o).chutes = s.chutes := rfl
@[simp] theorem State.emit_fns (s : State) (o : Out) : (s.emit o).fns = s.fns := rfl
@[simp] theorem State.emit_classC (s : State) (o : Out) : (s.emit o).classC = s.classC := rfl
@[simp] theorem State.emit_rr (s : State) (o : Out) : (s.emit o).rr = s.rr := rfl
@[simp] theorem State.emit_resid (s : State) (o : Out) : (s.emit o).resid = s.resid := rfl
@[simp] theorem State.emit_ports (s : State) (o : Out) : (s.emit o).ports = s.ports := rfl
@[simp] theorem State.emit_mbox (s : State) (o : Out) : (s.emit o).mbox = s.mbox := rfl
@[simp] theorem State.emit_mem (s : State) (o : Out) : (s.emit o).mem = s.mem := rfl
@[simp] theorem State.emit_tenons (s : State) (o : Out) : (s.emit o).tenons = s.tenons := rfl
@[simp] theorem State.emit_cuts (s : State) (o : Out) : (s.emit o).cuts = s.cuts := rfl
@[simp] theorem State.emit_dies (s : State) (o : Out) : (s.emit o).dies = s.dies := rfl
@[simp] theorem State.emit_sess (s : State) (o : Out) : (s.emit o).sess = s.sess := rfl
@[simp] theorem State.emit_test (s : State) (o : Out) : (s.emit o).test = s.test := rfl
@[simp] theorem State.emit_power (s : State) (o : Out) : (s.emit o).power = s.power := rfl
@[simp] theorem State.emit_flog (s : State) (o : Out) : (s.emit o).flog = s.flog := rfl
@[simp] theorem State.emit_fell (s : State) (o : Out) : (s.emit o).fell = s.fell := rfl
@[simp] theorem State.emit_obs (s : State) (o : Out) : (s.emit o).obs = s.obs := rfl
@[simp] theorem State.emit_dbg (s : State) (o : Out) : (s.emit o).dbg = s.dbg := rfl
@[simp] theorem State.emit_free (s : State) (o : Out) : (s.emit o).free = s.free := rfl
@[simp] theorem State.emit_out (s : State) (o : Out) : (s.emit o).out = o :: s.out := rfl
@[simp] theorem State.emit_core (s : State) (o : Out) (j : Nat) : (s.emit o).core j = s.core j := rfl
@[simp] theorem State.emit_dom (s : State) (o : Out) (j : Nat) : (s.emit o).dom j = s.dom j := rfl
@[simp] theorem State.emit_bay (s : State) (o : Out) (j : Nat) : (s.emit o).bay j = s.bay j := rfl
@[simp] theorem State.emit_fn (s : State) (o : Out) (j : Nat) : (s.emit o).fn j = s.fn j := rfl
@[simp] theorem State.emit_port (s : State) (o : Out) (j : Nat) : (s.emit o).port j = s.port j := rfl
@[simp] theorem State.emit_chute (s : State) (o : Out) (j : Nat) : (s.emit o).chute j = s.chute j := rfl
@[simp] theorem State.emit_tenon (s : State) (o : Out) (j : Nat) : (s.emit o).tenon j = s.tenon j := rfl
@[simp] theorem State.emit_die (s : State) (o : Out) (j : Nat) : (s.emit o).die j = s.die j := rfl
@[simp] theorem State.emit_session (s : State) (o : Out) (j : Nat) : (s.emit o).session j = s.session j := rfl
@[simp] theorem State.emit_now (s : State) (o : Out) : (s.emit o).now = s.now := rfl
@[simp] theorem State.emit_felled (s : State) (o : Out) : (s.emit o).felled = s.felled := rfl

/-! ## draw: only the count of free values moves -/

@[simp] theorem State.draw_free (s : State) : s.draw.2.free = s.free + 1 := rfl
theorem State.draw_fst (s : State) : s.draw.1 = Config.freeWord s.free := rfl
@[simp] theorem State.draw_pending (s : State) : s.draw.2.pending = s.pending := rfl
@[simp] theorem State.draw_mod (s : State) : s.draw.2.mod = s.mod := rfl
@[simp] theorem State.draw_dict (s : State) : s.draw.2.dict = s.dict := rfl
@[simp] theorem State.draw_flash (s : State) : s.draw.2.flash = s.flash := rfl
@[simp] theorem State.draw_trust (s : State) : s.draw.2.trust = s.trust := rfl
@[simp] theorem State.draw_groves (s : State) : s.draw.2.groves = s.groves := rfl
@[simp] theorem State.draw_deadGroves (s : State) : s.draw.2.deadGroves = s.deadGroves := rfl
@[simp] theorem State.draw_bays (s : State) : s.draw.2.bays = s.bays := rfl
@[simp] theorem State.draw_doms (s : State) : s.draw.2.doms = s.doms := rfl
@[simp] theorem State.draw_cores (s : State) : s.draw.2.cores = s.cores := rfl
@[simp] theorem State.draw_ctxs (s : State) : s.draw.2.ctxs = s.ctxs := rfl
@[simp] theorem State.draw_queues (s : State) : s.draw.2.queues = s.queues := rfl
@[simp] theorem State.draw_kerns (s : State) : s.draw.2.kerns = s.kerns := rfl
@[simp] theorem State.draw_nextKern (s : State) : s.draw.2.nextKern = s.nextKern := rfl
@[simp] theorem State.draw_graphs (s : State) : s.draw.2.graphs = s.graphs := rfl
@[simp] theorem State.draw_rets (s : State) : s.draw.2.rets = s.rets := rfl
@[simp] theorem State.draw_launches (s : State) : s.draw.2.launches = s.launches := rfl
@[simp] theorem State.draw_chutes (s : State) : s.draw.2.chutes = s.chutes := rfl
@[simp] theorem State.draw_fns (s : State) : s.draw.2.fns = s.fns := rfl
@[simp] theorem State.draw_classC (s : State) : s.draw.2.classC = s.classC := rfl
@[simp] theorem State.draw_rr (s : State) : s.draw.2.rr = s.rr := rfl
@[simp] theorem State.draw_resid (s : State) : s.draw.2.resid = s.resid := rfl
@[simp] theorem State.draw_ports (s : State) : s.draw.2.ports = s.ports := rfl
@[simp] theorem State.draw_mbox (s : State) : s.draw.2.mbox = s.mbox := rfl
@[simp] theorem State.draw_mem (s : State) : s.draw.2.mem = s.mem := rfl
@[simp] theorem State.draw_tenons (s : State) : s.draw.2.tenons = s.tenons := rfl
@[simp] theorem State.draw_cuts (s : State) : s.draw.2.cuts = s.cuts := rfl
@[simp] theorem State.draw_dies (s : State) : s.draw.2.dies = s.dies := rfl
@[simp] theorem State.draw_sess (s : State) : s.draw.2.sess = s.sess := rfl
@[simp] theorem State.draw_test (s : State) : s.draw.2.test = s.test := rfl
@[simp] theorem State.draw_power (s : State) : s.draw.2.power = s.power := rfl
@[simp] theorem State.draw_flog (s : State) : s.draw.2.flog = s.flog := rfl
@[simp] theorem State.draw_fell (s : State) : s.draw.2.fell = s.fell := rfl
@[simp] theorem State.draw_obs (s : State) : s.draw.2.obs = s.obs := rfl
@[simp] theorem State.draw_dbg (s : State) : s.draw.2.dbg = s.dbg := rfl
@[simp] theorem State.draw_out (s : State) : s.draw.2.out = s.out := rfl

end Sys2Proof.Machine
end

