-- ==== Sys2Proof/Tests/Slice0.lean ====
section
/-! SUPPORT. Tests: ill-formed commands that the check refuses, single steps whose expected results are worked out by hand from the
spec's tables, and for each statement a state and operands that meet its hypotheses. -/

open Sys2Proof Sys2Proof.Machine
namespace Sys2Proof.Tests

-- Each check waits for the ones before it: one thread at a time.
set_option Elab.async false

/-! ## A small running module -/

def onDom : Dom := { Dom.offDom with st := .on, pt := 3 }
def upBay : Bay := { Bay.offBay with st := .running }
def onePath (ls : BitVec 16) : Path := { pid := 0, lanes := ls, pc := 0x1000#64, joins := [], st := .run }
def oneWhorl (p : Path) : Whorl :=
  { kernel := 1, index := 0, launched := 0xFFFF#16, v := [], u := [], p := [], acc := [], accInt := 0#4, liveV := [],
    liveT := 0#4, paths := [p], cur := 0, nextPid := 1, nextSplit := 0, issues := 0, curIssues := 0, colls := [],
    tileQ := [], stopped := false }
def oneCtx : Ctx :=
  { f := 0, seed := 0#64, frec := 0x2000#64, ptroot := 0#64, pasid := 0#20, fault := 0, faultPa := 0, frec_ := 0,
    frecDue := false, frecCore := 0, more := 0, stopping := false, dying := false, stopTime := 0#64, gens := [], resv := 0 }
def oneKern : Kern :=
  { src := .queue 0, q := 0, seq := 0, ctx := 1, part := 0, cls := 0, pc := 0x1000#64, args := 0#64, hint := 0#64, hlog := 0,
    tlim := 0, rsafe := true, tpw := 16, wpc := 1, gran := 0, nwh := 1, next := 1, left := 1, st := .resident, repl := 0,
    chuteTaken := false, first := [], cores := [0], charged := 0, placedAt := 0, startAt := [(0, 0)], readySince := 0, ranFor := 0, saved := [],
    savedStore := [], pending := none, endAt := 0, lastAck := 0 }
def oneQueue : Queue :=
  { ctx := 1, f := 0, ring := 0x4000#64, cring := 0x5000#64, headwb := 0x6000#64, cls := 0, rlog := 4, clog := 4, cvec := 0,
    evec := 0, st := .ready, paused := false, head := 0#32, tail := 0#32, chead := 0#32, fetched := 0#32, released := 0,
    indLeft := 0, indAddr := 0#64, written := 0, shadow := [], seq := 0, ahead := [], exec := none, job := none, recs := [],
    drainDue := false, headDue := false, heads := [], prior := [], bells := [] }
def coreWith (wh : Whorl) : Core := { Core.blank with slots := [(0, wh)], icache := [(64, List.replicate 64 0#8)], granules := [(0, 1)] }
/-- A module in SERVICE: every bay runs, every domain is on, function 0 has 64 GiB, context 1 maps its first pages, and whorl `wh`
of kernel 1 stands in slot 0 of core 0. -/
def liveWith (wh : Whorl) : State :=
  { State.reset with
    mod := { State.reset.mod with op := .service, phase := .ended, pwrGood := true, memActive := true, time := 1000000#64 },
    dict := { State.reset.dict with od := [(odKey 0x6010 3, leBytes 4 64)] },
    bays := [(0, upBay), (1, upBay), (2, upBay), (3, upBay)],
    doms := (List.range 80).map fun g => (g, onDom),
    cores := [(0, coreWith wh)],
    ctxs := [(1, oneCtx)], queues := [(0, oneQueue)], kerns := [(1, oneKern)], nextKern := 2,
    fns := [(0, { Fn.blank with groves := List.range 768, busMaster := [true, true] })],
    ports := [(0, { CxlPort.blank with up := true }), (1, { CxlPort.blank with up := true })],
    mem := { State.reset.mem with tlb := [(1, 1, 0x103D#64), (1, 2, 0x203D#64), (1, 3, 0x01100000003D#64)] } }
def p0 : Path := onePath 0xFFFF#16
def wh0 : Whorl := oneWhorl p0
def w0 : Wid := ⟨0, 0⟩
def live : State := liveWith wh0
/-- The same with one thread, and these v and u registers; lane 0's v registers count from 0. -/
def p1 : Path := onePath 1#16
def wh1 (v : FMap W32) (u : FMap W64) : Whorl := { oneWhorl p1 with v := v, u := u }
def live1 (v : FMap W32) (u : FMap W64) : State := liveWith (wh1 v u)

/-- The same with an instruction word at 0x1000, in the cache of core 0. -/
def coded (s : State) (word : W64) : State :=
  s.setCore 0 { s.core 0 with icache := [(64, leBytes 8 word.toNat ++ List.replicate 56 0#8)] }

def next (c : Instr) (s : State) : State :=
  match exec c s with
  | .next t => t
  | _ => s
def whorlAfter (word : W64) (c : Instr) (s : State) : Whorl := (whorlOf (next c (coded s word)) w0).getD wh0

/-! ## Whether a whorl issues, as a check that runs -/

def fetched (s : State) (w : Wid) (wh : Whorl) (p : Path) : Option (W64 × State) :=
  match fetchAt (putWhorl s w wh) w wh p with
  | .ok word t => some (word, t)
  | _ => none
def issuesB (s : State) (w : Wid) (simt : Bool) (word : W64) (keys : List Nat) (wh : Whorl) (p : Path) : Bool :=
  (match issuePath s w simt with
   | some (wh', c) => decide (wh = mergeAtIssue wh' c)
   | none => false) && decide (wh.curPath? = some p) &&
  (match fetched s w wh p with
   | some x => decide (x.1 = word) && wordDefined word && scoreboardFree x.2 w wh keys
   | none => false)
def fetchState (s : State) (w : Wid) (wh : Whorl) (p : Path) : State := ((fetched s w wh p).map (·.2)).getD s

theorem issues_of_check {s : State} {w : Wid} {simt : Bool} {word : W64} {keys : List Nat} {wh : Whorl} {p : Path}
    (h : issuesB s w simt word keys wh p = true) : Issues s w simt word keys wh p (fetchState s w wh p) := by
  unfold issuesB at h
  simp only [Bool.and_eq_true, decide_eq_true_eq] at h
  obtain ⟨⟨h1, h2⟩, h3⟩ := h
  have hp : ∃ wh0 c, issuePath s w simt = some (wh0, c) ∧ wh = mergeAtIssue wh0 c := by
    split at h1
    · rename_i wh' c hr
      exact ⟨wh', c, hr, by simpa using h1⟩
    · cases h1
  cases hf : fetchAt (putWhorl s w wh) w wh p with
  | ok x t =>
    simp only [fetched, hf, Bool.and_eq_true, decide_eq_true_eq] at h3
    obtain ⟨⟨hx, hd⟩, hs⟩ := h3
    subst hx
    have hstate : fetchState s w wh p = t := by simp [fetchState, fetched, hf]
    rw [hstate]
    exact ⟨hp, h2, hf, hd, hs⟩
  | fault i t => simp [fetched, hf] at h3
  | wait t => simp [fetched, hf] at h3

/-- Whorl w of a state with that word at its program counter issues it. -/
abbrev IssuesWord (s : State) (simt : Bool) (word : W64) (keys : List Nat) (wh : Whorl) (p : Path) : Prop :=
  Issues (coded s word) w0 simt word keys wh p (fetchState (coded s word) w0 wh p)
theorem all_issue {s : State} {simt : Bool} {wh : Whorl} {p : Path} {l : List (W64 × List Nat)}
    (h : (l.all fun x => issuesB (coded s x.1) w0 simt x.1 x.2 wh p) = true) :
    ∀ x, x ∈ l → IssuesWord s simt x.1 x.2 wh p := fun x hx => issues_of_check (List.all_eq_true.mp h x hx)

/-! ## Instruction fields -/

def fr (d a b c : BitVec 7) (ty : BitVec 4) : FReg :=
  { gn := 0#1, gp := 7#3, d := d, a := a, b := b, c := c, ty := ty, ps := 0#3, rnd := 0#2, sat := 0#1, z := 0#9 }
def fi (d a : BitVec 7) (w : BitVec 1) (imm : BitVec 32) : FImm := { gn := 0#1, gp := 7#3, d := d, a := a, w := w, imm := imm }
def fm (d a b : BitVec 7) (sz : BitVec 3) (off : BitVec 15) : FMem :=
  { gn := 0#1, gp := 7#3, d := d, a := a, b := b, ord := 0#2, sc := 0#3, cls := 0#3, sz := sz, off := off }
def fb (tgt : BitVec 24) (join : BitVec 23) : FBr := { gn := 0#1, gp := 7#3, tgt := tgt, join := join }
def fc (d a b : BitVec 7) (mask : BitVec 16) : FCol :=
  { gn := 0#1, gp := 7#3, d := d, a := a, b := b, ms := 0#1, mask := mask, di := 1#1, ps := 0#3, z := 0#5 }
def ft (ty : BitVec 4) (a b c : BitVec 7) (mask : BitVec 16) : FTile :=
  { gn := 0#1, gp := 7#3, acc := 0#2, ty := ty, a := a, b := b, c := c, rnd := 0#2, sat := 0#1, ms := 0#1, mask := mask }

/-! ## Integer and floating-point instructions -/

theorem witness_ArithmeticWritesItsResult :
    (legalInt3 (fr 3 1 2 0 0) = true ∧ legalInt3 (fr 62 0 2 0 2) = true ∧ legalImm (fi 3 1 0 5) = true ∧
      legalInt4 (fr 3 1 2 4 0) = true ∧ legalFalu (fr 3 1 2 0 4) true false = true ∧ legalFalu (fr 3 1 2 4 8) true true = true ∧
      legalFalu (fr 3 1 0 0 4) false false = true) ∧
    (∀ x, x ∈ [(regWord ⟨0x08, 0x00⟩ (fr 3 1 2 0 0), regsOf false [3, 1, 2]), (immWord ⟨0x09, 0x01⟩ (fi 3 1 0 5), regsOf false [3, 1]),
        (regWord ⟨0x0A, 0x01⟩ (fr 62 0 2 0 2), regsOf true [62, 0, 2]), (regWord ⟨0x0A, 0x02⟩ (fr 3 1 2 4 0), regsOf false [3, 1, 2, 4]),
        (regWord ⟨0x0B, 0x01⟩ (fr 3 1 2 0 0), regsOf false [3, 1, 2]), (regWord ⟨0x10, 0x03⟩ (fr 3 1 2 4 8), regsOf false [3, 1, 2, 4]),
        (regWord ⟨0x10, 0x07⟩ (fr 3 1 0 0 4), regsOf false [3, 1])] → IssuesWord live true x.1 x.2 wh0 p0) :=
  ⟨by decide +kernel, all_issue (by decide +kernel)⟩

theorem witness_MoveSelectMinMaxAndBitInstructionsWriteTheirResult :
    (legalInt3 (fr 3 1 2 0 0) && legalInt2 (fr 3 1 0 0 0) && legalImm (fi 3 1 0 0) && (fi 3 0 0 0).a == 0#7 && legalImm (fi 62 0 1 9) &&
      legalFldx (fr 3 1 0 2 0) && legalInt4 (fr 3 1 2 4 1)) = true ∧
    (usedOnly (fr 3 1 2 0 4) { UseReg.none with d := true, a := true, b := true, ty := true, ps := true } = true) ∧
    (∀ x, x ∈ [(regWord ⟨0x08, 0x02⟩ (fr 3 1 2 0 0), regsOf false [3, 1, 2]), (immWord ⟨0x09, 0x0a⟩ (fi 3 1 0 0), regsOf false [3, 1]),
        (regWord ⟨0x08, 0x0a⟩ (fr 3 1 0 0 0), regsOf false [3, 1]), (immWord ⟨0x09, 0x10⟩ (fi 3 0 0 0), regsOf false [3]),
        (immWord ⟨0x09, 0x11⟩ (fi 62 0 1 9), regsOf true [62]), (regWord ⟨0x14, 0x04⟩ (fr 3 1 2 0 4), regsOf false [3, 1, 2]),
        (regWord ⟨0x0C, 0x03⟩ (fr 3 1 0 2 0), regsOf false [3, 1, 2]), (regWord ⟨0x0C, 0x04⟩ (fr 3 1 2 4 1), regsOf false [3, 1, 2, 4])] →
      IssuesWord live true x.1 x.2 wh0 p0) :=
  ⟨by decide +kernel, by decide +kernel, all_issue (by decide +kernel)⟩

theorem witness_ComparesAndPredicateLogicWriteTheirPredicate :
    (legalSetp (fr 7 1 2 0 0) && legalSetp (fr 0 0 2 0 3) && legalSetpi (fi 1 1 0 5) && legalFsetp (fr 1 1 2 0 4) &&
      legalPred (fr 1 2 7 0 0) && usedOnly (fr 1 2 0 0 0) { UseReg.none with d := true, a := true }) = true ∧
    (∀ x, x ∈ [(regWord ⟨0x0D, 0x05⟩ (fr 0 0 2 0 3), regsOf true [0, 2]), (immWord ⟨0x0E, 0x00⟩ (fi 1 1 0 5), regsOf false [1]),
        (regWord ⟨0x13, 0x07⟩ (fr 1 1 2 0 4), regsOf false [1, 2]), (regWord ⟨0x14, 0x02⟩ (fr 1 2 7 0 0), []),
        (regWord ⟨0x14, 0x03⟩ (fr 1 2 0 0 0), [])] → IssuesWord live true x.1 x.2 wh0 p0) :=
  ⟨by decide +kernel, all_issue (by decide +kernel)⟩

theorem witness_SpecialFunctionsAndConversionsComplete :
    (legalFsfu (fr 3 1 0 0 4) && legalCvt (fr 3 1 0 0 4) && legalCvt { fr 3 1 4 0 5 with rnd := 2#2 }) = true ∧
    (∀ x, x ∈ [(regWord ⟨0x11, 0x06⟩ (fr 3 1 0 0 4), regsOf false [3, 1]), (regWord ⟨0x12, 0x00⟩ (fr 3 1 0 0 4), regsOf false [3, 1]),
        (regWord ⟨0x12, 0x00⟩ { fr 3 1 4 0 5 with rnd := 2#2 }, regsOf false [3, 1])] → IssuesWord live true x.1 x.2 wh0 p0) :=
  ⟨by decide +kernel, all_issue (by decide +kernel)⟩

theorem test_iadd_wraps : (whorlAfter (regWord ⟨0x08, 0x00⟩ (fr 3 1 2 0 0)) (.iadd w0 (.reg (fr 3 1 2 0 0))) (live1 [(1, 0xFFFFFFFF#32), (2, 3#32)] [])).vget 0 3 = 2 := by
  decide +kernel
theorem test_isub_borrows : (whorlAfter (immWord ⟨0x09, 0x01⟩ (fi 3 1 0 5)) (.isub w0 (.imm (fi 3 1 0 5))) (live1 [(1, 3#32)] [])).vget 0 3 = 0xFFFFFFFE := by
  decide +kernel
theorem test_imin_is_signed :
    (whorlAfter (regWord ⟨0x08, 0x02⟩ (fr 3 1 2 0 0)) (.imin w0 (.reg (fr 3 1 2 0 0))) (live1 [(1, 0xFFFFFFFF#32), (2, 3#32)] [])).vget 0 3 = 0xFFFFFFFF := by
  decide +kernel
theorem test_imin_is_unsigned :
    (whorlAfter (regWord ⟨0x08, 0x02⟩ (fr 3 1 2 0 1)) (.imin w0 (.reg (fr 3 1 2 0 1))) (live1 [(1, 0xFFFFFFFF#32), (2, 3#32)] [])).vget 0 3 = 3 := by decide +kernel
theorem test_imax_is_signed :
    (whorlAfter (regWord ⟨0x08, 0x03⟩ (fr 3 1 2 0 0)) (.imax w0 (.reg (fr 3 1 2 0 0))) (live1 [(1, 0xFFFFFFFF#32), (2, 3#32)] [])).vget 0 3 = 3 := by decide +kernel
theorem test_and : (whorlAfter (regWord ⟨0x08, 0x04⟩ (fr 3 1 2 0 0)) (.and w0 (.reg (fr 3 1 2 0 0))) (live1 [(1, 12#32), (2, 10#32)] [])).vget 0 3 = 8 := by decide +kernel
theorem test_or : (whorlAfter (regWord ⟨0x08, 0x05⟩ (fr 3 1 2 0 0)) (.or w0 (.reg (fr 3 1 2 0 0))) (live1 [(1, 12#32), (2, 10#32)] [])).vget 0 3 = 14 := by decide +kernel
theorem test_xor : (whorlAfter (regWord ⟨0x08, 0x06⟩ (fr 3 1 2 0 0)) (.xor w0 (.reg (fr 3 1 2 0 0))) (live1 [(1, 12#32), (2, 10#32)] [])).vget 0 3 = 6 := by decide +kernel
theorem test_shl_takes_the_count_modulo_the_width :
    (whorlAfter (regWord ⟨0x08, 0x07⟩ (fr 3 1 2 0 0)) (.shl w0 (.reg (fr 3 1 2 0 0))) (live1 [(1, 3#32), (2, 33#32)] [])).vget 0 3 = 6 := by decide +kernel
theorem test_shr_brings_zeros :
    (whorlAfter (immWord ⟨0x09, 0x08⟩ (fi 3 1 0 4)) (.shr w0 (.imm (fi 3 1 0 4))) (live1 [(1, 0xF0000000#32)] [])).vget 0 3 = 0x0F000000 := by decide +kernel
theorem test_sar_brings_the_sign :
    (whorlAfter (immWord ⟨0x09, 0x09⟩ (fi 3 1 0 4)) (.sar w0 (.imm (fi 3 1 0 4))) (live1 [(1, 0xF0000000#32)] [])).vget 0 3 = 0xFF000000 := by decide +kernel
theorem test_imulhi_is_signed :
    (whorlAfter (regWord ⟨0x0A, 0x01⟩ (fr 3 1 2 0 0)) (.imulhi w0 (fr 3 1 2 0 0)) (live1 [(1, 0xFFFFFFFF#32), (2, 2#32)] [])).vget 0 3 = 0xFFFFFFFF := by decide +kernel
theorem test_imulhi_is_unsigned :
    (whorlAfter (regWord ⟨0x0A, 0x01⟩ (fr 3 1 2 0 1)) (.imulhi w0 (fr 3 1 2 0 1)) (live1 [(1, 0xFFFFFFFF#32), (2, 2#32)] [])).vget 0 3 = 1 := by decide +kernel
theorem test_imad : (whorlAfter (regWord ⟨0x0A, 0x02⟩ (fr 3 1 2 4 0)) (.imad w0 (fr 3 1 2 4 0)) (live1 [(1, 3#32), (2, 5#32), (4, 7#32)] [])).vget 0 3 = 22 := by
  decide +kernel
theorem test_idiv_by_zero_is_all_ones :
    (whorlAfter (regWord ⟨0x0B, 0x00⟩ (fr 3 1 2 0 0)) (.idiv w0 (fr 3 1 2 0 0)) (live1 [(1, 3#32)] [])).vget 0 3 = 0xFFFFFFFF := by decide +kernel
theorem test_idiv_truncates :
    (whorlAfter (regWord ⟨0x0B, 0x00⟩ (fr 3 1 2 0 0)) (.idiv w0 (fr 3 1 2 0 0)) (live1 [(1, 0xFFFFFFF9#32), (2, 2#32)] [])).vget 0 3 = 0xFFFFFFFD := by decide +kernel
theorem test_irem_has_the_dividends_sign :
    (whorlAfter (regWord ⟨0x0B, 0x01⟩ (fr 3 1 2 0 0)) (.irem w0 (fr 3 1 2 0 0)) (live1 [(1, 0xFFFFFFF9#32), (2, 2#32)] [])).vget 0 3 = 0xFFFFFFFF := by decide +kernel
theorem test_ones : (whorlAfter (regWord ⟨0x0C, 0x00⟩ (fr 3 1 0 0 1)) (.ones w0 (fr 3 1 0 0 1)) (live1 [(1, 0xF0F1#32)] [])).vget 0 3 = 9 := by decide +kernel
theorem test_zlead : (whorlAfter (regWord ⟨0x0C, 0x01⟩ (fr 3 1 0 0 1)) (.zlead w0 (fr 3 1 0 0 1)) (live1 [(1, 0xF0F1#32)] [])).vget 0 3 = 16 := by decide +kernel
theorem test_bitrev : (whorlAfter (regWord ⟨0x0C, 0x02⟩ (fr 3 1 0 0 1)) (.bitrev w0 (fr 3 1 0 0 1)) (live1 [(1, 1#32)] [])).vget 0 3 = 0x80000000 := by decide +kernel
theorem test_movi_writes_a_pair_of_a_wide_immediate :
    (whorlAfter (immWord ⟨0x09, 0x10⟩ (fi 4 0 1 0xFFFFFFFE)) (.movi w0 (fi 4 0 1 0xFFFFFFFE)) (live1 [] [])).vget 0 5 = 0xFFFFFFFF := by decide +kernel
theorem test_u_destination_takes_the_sign :
    (whorlAfter (regWord ⟨0x08, 0x00⟩ (fr 64 1 2 0 0)) (.iadd w0 (.reg (fr 64 1 2 0 0))) (live1 [(1, 0xFFFFFFFE#32), (2, 1#32)] [])).uget 0 = 0xFFFFFFFFFFFFFFFF := by
  decide +kernel
theorem test_lt_is_signed : (whorlAfter (regWord ⟨0x0D, 0x02⟩ (fr 1 1 2 0 0)) (.lt w0 (.setp (fr 1 1 2 0 0))) (live1 [(1, 0xFFFFFFFF#32), (2, 3#32)] [])).pget 0 1 = true := by
  decide +kernel
theorem test_lt_is_unsigned :
    (whorlAfter (regWord ⟨0x0D, 0x02⟩ (fr 1 1 2 0 1)) (.lt w0 (.setp (fr 1 1 2 0 1))) (live1 [(1, 0xFFFFFFFF#32), (2, 3#32)] [])).pget 0 1 = false := by decide +kernel
theorem test_fadd_rounds : (whorlAfter (regWord ⟨0x10, 0x00⟩ (fr 3 1 2 0 4)) (.fadd w0 (fr 3 1 2 0 4)) (live1 [(1, 0x3F800000#32), (2, 0x40000000#32)] [])).vget 0 3 = 0x40400000 := by
  decide +kernel
theorem test_fmul : (whorlAfter (regWord ⟨0x10, 0x02⟩ (fr 3 1 2 0 4)) (.fmul w0 (fr 3 1 2 0 4)) (live1 [(1, 0x3FC00000#32), (2, 0xC0000000#32)] [])).vget 0 3 = 0xC0400000 := by
  decide +kernel
theorem test_ffma_rounds_once :
    (whorlAfter (regWord ⟨0x10, 0x03⟩ (fr 3 1 2 4 4)) (.ffma w0 (fr 3 1 2 4 4)) (live1 [(1, 0x3F800001#32), (2, 0x3F800001#32), (4, 0xBF800002#32)] [])).vget 0 3 =
      0x28800000 := by decide +kernel
theorem test_fneg_changes_the_sign : (whorlAfter (regWord ⟨0x10, 0x07⟩ (fr 3 1 0 0 4)) (.fneg w0 (fr 3 1 0 0 4)) (live1 [(1, 0x3F800000#32)] [])).vget 0 3 = 0xBF800000 := by
  decide +kernel
theorem test_cvt_f32_to_bf16_ties_to_even :
    (whorlAfter (regWord ⟨0x12, 0x00⟩ (fr 3 1 4 0 6)) (.cvt w0 (fr 3 1 4 0 6)) (live1 [(1, 0x3F808000#32)] [])).vget 0 3 % 65536 = 0x3F80 := by decide +kernel


theorem test_only_the_fetched_word_issues :
    next (.iadd w0 (.reg (fr 3 1 2 0 0))) (coded live (regWord ⟨0x08, 0x01⟩ (fr 3 1 2 0 0))) = coded live (regWord ⟨0x08, 0x01⟩ (fr 3 1 2 0 0)) := by
  decide +kernel
theorem test_an_undefined_word_is_an_illegal_instruction :
    ((fget (next (.iadd w0 (.reg (fr 3 1 2 0 0))) (coded live 0xFC00000000000000#64)).ctxs 1).map (·.fault)) = some 1 := by decide +kernel
/-! ## Memory instructions -/

def addrsOf : Addrs → Option (List (Nat × Nat × Nat) × State)
  | .ok as s => some (as, s)
  | _ => none
/-- What the lanes of p resolve to, if they do. -/
def resolved (s1 : State) (w : Wid) (wh : Whorl) (p : Path) (f : FMem) (u : Use) (kind : Nat) (once : Bool) :
    Option (List (Nat × Nat × Nat) × State) :=
  addrsOf (resolve s1 (.core w.core w.slot) (whorlCtx s1 wh) u kind (memSize f)
    ((runLanes wh p f.gn f.gp once).map fun l => (l, effAddr wh l f)))
theorem resolve_of_check {s1 : State} {w : Wid} {wh : Whorl} {p : Path} {f : FMem} {u : Use} {kind : Nat} {once : Bool}
    {as : List (Nat × Nat × Nat)} (h : (resolved s1 w wh p f u kind once).map (·.1) = some as) :
    resolve s1 (.core w.core w.slot) (whorlCtx s1 wh) u kind (memSize f)
      ((runLanes wh p f.gn f.gp once).map fun l => (l, effAddr wh l f)) =
      .ok as (((resolved s1 w wh p f u kind once).map (·.2)).getD s1) := by
  unfold resolved at h ⊢
  cases hr : resolve s1 (.core w.core w.slot) (whorlCtx s1 wh) u kind (memSize f)
      ((runLanes wh p f.gn f.gp once).map fun l => (l, effAddr wh l f)) with
  | ok as' s' =>
    rw [hr] at h
    simp only [addrsOf, Option.map_some, Option.some.injEq] at h
    simp only [addrsOf, Option.map_some, Option.getD_some, h]
  | fault i s' => rw [hr] at h; cases h
  | wait s' => rw [hr] at h; cases h
def resolvesB (s1 : State) (w : Wid) (wh : Whorl) (p : Path) (f : FMem) (k : ReqKind) (once : Bool) (as : List (Nat × Nat × Nat)) :
    Bool :=
  let s2 := ((resolved s1 w wh p f (useOf k) (kindBits k) once).map (·.2)).getD s1
  decide (runLanes wh p f.gn f.gp once ≠ []) && !acquireOpen s1 w p && decide (as ≠ []) &&
  decide ((resolved s1 w wh p f (useOf k) (kindBits k) once).map (·.1) = some as) &&
  as.all (fun a => decide (regionOf a.2.2 ≠ .peer) && !ownStore w.core a.2.2 &&
    (!k.reads || f.ord.getLsbD 0 || decide (l1Find (s2.core w.core) (a.2.2 / 64) = none))) &&
  decide (openMisses s2 w.core (makeLanes as (fun _ => []) fun _ => []) ≤ 64) && s2.reqIds
theorem resolves_of_check {s1 : State} {w : Wid} {wh : Whorl} {p : Path} {f : FMem} {k : ReqKind} {once : Bool}
    {as : List (Nat × Nat × Nat)} (h : resolvesB s1 w wh p f k once as = true) :
    Resolves s1 (((resolved s1 w wh p f (useOf k) (kindBits k) once).map (·.2)).getD s1) w wh p f k once as := by
  unfold resolvesB at h
  simp only [Bool.and_eq_true, decide_eq_true_eq, Bool.not_eq_true', List.all_eq_true, Bool.or_eq_true, ne_eq] at h
  obtain ⟨⟨⟨⟨⟨⟨h1, h2⟩, h3⟩, h4⟩, h5⟩, h6⟩, h7⟩ := h
  refine ⟨h1, h2, h3, resolve_of_check h4, ?_, h6, h7⟩
  intro a ha
  obtain ⟨⟨h8, h9⟩, h10⟩ := h5 a ha
  refine ⟨h8, h9, fun hk => ?_⟩
  rcases h10 with (h | h) | h
  · rw [hk] at h; cases h
  · exact Or.inl h
  · exact Or.inr h

/-- u0 holds an address in DRAM, u1 one in the core's own store. -/
def mwh : Whorl := wh1 [(3, 0xAABBCCDD#32), (4, 7#32)] [(0, 0x2040#64), (1, 0x3000#64)]
def mlive : State := liveWith mwh
def mfetch (word : W64) : State := fetchState (coded mlive word) w0 mwh p1
/-- Words of a load, a store, an atomic, an accumulating write and a hint to the address in u0 + 0x10; a store to the own store. -/
def loadWord : W64 := memWord ⟨0x18, 0x00⟩ (fm 3 64 0 2 0x10)
def storeWord : W64 := memWord ⟨0x19, 0x00⟩ (fm 3 64 0 2 0x10)
def ownWord : W64 := memWord ⟨0x19, 0x00⟩ (fm 3 65 0 2 0)

theorem witness_AccessesLeaveAsRequests :
    (legalLoad (fm 3 64 0 2 0x10) 5 && legalLoad (fm 3 64 0 0 0) 2 && legalStore (fm 3 64 0 2 0x10) && legalAtom (fm 3 64 4 2 0x10) 9 &&
      legalAcw (fm 0 64 4 2 0x10) && legalPref (fm 0 64 0 0 0)) = true ∧
    (∀ x, x ∈ [(loadWord, memKeys (fm 3 64 0 2 0x10) true false), (memWord ⟨0x18, 0x01⟩ (fm 3 64 0 0 0), memKeys (fm 3 64 0 0 0) true false),
        (storeWord, memKeys (fm 3 64 0 2 0x10) true false), (memWord ⟨0x1A, 0x09⟩ (fm 3 64 4 2 0x10), memKeys (fm 3 64 4 2 0x10) true true),
        (memWord ⟨0x1B, 0x04⟩ (fm 0 64 4 2 0x10), memKeys (fm 0 64 4 2 0x10) false true),
        (memWord ⟨0x1C, 0x01⟩ (fm 0 64 0 0 0), memKeys (fm 0 64 0 0 0) false false)] → IssuesWord mlive true x.1 x.2 mwh p1) ∧
    Resolves (mfetch loadWord) (((resolved (mfetch loadWord) w0 mwh p1 (fm 3 64 0 2 0x10) (useOf (.load false)) (kindBits (.load false)) false).map
      (·.2)).getD (mfetch loadWord)) w0 mwh p1 (fm 3 64 0 2 0x10) (.load false) false [(0, 0x2050, 0x2050)] ∧
    Resolves (mfetch storeWord) (((resolved (mfetch storeWord) w0 mwh p1 (fm 3 64 0 2 0x10) (useOf .store) (kindBits .store) false).map
      (·.2)).getD (mfetch storeWord)) w0 mwh p1 (fm 3 64 0 2 0x10) .store false [(0, 0x2050, 0x2050)] ∧
    ((execLanes mwh p1 0#1 7#3).map fun l => (l, effAddr mwh l (fm 0 64 0 0 0))) = [(0, 0x2040)] :=
  ⟨by decide +kernel, all_issue (by decide +kernel), resolves_of_check (by decide +kernel),
    resolves_of_check (by decide +kernel), by decide +kernel⟩

def ownResolved : Option (List (Nat × Nat × Nat) × State) := resolved (mfetch ownWord) w0 mwh p1 (fm 3 65 0 2 0) .write 1 false

theorem witness_OwnStoreWritesActAtOnceAndFetchChangesNothing :
    legalStore (fm 3 65 0 2 0) = true ∧ IssuesWord mlive true ownWord (memKeys (fm 3 65 0 2 0) true false) mwh p1 ∧
    acquireOpen (mfetch ownWord) w0 p1 = false ∧
    resolve (mfetch ownWord) (.core w0.core w0.slot) (whorlCtx (mfetch ownWord) mwh) .write 1 (memSize (fm 3 65 0 2 0))
      ((runLanes mwh p1 (fm 3 65 0 2 0).gn (fm 3 65 0 2 0).gp false).map fun l => (l, effAddr mwh l (fm 3 65 0 2 0))) =
      .ok [(0, 0x3000, 0x11000000000)] ((ownResolved.map (·.2)).getD (mfetch ownWord)) ∧
    (let s2 := (ownResolved.map (·.2)).getD (mfetch ownWord)
     ownStore 0 0x11000000000 = true ∧ tileTouches s2 1 0 mwh 0x11000000000 4 = false ∧ ownHeld s2 0 0x11000000000 4 = false ∧
      Memory.wf s2.mem.store = true) :=
  ⟨by decide +kernel, issues_of_check (by decide +kernel), by decide +kernel, resolve_of_check (f := fm 3 65 0 2 0) (by decide +kernel),
    by decide +kernel⟩

theorem test_a_store_to_the_own_store_is_little_endian :
    (mget (next (.st w0 (fm 3 65 0 2 0)) (coded mlive ownWord)).mem.store 0x11000000000,
      mget (next (.st w0 (fm 3 65 0 2 0)) (coded mlive ownWord)).mem.store 0x11000000003) = (0xDD#8, 0xAA#8) := by decide +kernel
theorem test_a_misaligned_load_faults_with_alignment :
    ((fget (next (.ld w0 (fm 3 64 0 2 1)) (coded mlive (memWord ⟨0x18, 0x00⟩ (fm 3 64 0 2 1)))).ctxs 1).map (·.fault)) = some 2 := by
  decide +kernel
/-! ## Control flow -/

/-- A path of three threads; p1 of thread 0 is 0, of the others 1. -/
def bp : Path := onePath 0b0111#16
def bwh : Whorl := { oneWhorl bp with u := [(5, 0x2000#64)] }
def blive : State := liveWith bwh
def bfetch (word : W64) : State := fetchState (coded blive word) w0 bwh bp
def fenceWord : W64 := regWord ⟨0x00, 0x02⟩ (fr 0 4 0 0 0)

theorem witness_BranchesMoveEachThread :
    guardOk 0#1 1#3 = true ∧ uOk (brxReg (fb (0b1000101#7 ++ 0#17) 0)) = true ∧ (fb (0b1000101#7 ++ 0#17) 0).tgt.extractLsb' 0 17 = 0#17 ∧
    (∀ x, x ∈ [(brWord ⟨0x02, 0⟩ (fb 4 0), []), (brWord ⟨0x03, 0⟩ (fb (0b1000101#7 ++ 0#17) 0), [69]), (brWord ⟨0x04, 0⟩ (fb 4 0), [62, 63])] →
      IssuesWord blive true x.1 x.2 bwh bp) :=
  ⟨by decide, by decide, by decide, all_issue (by decide +kernel)⟩

def parkedPath : Path := { onePath 1#16 with joins := [{ addr := 0x1040#64, split := 0 }], st := .parked 0 }
def parkedWhorl : Whorl := { oneWhorl parkedPath with issues := 64 }

theorem witness_ReturnExitNopAndPathOrderMoveThreads :
    guardOk 0#1 7#3 = true ∧ legalBare (fr 0 0 0 0 0) = true ∧
    (∀ x, x ∈ [(brWord ⟨0x05, 0⟩ (fb 0 0), [62, 63]), (regWord ⟨0x00, 0x00⟩ (fr 0 0 0 0 0), []), (regWord ⟨0x00, 0x01⟩ (fr 0 0 0 0 0), [])] →
      IssuesWord blive true x.1 x.2 bwh bp) ∧ memberExits bwh (maskOf (execLanes bwh bp 0#1 7#3)) = none ∧
    (bp.lanes &&& ~~~(maskOf (execLanes bwh bp 0#1 7#3)) = 0#16) ∧ (bp.lanes &&& ~~~(maskOf (execLanes bwh bp 0#1 1#3)) ≠ 0#16) ∧
    (parkedWhorl.path? 0 = some parkedPath ∧ coreRuns (liveWith parkedWhorl) 0 = true ∧ releaseDue parkedWhorl parkedPath = true ∧
      whorlOf (liveWith parkedWhorl) w0 = some parkedWhorl ∧ parkedWhorl.stopped = false) ∧
    (32 ≤ ({ bwh with curIssues := 32 } : Whorl).curIssues) :=
  ⟨by decide, by decide, all_issue (by decide +kernel), by decide +kernel, by decide +kernel, by decide +kernel, by decide +kernel, by decide⟩

theorem witness_FenceAndReadSpecialRegisterComplete :
    (usedOnly (fr 0 4 0 0 0) { UseReg.none with a := true } && guardAll 0#1 7#3 && decide ((fr 0 4 0 0 0).a.toNat < 5) &&
      !acquireOpen (bfetch fenceWord) w0 bp && releaseReady (bfetch fenceWord) w0 4 (bfetch fenceWord).mem.nextReq) = true ∧
    (usedOnly (fr 64 0 5 0 0) { UseReg.none with d := true, b := true } && uOk (fr 64 0 5 0 0).d) = true ∧
    IssuesWord blive true fenceWord [] bwh bp ∧ IssuesWord blive true (regWord ⟨0x00, 0x03⟩ (fr 64 0 5 0 0)) [regKey 64#7] bwh bp ∧
    bwh.guard 0#1 7#3 (lowLane bp) = true ∧ (bfetch (regWord ⟨0x00, 0x03⟩ (fr 64 0 0 0 0))).mod.groveWait.contains (coreGrove 0) = false :=
  ⟨by decide +kernel, by decide +kernel, issues_of_check (by decide +kernel), issues_of_check (by decide +kernel), by decide +kernel,
    by decide +kernel⟩

theorem test_bra_moves_to_the_target : ((whorlAfter (brWord ⟨0x02, 0⟩ (fb 0xFFFFFE#24 0)) (.bra w0 (fb 0xFFFFFE#24 0)) blive).paths.map (·.pc)) = [0xFF0#64] := by decide +kernel
theorem test_brx_moves_to_the_register : ((whorlAfter (brWord ⟨0x03, 0⟩ (fb (0b1000101#7 ++ 0#17) 0)) (.brx w0 (fb (0b1000101#7 ++ 0#17) 0)) blive).paths.map (·.pc)) = [0x2000#64] := by
  decide +kernel
theorem test_call_writes_the_return_address : (whorlAfter (brWord ⟨0x04, 0⟩ (fb 4 0)) (.call w0 (fb 4 0)) blive).src true 2 62#7 = 0x1008 := by decide +kernel
theorem test_exit_of_every_thread_frees_the_slot : whorlOf (next (.exit w0 (fr 0 0 0 0 0)) (coded blive (regWord ⟨0x00, 0x01⟩ (fr 0 0 0 0 0)))) w0 = none := by decide +kernel
theorem test_rdsr_reads_the_active_threads : (whorlAfter (regWord ⟨0x00, 0x03⟩ (fr 64 0 5 0 0)) (.rdsr w0 (fr 64 0 5 0 0)) blive).uget 0 = 7 := by decide +kernel

/-! ## Collectives, waits, tiles, chutes and pins -/

theorem ok_of_addrs {x : Addrs} {as : List (Nat × Nat × Nat)} {P : State → Bool}
    (h : (match addrsOf x with
      | some (a, t) => decide (a = as) && P t
      | none => false) = true) : ∃ s2, x = .ok as s2 ∧ P s2 = true := by
  cases x with
  | ok a t =>
    simp only [addrsOf, Bool.and_eq_true, decide_eq_true_eq] at h
    exact ⟨t, by rw [h.1], h.2⟩
  | fault i t => simp [addrsOf] at h
  | wait t => simp [addrsOf] at h
theorem pair_of {α β : Type} {x : α × β} {a : α} (h : x.1 = a) : x = (a, x.2) := by rw [← h]

def bcol : FCol := fc 3 1 1 7
theorem witness_ShufflesAndVotesExecuteWhenTheLastMemberArrives :
    (guardAll bcol.gn bcol.gp && maskFieldOk bcol.ms bcol.mask && legalShfl bcol && legalVote { fc 2 0 0 7 with di := 0#1 } false &&
      legalVote { fc 3 0 0 7 with di := 0#1 } true) = true ∧
    (∀ x, x ∈ [(colWord ⟨0x20, 0x00⟩ bcol, [3#7, 1#7].flatMap (regKeys 1)), (colWord ⟨0x20, 0x03⟩ bcol, [3#7, 1#7].flatMap (regKeys 1)),
        (colWord ⟨0x21, 0x00⟩ { fc 2 0 0 7 with di := 0#1 }, []), (colWord ⟨0x21, 0x02⟩ { fc 3 0 0 7 with di := 0#1 }, regKeys 1 3#7)] →
      IssuesWord blive true x.1 x.2 bwh bp) ∧ memberMask bwh 0#1 7#16 = 7#16 ∧ (7#16 ≠ 0#16 ∧ mismatch bwh bp 7#16 = none) ∧
    arrivedLanes bwh bp 7#16 = 7#16 :=
  ⟨by decide +kernel, all_issue (by decide +kernel), by decide +kernel, by decide +kernel, by decide +kernel⟩

/-- A second path of two threads, so that a collective of three members stays open. -/
def twoPaths : Whorl := { bwh with paths := [{ onePath 1#16 with pc := 0x1000#64 }, { onePath 6#16 with pid := 1, pc := 0x1040#64 }], nextPid := 2 }
def tlive : State := liveWith twoPaths
/-- An instance that has been open since time 0. -/
def openWhorl : Whorl :=
  { bwh with paths := [{ onePath 1#16 with st := .coll 7#16 0x1000#64 }, { onePath 6#16 with pid := 1, pc := 0x1040#64 }], nextPid := 2,
             colls := [{ pc := 0x1000#64, mask := 7#16, arrived := 1#16, opened := 0, fullAt := none, op := .shfl .pick bcol }] }
theorem runsFor_live (wh : Whorl) (h : wh.kernel = 1) : RunsFor (liveWith wh) w0 1 := by
  refine ⟨wh, oneKern, oneCtx, rfl, ?_, rfl, rfl, rfl⟩
  rw [h]; rfl
theorem runsFor_coded (wh : Whorl) (word : W64) (h : wh.kernel = 1) : RunsFor (coded (liveWith wh) word) w0 1 := by
  refine ⟨wh, oneKern, oneCtx, rfl, ?_, rfl, rfl, rfl⟩
  rw [h]; rfl

def pickWord : W64 := colWord ⟨0x20, 0x00⟩ bcol
/-- Illegal forms: a reserved type, an integer type of a FALU, a NOP with a field, a WAIT.T into a u register, a predicate 8, a guard of
not p7, a WAIT into a u register, a TILE.MAC of type 12. -/
def illegalWords : List (W64 × List Nat) :=
  [(regWord ⟨0x0A, 0x00⟩ (fr 3 1 2 0 9), []), (regWord ⟨0x10, 0x00⟩ (fr 3 1 2 0 0), []), (regWord ⟨0x00, 0x00⟩ (fr 1 0 0 0 0), []),
   (regWord ⟨0x00, 0x04⟩ (fr 64 64 0 0 0), []), (regWord ⟨0x14, 0x00⟩ (fr 8 0 0 0 0), []), (brWord ⟨0x02, 0⟩ { fb 0 0 with gn := 1#1 }, []),
   (memWord ⟨0x01, 0x00⟩ (fm 64 64 64 2 0), [])]

theorem witness_OpenCollectivesWaitOrFaultAndIllegalFormsFault :
    (IssuesWord tlive true pickWord ([3#7, 1#7].flatMap (regKeys 1)) twoPaths (onePath 1#16) ∧
      mismatch twoPaths (onePath 1#16) 7#16 = none ∧ arrivedLanes twoPaths (onePath 1#16) 7#16 ≠ 7#16 ∧
      mismatch twoPaths (onePath 1#16) 0xF#16 ≠ none ∧ RunsFor (coded tlive pickWord) w0 1) ∧
    (whorlOf (liveWith openWhorl) w0 = some openWhorl ∧ ((openWhorl.colls.find? (fun c => c.mask == 7#16)).map fun o => (o.opened, o.fullAt)) =
        some (0, none) ∧ openWhorl.stopped = false ∧
      kernelRuns (liveWith openWhorl) 1 = true ∧ (liveWith openWhorl).felled = false ∧
      0 + 1000 * odNat (liveWith openWhorl) 0x4020 1 ≤ (liveWith openWhorl).now ∧ RunsFor (liveWith openWhorl) w0 1) ∧
    ((∀ x, x ∈ illegalWords → IssuesWord blive true x.1 x.2 bwh bp) ∧ (∀ x, x ∈ [(tileWord ⟨0x28, 0x00⟩ (ft 12 64 64 0 7), [])] →
        IssuesWord blive false x.1 x.2 bwh bp) ∧ (∀ word, RunsFor (coded blive word) w0 1) ∧ legalInt3 (fr 3 1 2 0 9) = false ∧
      legalFalu (fr 3 1 2 0 0) true false = false ∧ legalBare (fr 1 0 0 0 0) = false ∧ legalWaitT (fr 64 64 0 0 0) = false ∧
      legalPred (fr 8 0 0 0 0) = false ∧ guardOk 1#1 7#3 = false ∧ legalWait (fm 64 64 64 2 0) = false ∧ legalTile .mac (ft 12 64 64 0 7) = false) :=
  ⟨⟨issues_of_check (by decide +kernel), by decide +kernel, by decide +kernel, by decide +kernel, runsFor_coded _ _ rfl⟩,
    ⟨by decide +kernel, by decide +kernel, by decide +kernel, by decide +kernel, by decide +kernel, by decide +kernel, runsFor_live _ rfl⟩,
    all_issue (by decide +kernel), all_issue (by decide +kernel), fun word => runsFor_coded _ word rfl, by decide +kernel⟩

/-- A home line with every sector valid. -/
def cleanLine (s : State) (line : Nat) : Line :=
  { slice := homeSlice s line, way := 0, st := .i, own := 0, pres := 0#12, hsec := 0#4, sec := [.clean, .clean, .clean, .clean], pois := 0#4,
    pin := none, stamp := 0, ovf := false }
def withLine (s : State) (line : Nat) : State := s.setLine line (cleanLine s line)

/-- u0 holds the word's address, u2 the compare value, u3 the deadline. -/
def wwh (cmp dl : W64) : Whorl := { mwh with u := [(0, 0x2040#64), (2, cmp), (3, dl)] }
def wlive (cmp dl : W64) : State := withLine (liveWith (wwh cmp dl)) 8
def fwait : FMem := fm 3 64 66 2 3
def waitWord : W64 := memWord ⟨0x01, 0x00⟩ fwait
def wfetch (cmp dl : W64) : State := fetchState (coded (wlive cmp dl) waitWord) w0 (wwh cmp dl) p1
/-- What holds of the word before its condition is looked at. -/
def wordReady (cmp dl : W64) (slots : Nat) (s2 : State) : Bool :=
  !ownStore 0 0x2040 && (placeAsk s2 (.core 0 0) 0x2040 4).isNone && turnOf s2 (.core 0 0) s2.mem.nextReq 0x2040 && decide (coreReads s2 0 false 0x2040 4 = (0, false)) && decide (watchPlace s2 0x2040 ≠ .poll) &&
  decide (slotsUsed s2 0 = slots) && decide ((wwh cmp dl).uget 2 % 2 ^ 32 = cmp.toNat) && decide ((wwh cmp dl).uget 3 = dl.toNat)
def waitResolve (cmp dl : W64) : Addrs :=
  resolve (wfetch cmp dl) (.core w0.core w0.slot) (whorlCtx (wfetch cmp dl) (wwh cmp dl)) .read 16 (memSize fwait)
    ((lanesOf p1.lanes).map fun l => (l, (wwh cmp dl).uget (regNo fwait.a)))

/-- A second whorl, of whose paths 16 wait. -/
def waitingPath (n : Nat) : Path :=
  { onePath (BitVec.ofNat 16 (2 ^ n)) with
    pid := n, st := .waiting { ne := false, va := 0x2040, pa := 0x2040, size := 4, cmp := 1#64, deadline := BitVec.allOnes 64, acq := false,
                               scope := 0, dest := 3, pc := 0x1000#64, at_ := .slice 0, nextPoll := 0 } }
def sixteenWaiting : Whorl := { oneWhorl p1 with paths := (List.range 16).map waitingPath }
def crowded : State := (wlive 5 0).setCore 0 { coreWith (wwh 5 0xFFFFFFFFFFFFFFFF#64) with slots := [(0, wwh 5 0xFFFFFFFFFFFFFFFF#64), (1, sixteenWaiting)] }

theorem witness_WaitsEndAtOnceOrBegin :
    legalWait fwait = true ∧ IssuesWord (wlive 0 0) true waitWord (waitKeys fwait) (wwh 0 0) p1 ∧ acquireOpen (wfetch 0 0) w0 p1 = false ∧
    (∃ s2, waitResolve 0 0 = .ok [(0, 0x2040, 0x2040)] s2 ∧ wordReady 0 0 0 s2 = true) ∧ waitMet false 0 0 = true ∧
    (∃ s2, waitResolve 5 1000000 = .ok [(0, 0x2040, 0x2040)] s2 ∧ (wordReady 5 1000000 0 s2 && decide (1000000 ≤ s2.now)) = true) ∧
    waitMet false 0 5 = false ∧
    (∃ s2, waitResolve 5 1000001 = .ok [(0, 0x2040, 0x2040)] s2 ∧ (wordReady 5 1000001 0 s2 && decide (s2.now < 1000001)) = true) ∧
    (IssuesWord crowded true waitWord (waitKeys fwait) (wwh 5 0xFFFFFFFFFFFFFFFF#64) p1 ∧
      16 ≤ slotsUsed (fetchState (coded crowded waitWord) w0 (wwh 5 0xFFFFFFFFFFFFFFFF#64) p1) 0) ∧
    (legalWaitT (fr 3 67 0 0 0) = true ∧
      IssuesWord (wlive 0 1000001) true (regWord ⟨0x00, 0x04⟩ (fr 3 67 0 0 0)) (regKeys 1 3#7 ++ [regKey 67#7]) (wwh 0 1000001) p1 ∧
      (wwh 0 0).uget (regNo 67#7) ≤ (wfetch 0 0).now ∧ (wfetch 0 1000001).now < (wwh 0 1000001).uget (regNo 67#7)) :=
  ⟨by decide +kernel, issues_of_check (by decide +kernel), by decide +kernel, ok_of_addrs (by decide +kernel), by decide,
    ok_of_addrs (by decide +kernel), by decide, ok_of_addrs (by decide +kernel), ⟨issues_of_check (by decide +kernel), by decide +kernel⟩,
    by decide +kernel, issues_of_check (by decide +kernel), by decide +kernel, by decide +kernel⟩

/-- A path that waits on a word, or on a time. -/
def waitingAt (i : WaitInfo) : Whorl := { oneWhorl { p1 with st := .waiting i } with v := [] }
def onWord (cmp dl : W64) : WaitInfo := waitOn false 0x2040 0x2040 4 cmp.toNat dl.toNat false 0 3 0x1000#64 (.slice 8)
def onPolled (pa : Nat) (cmp : W64) : WaitInfo := waitOn false 0x5000 pa 4 cmp.toNat 0 false 0 3 0x1000#64 .poll

theorem witness_WaitsEndWithTheirCodeOrPollAgain :
    (let i := onWord 0 0; let s := withLine (liveWith (waitingAt i)) 8
     (waitOf s w0 0 = some (waitingAt i, { p1 with st := .waiting i }, i) ∧ mayResume s w0 (waitingAt i) = true ∧
       (coreReads s 0 i.acq i.pa i.size).2 = false ∧ i.at_ ≠ .timer ∧ i.at_ ≠ .poll ∧ homeAnswers s i.pa = true ∧
       waitMet i.ne (watchRead s i.pa i.size).1 i.cmp.toNat = true) ∧ (i.deadline.toNat ≤ s.now ∧ i.deadline ≠ BitVec.allOnes 64)) ∧
    (let i := onPolled 0x020000000000 0; let s := liveWith (waitingAt i)
     waitOf s w0 0 = some (waitingAt i, { p1 with st := .waiting i }, i) ∧ i.at_ = .poll ∧ i.nextPoll ≤ s.now ∧
       outsideOpen s 0 i.pa = true ∧ ctxFn s (whorlCtx s (waitingAt i)) = some 0 ∧ regionOf i.pa ≠ .peer ∧
       waitMet i.ne (watchRead (hostLearn s [] i.pa 4) i.pa i.size).1 i.cmp.toNat = true ∧
       waitMet i.ne (watchRead (hostLearn s [(0x020000000000, 1)] i.pa 4) i.pa i.size).1 i.cmp.toNat = false) :=
  ⟨by decide +kernel, by decide +kernel⟩

/-- u1 and u2 hold operand addresses in the core's own store. -/
def tilewh (q : List TileOp) : Whorl := { oneWhorl bp with u := [(1, 0x3000#64), (2, 0x3040#64)], tileQ := q }
def tilelive (q : List TileOp) : State := liveWith (tilewh q)
def fmac : FTile := ft 0 65 66 0 7
def fzero : FTile := ft 0 0 0 0 0
def qop (k : TileKind) (f : FTile) : TileOp := tileEntry live (tilewh []) k f 0x1000#64 7#16
def macWord : W64 := tileWord ⟨0x28, 0x00⟩ fmac
def zeroWord : W64 := tileWord ⟨0x2C, 0x00⟩ fzero
def tilefetch (q : List TileOp) : State := fetchState (coded (tilelive q) macWord) w0 (tilewh q) bp

theorem witness_TileInstructionsEnterTheTileQueue :
    (guardAll fmac.gn fmac.gp && maskFieldOk fmac.ms fmac.mask && legalTile .mac fmac && legalTile .zero fzero && guardOk fzero.gn fzero.gp) = true ∧
    IssuesWord (tilelive []) false macWord ([fmac.a, fmac.b, fmac.c].flatMap fun r => if isU r then regKeys 1 r else []) (tilewh []) bp ∧
    IssuesWord (tilelive []) false zeroWord [] (tilewh []) bp ∧ acquireOpen (tilefetch []) w0 bp = false ∧
    memberMask (tilewh []) fmac.ms fmac.mask = 7#16 ∧ (7#16 ≠ 0#16 ∧ mismatch (tilewh []) bp 7#16 = none) ∧ arrivedLanes (tilewh []) bp 7#16 = 7#16 ∧
    (∀ a, (a ∈ [entryRanges .mac fmac (qop .mac fmac).a.toNat (qop .mac fmac).b.toNat (qop .mac fmac).c.toNat]) →
      rangesNeed (tilefetch []) (whorlCtx (tilefetch []) (tilewh [])) a = none) ∧
    rangeFault (tilefetch []) (whorlCtx (tilefetch []) (tilewh [])) 0 7#16
      (entryRanges .mac fmac (qop .mac fmac).a.toNat (qop .mac fmac).b.toNat (qop .mac fmac).c.toNat) = none ∧
    (IssuesWord (tilelive [qop .mac fmac, qop .zero fzero]) false macWord
        ([fmac.a, fmac.b, fmac.c].flatMap fun r => if isU r then regKeys 1 r else []) (tilewh [qop .mac fmac, qop .zero fzero]) bp ∧
      2 ≤ (tilewh [qop .mac fmac, qop .zero fzero]).tileQ.length) ∧
    ((tilewh []).guard fzero.gn fzero.gp (lowLane bp) = true ∧ (tilewh []).guard 0#1 1#3 (lowLane bp) = false) :=
  ⟨by decide +kernel, issues_of_check (by decide +kernel), issues_of_check (by decide +kernel), by decide +kernel, by decide +kernel,
    by decide +kernel, by decide +kernel, by decide +kernel, by decide +kernel, ⟨issues_of_check (by decide +kernel), by decide +kernel⟩, by decide +kernel⟩

def readOk (x : TileRead) : Option (List Byte × State) :=
  match x with
  | .ok b s => some (b, s)
  | _ => none
theorem ok_of_read {x : TileRead} {P : List Byte → State → Bool}
    (h : (match readOk x with
      | some (b, t) => P b t
      | none => false) = true) : ∃ b s2, x = .ok b s2 ∧ P b s2 = true := by
  cases x with
  | ok b t => exact ⟨b, t, rfl, h⟩
  | outside t => simp [readOk] at h
  | poisoned t => simp [readOk] at h
/-- A request of another agent for this core's store. -/
def foreignRead : Req :=
  { id := 1, agent := .core 16 0, kind := .load false,
    lanes := [{ lane := 0, va := 0x3000, pa := 0x11000000000, data := [0, 0, 0, 0], cmp := [], got := none, pois := false, sent := true,
                done := false, err := false }],
    size := 4, dest := 3#7, pc := 0x1000#64, acq := false, rel := false, scope := 0, cls := 0, region := .store, ctx := 1, once := false,
    phase := .sent, merged := none, age := 0, back := false, fills := [], noFill := true }
def withReq (s : State) (r : Req) : State := s.setMem { s.mem with reqs := [r], nextReq := r.id + 1 }
def tileS0 (q : TileOp) : State :=
  count (count ((tilelive [q]).setCore 0 { coreWith (tilewh [q]) with tileRr := 0 }) (coreBank 0 0) 0 1) (coreBank 0 0) 6 1
def fst : FTile := ft 0 65 0 0 7
def ffold : FTile := ft 0 65 66 65 7
def startOk (x : TileDone) : Option (State × Whorl) :=
  match x with
  | .ok s wh => some (s, wh)
  | _ => none
theorem ok_of_start {x : TileDone} {P : State → Whorl → Bool}
    (h : (match startOk x with
      | some (t, wh) => P t wh
      | none => false) = true) : ∃ s2 wh1, x = .ok s2 wh1 ∧ P s2 wh1 = true := by
  cases x with
  | ok t wh => exact ⟨t, wh, rfl, h⟩
  | fault i t => simp [startOk] at h

theorem witness_TheTileSlotCarriesOutQueueHeads :
    (∀ k, k ∈ [qop .mac fmac, qop .zero fzero, qop .st fst, qop .fold ffold] → let s := tilelive [k]
      coreRuns s 0 = true ∧ ((s.core 0).yield && remoteWaits s 0) = false ∧ nextTileSlot s 0 = some 0 ∧
      whorlOf s ⟨0, 0⟩ = some (tilewh [k]) ∧ (tilewh [k]).tileQ = k :: [] ∧ (tilewh [k]).paths ≠ [] ∧
      rangesNeed s (whorlCtx s (tilewh [k])) (tileRanges s (whorlCtx s (tilewh [k])) 0 k) = none ∧ s.mem.reqs = []) ∧
    (tileFits (tilewh []) fmac.ty.toNat fmac.acc.toNat = true ∧
      (∃ a s2, tileRead (tileS0 (qop .mac fmac)) (whorlCtx (tileS0 (qop .mac fmac)) (tilewh [])) 0 0x3000 (tileSize fmac.ty.toNat) = .ok a s2 ∧
        (match readOk (tileRead s2 (whorlCtx (tileS0 (qop .mac fmac)) (tilewh [])) 0 0x3040 (tileSize fmac.ty.toNat)) with
          | some (b, _) => b.length == 32
          | none => false) = true)) ∧
    (fst.rnd ≠ 2#2 ∧ fst.ty ≠ 12#4 ∧ (qop .st fst).a.toNat % 32 = 0 ∧ Memory.wf (tileS0 (qop .st fst)).mem.store = true ∧
      (let x := tilePlaces (tileS0 (qop .st fst)) 1 0 .write 0x3000 32; x.1 = some [(0x11000000000, 32)] ∧ x.2.1 = false)) ∧
    (∃ s2 wh1, startTile (tileS0 (qop .fold ffold)) ⟨0, 0⟩ (tilewh [qop .fold ffold]) (qop .fold ffold) = .ok s2 wh1 ∧ (s2.mem.reqs.isEmpty) = true) ∧
    (∃ s2 wh1, startTile (tileS0 (qop .zero fzero)) ⟨0, 0⟩ (tilewh [qop .zero fzero]) (qop .zero fzero) = .ok s2 wh1 ∧
      (decide (wh1.paths = (tilewh []).paths) && s2.mem.reqs.isEmpty) = true) ∧
    remoteWaits (withReq live foreignRead) 0 = true ∧
    (coreUsed live 0 = true ∧ (live.dom (coreDomain live 0)).st = .on ∧ nextTileSlot live 0 = none ∧ fillerAllowed live (coreDomain live 0) = true) :=
  ⟨by decide +kernel, ⟨by decide +kernel, ok_of_read (by decide +kernel)⟩, by decide +kernel, ok_of_start (by decide +kernel),
    ok_of_start (by decide +kernel), by decide +kernel, by decide +kernel⟩

def oneWord : CWord :=
  { bytes := (List.range 64).map (BitVec.ofNat 8), nbytes := 64, first := true, last := true, trunc := false, pois := false, pkt := 1 }
/-- u1 names chute 255, u2 an address in the core's own store, u3 is free. -/
def cwh : Whorl := { oneWhorl bp with u := [(1, 255#64), (2, 0x3040#64)] }
def clive (ws : List CWord) : State :=
  let s := (liveWith cwh).setChute 255 { Chute.empty with words := ws }
  { s with dict := { s.dict with od := [(odKey 0x6010 3, leBytes 4 64), (odKey (chuteOd 255) 1, [0])] } }
def rdWord : W64 := regWord ⟨0x30, 0x00⟩ (fr 3 65 0 67 0)
def rdsWord : W64 := regWord ⟨0x30, 0x01⟩ (fr 67 65 66 0 0)
def lvlWord : W64 := regWord ⟨0x30, 0x02⟩ (fr 67 65 0 0 0)
def cfetch (ws : List CWord) : State := fetchState (coded (clive ws) rdWord) w0 cwh bp

theorem witness_ChuteReadsTakeTheOldestWord :
    (usedOnly (fr 3 65 0 67 0) { UseReg.none with d := true, a := true, c := true } && vOk (fr 3 65 0 67 0).d && uOk (fr 3 65 0 67 0).a &&
      uOk (fr 3 65 0 67 0).c && usedOnly (fr 67 65 66 0 0) { UseReg.none with d := true, a := true, b := true } &&
      usedOnly (fr 67 65 0 0 0) { UseReg.none with d := true, a := true }) = true ∧
    (∀ x, x ∈ [(rdWord, regKeys 1 3#7 ++ [regKey 65#7, regKey 67#7]), (rdsWord, [regKey 67#7, regKey 65#7, regKey 66#7]),
        (lvlWord, [regKey 67#7, regKey 65#7])] → IssuesWord (clive [oneWord]) true x.1 x.2 cwh bp) ∧ acquireOpen (cfetch [oneWord]) w0 bp = false ∧
    (cwh.uget (regNo 65#7) = 255 ∧ chuteNamed (cfetch [oneWord]) (whorlCtx (cfetch [oneWord]) cwh) 255 = some 255 ∧
      ((cfetch [oneWord]).chute 255).words = [oneWord] ∧ ((cfetch [oneWord]).chute 255).flush = [] ∧ ((cfetch []).chute 255).words = [] ∧
      chuteNamed (cfetch [oneWord]) (whorlCtx (cfetch [oneWord]) cwh) 256 = none ∧ oneWord.bytes.length = 64 ∧
      Memory.wf (cfetch [oneWord]).mem.store = true) ∧
    (∃ s2, resolve (cfetch [oneWord]) (.core 0 0) (whorlCtx (cfetch [oneWord]) cwh) .write 1 64 [(lowLane bp, 0x3040)] =
      .ok [(0, 0x3040, 0x11000000040)] s2 ∧
      (ownStore 0 0x11000000040 && !tileTouches s2 1 0 cwh 0x11000000040 64 && !ownHeld s2 0 0x11000000040 64) = true) :=
  ⟨by decide +kernel, all_issue (by decide +kernel), by decide +kernel, by decide +kernel,
    ok_of_addrs (by decide +kernel)⟩

/-- u1 holds the address of a whole line, u2 its length, u4 an address in the core's store. -/
def kwh (len : W64) : Whorl := { oneWhorl bp with u := [(1, 0x2000#64), (2, len), (4, 0x3000#64)] }
def klive (len : W64) (pins : Nat) : State :=
  let s := withLine (liveWith (kwh len)) 8
  { s with dict := { s.dict with od := [(odKey 0x6010 3, leBytes 4 64), (odKey 0x6010 5, leBytes 4 pins)] } }
def kerfWord : W64 := regWord ⟨0x31, 0x00⟩ (fr 0 65 66 0 0)
def pinWord (fn : BitVec 7) : W64 := regWord ⟨0x32, fn⟩ (fr 67 65 0 0 0)
def kfetch (len : W64) (pins : Nat) : State := fetchState (coded (klive len pins) kerfWord) w0 (kwh len) bp
def kwrite : Xlat × State := translate (kfetch 1024 0) 1 .write 0x2000 1024
def kask (va pins : Nat) : Xlat × State := translateAsk (kfetch 1024 pins) (.core 0 0) 1 .read va 1

/-- Twelve lines pinned in line 8's set of its slice. -/
def fullSet : State :=
  let s := klive 1024 1
  { s with mem := { s.mem with lines := (8, cleanLine s 8) :: (List.range 12).map fun i =>
      (2 ^ 30 + i, { cleanLine s 8 with way := i, pin := some 0 }) } }

theorem witness_KerfDropsLinesAndPinAnswersItsStatus :
    (usedOnly (fr 0 65 66 0 0) { UseReg.none with a := true, b := true } && usedOnly (fr 67 65 0 0 0) { UseReg.none with d := true, a := true }) = true ∧
    IssuesWord (klive 0 0) true kerfWord [regKey 65#7, regKey 66#7] (kwh 0) bp ∧ (kwh 0).uget (regNo 66#7) = 0 ∧
    IssuesWord (klive 1024 0) true kerfWord [regKey 65#7, regKey 66#7] (kwh 1024) bp ∧
    (kwrite = (.ok 0x2000, kwrite.2) ∧ rangeBusy (kfetch 1024 0) w0 0x2000 1024 = false ∧ pagesNeed (kfetch 1024 0) 1 0x2000 1024 = none ∧ regionOf 0x2000 = .dram ∧
      kwrite.2.line? 8 = some (cleanLine live 8) ∧ (cleanLine live 8).extOwned = false ∧ (cleanLine live 8).pres &&& 0xF00#12 = 0#12 ∧ missOf kwrite.2 8 = none ∧ Memory.wf kwrite.2.mem.llc = true) ∧
    (∀ x, x ∈ [(pinWord 0, [regKey 67#7, regKey 65#7]), (pinWord 1, [regKey 67#7, regKey 65#7])] → IssuesWord (klive 1024 1) true x.1 x.2 (kwh 1024) bp) ∧
    (kask 0x2000 1 = (.ok 0x2000, (kask 0x2000 1).2) ∧ ctxFn (kask 0x2000 1).2 (whorlCtx (kask 0x2000 1).2 (kwh 1024)) = some 0 ∧
      odNat (kask 0x2000 1).2 0x6010 5 ≠ 0 ∧ (kask 0x2000 1).2.line? 8 = some (cleanLine live 8) ∧
      pinnedIn (kask 0x2000 1).2 (homeSlice (kask 0x2000 1).2 8) (lineSet 8) < 12) ∧
    (kask 0x2000 0 = (.ok 0x2000, (kask 0x2000 0).2) ∧ odNat (kask 0x2000 0).2 0x6010 5 = 0) ∧
    (kask 0x3000 1 = (.ok 0x11000000000, (kask 0x3000 1).2) ∧ regionOf 0x11000000000 ≠ .dram) :=
  ⟨by decide +kernel, issues_of_check (by decide +kernel), by decide +kernel, issues_of_check (by decide +kernel),
    ⟨pair_of (by decide +kernel), by decide +kernel⟩, all_issue (by decide +kernel), ⟨pair_of (by decide +kernel), by decide +kernel⟩,
    ⟨pair_of (by decide +kernel), by decide +kernel⟩, pair_of (by decide +kernel), by decide⟩

theorem test_shfl_rot_takes_the_next_lane :
    (whorlAfter (colWord ⟨0x20, 0x01⟩ bcol) (.shflRot w0 bcol) (liveWith { bwh with v := [(1, 10#32), (65, 11#32), (129, 12#32)] })).vget 1 3 = 12 := by decide +kernel
theorem test_shfl_source_outside_the_mask_is_the_own_value :
    (whorlAfter (colWord ⟨0x20, 0x01⟩ bcol) (.shflRot w0 bcol) (liveWith { bwh with v := [(1, 10#32), (65, 11#32), (129, 12#32)] })).vget 2 3 = 12 := by decide +kernel
theorem test_vote_ballot : (whorlAfter (colWord ⟨0x21, 0x02⟩ { fc 3 0 0 7 with di := 0#1, ps := 7#3 }) (.voteBallot w0 { fc 3 0 0 7 with di := 0#1, ps := 7#3 }) blive).vget 2 3 = 7 := by decide +kernel
theorem test_wait_met_gives_code_0 : (whorlAfter waitWord (.waitEq w0 fwait) (wlive 0 0)).vget 0 3 = 0 := by decide +kernel
theorem test_tile_mac_multiplies :
    ((whorlOf (next (.tileStart 0) (let s := tilelive [qop .mac fmac]; s.setMem { s.mem with
      store := [(0x11000000000, 0x40#8), (0x11000000001, 0x40#8), (0x11000000040, 0xA0#8), (0x11000000041, 0x40#8)] })) w0).map fun wh => wh.cell 0 0) = some 0x41700000 := by decide +kernel
theorem test_chute_tag : chuteTag oneWord 0 = 2 ^ 63 + 2 ^ 62 + 2 ^ 61 + 2 ^ 32 + 64 := by decide
theorem test_chute_lvl_counts_words : (whorlAfter lvlWord (.chuteLvl w0 (fr 67 65 0 0 0)) (clive [oneWord])).uget 3 = 1 := by decide +kernel
theorem test_pin_status_3_without_a_budget : (whorlAfter (pinWord 0) (.pin w0 (fr 67 65 0 0 0)) (klive 1024 0)).uget 3 = 3 := by decide +kernel

/-! ## Requests at their homes, core stores, and replies -/

def laneTo (pa : Nat) (data : List Byte) : LaneAcc :=
  { lane := 0, va := pa, pa := pa, data := data, cmp := [], got := none, pois := false, sent := false, done := false, err := false }
def reqOf (kind : ReqKind) (l : LaneAcc) : Req :=
  { id := 1, agent := .core 0 0, kind := kind, lanes := [l], size := 4, dest := 3#7, pc := 0x1000#64, acq := false, rel := false, scope := 0,
    cls := 0, region := .dram, ctx := 1, once := false, phase := .sent, merged := none, age := 0, back := false, fills := [], noFill := true }
def homed (k : ReqKind) : State := withReq (withLine live 8) (reqOf k (laneTo 0x23FC [1, 2, 3, 4]))

theorem witness_HomesServeReadsWritesAndHeldRequests :
    (∀ k, k ∈ [.load false, .read, .dread, ReqKind.store] →
      LeavesNow (homed k) 1 (reqOf k (laneTo 0x23FC [1, 2, 3, 4])) (laneTo 0x23FC [1, 2, 3, 4])) ∧
    HomeReady (homed .store) (0x23FC / 1024) (cleanLine live 8) ∧
    (Memory.wf (homed .store).mem.dram && Memory.wf (homed .store).mem.llc) = true ∧
    (∀ near, LeavesNow (homed (.pref near)) 1 (reqOf (.pref near) (laneTo 0x23FC [1, 2, 3, 4])) (laneTo 0x23FC [1, 2, 3, 4])) ∧
    mirrorOf (homed .store) 8 = none ∧
    (let r : HomeReq := { kind := .rd 0 false, agent := .core 0 0, req := 1, seq := 1, tag := 0, pa := 0x2000, len := 4, op := 0, data := [], cmp := [],
                          pois := false, cls := 0, looked := true }
     let m : MissReg := { slice := 8, line := 8, need := 1#4, snoops := [(8, 0)], inval := false, kept := false, evict := false,
                          waiters := List.replicate 31 r, got := 0#4, bad := 0#4, snooped := true, since := 0, again := false }
     let s := let s := withLine live 8; s.setMem { s.mem with held := [r], miss := [m] }
     leaveCarved s 8 = s ∧
       s.mem.held.find? (fun r => reqSlice s r == 8 && lineAnswers s (r.pa / 1024) != .asleep) = some r ∧ missOf s (r.pa / 1024) = some m ∧
       m.waiters.length < 32 ∧ lineAnswers s (r.pa / 1024) = .up ∧ turnOf s r.agent r.seq r.pa = true ∧ m.need ≠ 0#4 ∧
       slicesWork s (sliceBay m.slice) = true ∧ bayUp s (chanBay (servingSlot s 8).1) = true ∧
       s.line? 8 = some (cleanLine live 8) ∧ m.snoops ≠ []) :=
  ⟨by unfold LeavesNow; decide +kernel, by unfold HomeReady; decide +kernel, by decide +kernel,
    by unfold LeavesNow; decide +kernel, by decide +kernel, by decide +kernel⟩

def storeReq (k : ReqKind) (gate : DomSt) : State :=
  let s := withReq live (reqOf k (laneTo 0x11000000000 [1, 2, 3, 4]))
  s.setDom (coreDomain s 0) { onDom with st := gate }
theorem witness_StoresAreReachedAndGranulesZeroed :
    (∀ k g, (k, g) ∈ [(ReqKind.store, DomSt.gated), (.store, .on), (.load false, .on)] → let s := storeReq k g
      findReq s 1 = some (reqOf k (laneTo 0x11000000000 [1, 2, 3, 4])) ∧ regionOf 0x11000000000 = .store ∧ storeCore 0x11000000000 = 0 ∧
      inTurn s (reqOf k (laneTo 0x11000000000 [1, 2, 3, 4])) 0x11000000000 = true ∧ placeAnswers s 0x11000000000 = .up ∧
      granuleOpen s (reqOf k (laneTo 0x11000000000 [1, 2, 3, 4])) 0x11000000000 = true ∧ (s.dom (coreDomain s 0)).st = g ∧ Memory.wf s.mem.store = true) ∧
    ((live.setCore 0 { coreWith wh0 with zeroing := [31] }).core 0).zeroing.contains 31 = true :=
  ⟨by
    intro k g h
    simp only [List.mem_cons, Prod.mk.injEq, List.not_mem_nil, or_false] at h
    obtain ⟨rfl, rfl⟩ | ⟨rfl, rfl⟩ | ⟨rfl, rfl⟩ := h <;> decide +kernel, by decide +kernel⟩

def served (k : ReqKind) (ph : ReqPhase) : Req :=
  { reqOf k { laneTo 0x2000 [1, 2, 3, 4] with sent := true, done := true, got := some [1, 2, 3, 4] } with phase := ph }
theorem witness_RepliesAcknowledgementsAndGoEndRequests :
    (∀ k, k ∈ [.load true, ReqKind.store] → let s := withReq live (served k .served)
      findReq s 1 = some (served k .served) ∧ (∀ r, r ∈ s.mem.reqs → r.phase ≠ .blocked) ∧ whorlOf s ⟨0, 0⟩ = some wh0) ∧
    (let r := reqOf .store (laneTo 0x020000001000 [1, 2, 3, 4]); let s := withReq live r
     findReq s 1 = some r ∧ regionOf 0x020000001000 = .host ∧ inTurn s r 0x020000001000 = true ∧ outsideOpen s (reqFn s r) hostBase = true ∧ Memory.wf s.mem.host = true) :=
  ⟨by decide +kernel, by decide +kernel⟩

def sharedPage : State :=
  let s := withLine (odPut live 0x5060 1 [0, 0, 0, 0x10]) 8
  s.setMem { s.mem with bias := [(0, 2)] }
theorem witness_HostRequestsActOnPagesSharedWithTheirPort :
    (cxlWorks live 1 = true ∧ usableSize live ≤ (0xC000000000#48).toNat / 64 * 64 ∧ pageBias live 0 ≠ 2 ∧ recallData live 8 = false) ∧
    (cxlWorks sharedPage 1 = true ∧ (0x2047#48).toNat / 64 * 64 = 0x2040 ∧ 0x2040 < usableSize sharedPage ∧ pageBias sharedPage (0x2040 / 65536) = 1 + 1 ∧
      pageClosing sharedPage 0 = false ∧ inBiasTable sharedPage 0x2040 64 = false ∧ mirrorOf sharedPage 8 = none ∧
      writeRefused sharedPage 0x2040 64 = false ∧ turnOf sharedPage (.cxl 1) sharedPage.mem.nextReq 0x2040 = true ∧ HomeReady sharedPage (0x2040 / 1024) (cleanLine live 8) ∧
      (Memory.wf sharedPage.mem.dram && Memory.wf sharedPage.mem.llc) = true) :=
  ⟨by decide +kernel, by unfold HomeReady; decide +kernel⟩

def snooping (inval : Bool) (snoops : List (Nat × Nat)) : State :=
  let m : MissReg := { slice := 8, line := 8, need := 0#4, snoops := snoops, inval := inval, kept := false, evict := false, waiters := [],
                       got := 0#4, bad := 0#4, snooped := true, since := 0, again := false }
  let s := withLine live 8
  s.setMem { s.mem with miss := [m] }
def hline (dirty : Bool) : HostLine := { addr := hostBase + 0x1000, port := 1, own := true, dirty := dirty, bytes := List.replicate 64 7 }
theorem witness_HostAnswersAndSnoopsActOnOneLine :
    (∀ inval snoops, (inval, snoops) ∈ [(true, [(8, 3)]), (false, [(8, 3), (8, 0)])] → let s := snooping inval snoops
      (hostSnoop s 8 3).map (fun m => (m.inval, m.need, m.waiters, m.evict)) = some (inval, 0#4, [], false) ∧ portOpen s 1 = true ∧
      s.line? 8 = some (cleanLine live 8) ∧ 0 + 1000 * odNat s 0x5060 5 ≤ s.now ∧ mirrorOf s 8 = none) ∧
    (∀ d, (live.setMem { live.mem with hostLines := [hline d] }).mem.hostLines.find? (fun h => h.addr == hostBase + 0x103F / 64 * 64 && h.port == 1) =
      some (hline d)) :=
  ⟨by
    intro i sn h
    simp only [List.mem_cons, Prod.mk.injEq, List.not_mem_nil, or_false] at h
    obtain ⟨rfl, rfl⟩ | ⟨rfl, rfl⟩ := h <;> decide +kernel, by decide +kernel⟩

/-- Sharing is on; page 3 is shared with port 1. -/
def flipState : State :=
  let s := odPut live 0x5060 1 [0, 0, 0, 0x10]
  s.setMem { s.mem with bias := [(3, 2)] }
def flipped : State := flipState.setFn 0 { flipState.fn 0 with flips := [{ page := 3, tag := 9#8, irq := false, result := 0, toShared := 0 }] }
theorem witness_BiasFlipsChangePagesAndLeaveRecords :
    (flipRefusal flipState 0 0 3 1 false = some 2 ∧ flipRefusal flipState 0 1 3 2 false = some 4 ∧
      (bits (0x30901#64).toNat 47 16 = 3 ∧ bits (0x30901#64).toNat 15 8 = 9 ∧ (0x30901#64).toNat % 4 = 1 ∧ (0x30901#64).toNat.testBit 2 = false) ∧
      (flipState.fn 0).biasQ.length < 32) ∧
    (flipRefusal flipState 0 0 4 1 false = none ∧ pageBias flipState 4 ≠ 1) ∧ (flipRefusal flipState 0 1 3 0 false = none ∧ pageBias flipState 3 ≠ 0) ∧
    ((flipped.fn 0).closing = [] ∧ ((flipped.fn 0).flips.find? (fun l => l.toShared != 0 || pageFree flipped l.page)).isSome = true) ∧
    ((live.fn 0).biasQ = [] ∧ ((flipped.setFn 0 { flipped.fn 0 with biasQ := [5#64] }).fn 0).biasQ = 5#64 :: []) :=
  ⟨by decide +kernel, by decide +kernel, by decide +kernel, by decide +kernel, by decide +kernel⟩

def moving : State :=
  let s := odPut live 0x5040 3 [1]
  s.setMem { s.mem with mapouts := [{ before := [], lost := [(nominalSlot live 0).1], oldLines := 2, newLines := 1, moved := [], done := false }] }
/-- Range 0 mirrors 4 KiB from 8 KiB on, and is not copied yet. -/
def mirroring : State := odPut live 0x5200 0 (leBytes 32 (6 + 0x2000 * 2 ^ 64 + 0x1000 * 2 ^ 128 + 0x4000 * 2 ^ 192))
theorem witness_DramUpkeepActsAsItsRulesSay :
    (live.mem.mappedOut.contains 1023 = false ∧ bayUp live (chanBay 1023) = true) ∧
    (portWorks live .f = true ∧ portWorks live .h = true ∧ romOnly live = false ∧ (1023#16).toNat ≤ 1023 ∧ 1023 < (1024#16).toNat) ∧
    (unmoved moving 0 = true ∧ odNat moving 0x5040 3 = 1 ∧ moving.line? 0 = none ∧ unmoved moving 1 = false) ∧
    (rangeSize (rangeRec mirroring 0) ≠ 0 ∧ (rangeRec mirroring 0).testBit 1 = true ∧ (rangeRec mirroring 0).testBit 2 = true ∧
      (rangeRec mirroring 0).testBit 3 = false ∧ (rangeRec mirroring 0).testBit 32 = false ∧
      ∀ l, l ∈ List.range' 8 4 → mirrorOf mirroring l = none) ∧
    (odNat (odPut live 0x5070 1 [1]) 0x5070 1 ≠ 0 ∧ bayUp live (7 / 2) = true ∧
      fgetD (odPut live 0x5070 1 [1]).mem.passAt 7 0 + 1000000 * odNat (odPut live 0x5070 1 [1]) 0x5070 1 ≤ (odPut live 0x5070 1 [1]).now) :=
  ⟨by decide +kernel, by decide +kernel, by decide +kernel, by decide +kernel, by decide +kernel⟩

theorem test_a_read_serves_the_homes_bytes :
    (findReq (next (.rd 1) (let s := homed (.load false); s.setMem { s.mem with dram := [(0x23FC, 9), (0x23FF, 8)] })) 1).map
      (fun r => r.lanes.map (·.got)) = some [some [9, 0, 0, 8]] := by decide +kernel
theorem test_go_sends_the_bytes :
    (next (.go 1) (withReq live (reqOf .store (laneTo 0x020000001000 [1, 2, 3, 4])))).mem.host =
      [(0x020000001000, 1), (0x020000001001, 2), (0x020000001002, 3), (0x020000001003, 4)] := by decide +kernel
theorem test_a_host_read_of_an_unshared_page_is_poison :
    (next (.memrd 1 .s 0x2047#48 5) live).out.head? = some (.memData 1 5 (List.replicate 64 0#8) true) := by decide +kernel

/-! ## ADMIN, queues, commands, placement -/

def recOfBits (n : Nat) : Rec := { bits := BitVec.ofNat 512 n, bad := 0, last := true }
def execOfRec (n : Nat) (phase : ExecPhase) : Exec :=
  { rec_ := recOfBits n, seq := 0, typ := n % 16, phase := phase, status := 0, fault := 0, aux := 0, progress := 0, began := 0#64, metTime := 0#64,
    deadline := 0, energy := 0, repl := 0, kernel := 0, launch := 0, writes := [] }
/-- Queue 0 executes a record; function 0 holds grove 0 alone. -/
def qRunning (n : Nat) (job : Option Job) : Queue := { oneQueue with exec := some (execOfRec n .running), job := job }
def qLive (x : Queue) : State :=
  let s := withLine live 8
  { s with queues := [(0, x)], fns := [(0, { Fn.blank with groves := [0], busMaster := [true, true] })] }
theorem takes_of_check {s : State} {q typ : Nat} {ok : Rec → Bool} {e : Exec} {x : Queue} (h1 : execOf s (.queue q) = some e)
    (h2 : (framerRuns s && (match queueOf s (.queue q) with
      | some x => (match fget s.ctxs x.ctx with
        | some c => !c.stopping
        | none => false)
      | none => false) && e.phase != .finished && (recordOk e.rec_ false && (recTyp e.rec_) == typ && ok e.rec_)) = true)
    (h3 : fget s.queues q = some x) (h4 : e.status = 0) : Takes s q typ ok e s x := by
  refine ⟨?_, h3, h4⟩
  unfold takeExec
  rw [h1]
  dsimp only
  exact if_pos h2
/-- A record that queue 0 of `qLive` takes. -/
def takesB (n typ : Nat) (ok : Rec → Bool) (s : State) : Bool :=
  framerRuns s && (match queueOf s (.queue 0) with
    | some x => (match fget s.ctxs x.ctx with
      | some c => !c.stopping
      | none => false)
    | none => false) && (execOfRec n .running).phase != .finished &&
  (recordOk (recOfBits n) false && (recTyp (recOfBits n)) == typ && ok (recOfBits n))
theorem takes_live {n typ : Nat} {job : Option Job} {ok : Rec → Bool} {s : State} (hq : fget s.queues 0 = some (qRunning n job))
    (h : takesB n typ ok s = true) : Takes s 0 typ ok (execOfRec n .running) s (qRunning n job) :=
  takes_of_check (by simp only [execOf, hq]; rfl) h hq rfl

def bitsOf : DescRead → Option (Nat × State)
  | .bits n s => some (n, s)
  | _ => none
theorem bits_of_check {x : DescRead} {n : Nat} {P : State → Bool}
    (h : (match bitsOf x with
      | some (m, t) => decide (m = n) && P t
      | none => false) = true) : ∃ s1, x = .bits n s1 ∧ P s1 = true := by
  cases x with
  | bits m t =>
    simp only [bitsOf, Bool.and_eq_true, decide_eq_true_eq] at h
    exact ⟨t, by rw [h.1], h.2⟩
  | bad t => simp [bitsOf] at h
  | wait t => simp [bitsOf] at h
def atOf : DmaDest → Option (Nat × State)
  | .at_ pa s => some (pa, s)
  | _ => none
theorem at_of_check {x : DmaDest} {pa : Nat} {P : State → Bool}
    (h : (match atOf x with
      | some (m, t) => decide (m = pa) && P t
      | none => false) = true) : ∃ s1, x = .at_ pa s1 ∧ P s1 = true := by
  cases x with
  | at_ m t =>
    simp only [atOf, Bool.and_eq_true, decide_eq_true_eq] at h
    exact ⟨t, by rw [h.1], h.2⟩
  | lost t => simp [atOf] at h
  | refused t => simp [atOf] at h
  | wait t => simp [atOf] at h
def dataOf : VRead → Option (List Byte × Bool × Nat × State)
  | .data b p bad s => some (b, p, bad, s)
  | _ => none
theorem data_of_check {x : VRead} {P : List Byte → State → Bool}
    (h : (match dataOf x with
      | some (b, p, bad, t) => !p && bad == 0 && P b t
      | none => false) = true) : ∃ b s1, x = .data b false 0 s1 ∧ P b s1 = true := by
  cases x with
  | data b p bad t =>
    simp only [dataOf, Bool.and_eq_true, Bool.not_eq_true', beq_iff_eq] at h
    exact ⟨b, t, by rw [h.1.1, h.1.2], h.2⟩
  | refused t => simp [dataOf] at h
  | wait t => simp [dataOf] at h

/-- A descriptor of zeros with the smallest rings: RLOG and CLOG 6. -/
def qDesc : Nat := 6 * 2 ^ 287 + 6 * 2 ^ 282 + 1 * 2 ^ 304
/-- Host memory that holds a number at its first address. -/
def hostCells (n len : Nat) : List Host.Cell := (List.range len).map fun i => (hostBase + i, BitVec.ofNat 8 (n / 256 ^ i))
def budget (s : State) (sub n : Nat) : State := odPut s 0x6010 sub (leBytes 4 n)
def adminLive : State := budget (budget (budget (live.setFn 0 { live.fn 0 with adminDone := true }) 14 8) 4 8) 15 1
def withQueue (x : Queue) : State := { adminLive with queues := [(0, x)] }

theorem witness_AdminOperationsActOnContextsAndQueues :
    girtRuns adminLive = true ∧
    (girtRuns (live.setFn 0 { live.fn 0 with adminDone := false }) = true ∧ adminBusy (live.setFn 0 { live.fn 0 with adminDone := false }) 0 = false) ∧
    (adminLive.mod.op = .service ∧ (∃ s1, readDesc adminLive 0 (64 * (0x800000000#42).toNat) [] = .bits 0 s1 ∧
      (decide (lowestFree s1.ctxs 4096 = some 0) && decide ((s1.ctxs.filter fun e => e.2.f == 0).length < odNat s1 (0x6010 + 0) 14)) = true) ∧
      ctxDescOk 0 = true) ∧
    (∃ s1, readDesc adminLive 0 (64 * (0x800000000#42).toNat) (hostCells qDesc 64) = .bits qDesc s1 ∧
      (queueDescOk s1 0 qDesc && ownCtx s1 0 (bits qDesc 319 304) && decide (lowestFree s1.queues 4096 = some 1) &&
        decide ((s1.queues.filter fun e => e.2.f == 0).length < odNat s1 (0x6010 + 0) 4)) = true) ∧
    (ownCtx adminLive 0 (1#12).toNat = true ∧ ownQueue adminLive 0 (1#12).toNat = false ∧ ownQueue adminLive 0 (0#12).toNat = true ∧
      fget (withQueue oneQueue).queues (0#12).toNat = some oneQueue ∧ oneQueue.busy = false ∧ oneQueue.st = .ready ∧
      (qRunning 4 none).busy = true ∧ ({ oneQueue with st := .stalled } : Queue).shadow = [] ∧ oneQueue.ahead = []) :=
  ⟨by decide +kernel, by decide +kernel, ⟨by decide +kernel, bits_of_check (by decide +kernel), by decide +kernel⟩,
    bits_of_check (by decide +kernel), by decide +kernel⟩

/-- A graph of one node, a FILL, whose record lies at 0x2000 and whose index lies at 0x1000. -/
def gDesc : Nat := 0x2000 * 2 ^ 448 + 0x1000 * 2 ^ 320 + 1 * 2 ^ 240 + 1 * 2 ^ 223
def fillNode : Nat := 3 + 0x2000 * 2 ^ 448
def nodeLive : State :=
  let s := adminLive.setMem { adminLive.mem with dram := [(0x2000, 3#8), (0x2039, 0x20#8)] }
  s.setLine 8 (cleanLine s 8)
def oneGraph : Graph := { f := 0, ctx := 1, versions := [newVersion gDesc 1], last := 1 }
def withGraph (s : State) : State := { s with graphs := [(0, oneGraph)] }
def launchRec : Nat := 6 + 0x2000 * 2 ^ 448
def launching (gs : FMap Graph) : State := { qLive (qRunning launchRec none) with graphs := gs }
def recording : State := qLive { oneQueue with exec := some (execOfRec 3 .finished), cring := 0x2000#64 }

theorem witness_GraphsAreVersionedAndLaunched :
    (girtRuns nodeLive = true ∧ (nodeLive.fn 0).adminDone = true ∧ graphDescOk gDesc = true ∧
      (∃ s1, readDesc nodeLive 0 (64 * (0x800000000#42).toNat) (hostCells gDesc 64) = .bits gDesc s1 ∧
        (ownCtx s1 0 (bits gDesc 255 240) && (graphPlacesAsk s1 (bits gDesc 255 240) gDesc).isNone && graphPlacesOk s1 (bits gDesc 255 240) gDesc && decide (bits gDesc 222 204 = 0) &&
          decide (lowestFree s1.graphs 1024 = some 0) && (match dataOf (framerRead s1 (bits gDesc 255 240) 0 (bits gDesc 511 448) (64 * bits gDesc 239 223) []) with
            | some (nb, p, bad, _) => !p && bad == 0 && graphOk (bits gDesc 239 223) (splitRecords (bits gDesc 239 223) 64 nb) []
            | none => false)) = true)) ∧
    (ownGraph (withGraph nodeLive) 0 0 = true ∧ oneGraph.ctx = bits gDesc 255 240 ∧ (oneGraph.versions.filter fun v => v.pins != 0).length < 4 ∧
      ((withGraph nodeLive).launches.any fun l => l.2.graph == 0) = false) ∧
    (Takes (launching []) 0 6 (fun _ => true) (execOfRec launchRec .running) (launching []) (qRunning launchRec none) ∧
      lowestFree (launching []).launches 256 = some 0 ∧ fget (launching []).graphs (recGet (recOfBits launchRec) 73 64) = none) ∧
    (Takes (launching [(0, oneGraph)]) 0 6 (fun _ => true) (execOfRec launchRec .running) (launching [(0, oneGraph)]) (qRunning launchRec none) ∧
      oneGraph.versions.find? (·.current) = some (newVersion gDesc 1) ∧ 0 < (newVersion gDesc 1).nn ∧
      (pagesAsk (launching [(0, oneGraph)]) 1 0x2000 4).isNone = true ∧ inDramOrScratch (launching [(0, oneGraph)]) 1 .write 0x2000 4 = true) ∧
    (settledExec recording (.queue 0) = some (execOfRec 3 .finished) ∧ framerRuns recording = true ∧
      scopeMet recording (.queue 0) (execOfRec 3 .finished) = true ∧
      (putRecord (framerRecord recording (.queue 0) (execOfRec 3 .finished) 1 0) 0 (cmdRecord (execOfRec 3 .finished) (recordBits (execOfRec 3 .finished) 0 0 0))).1 = true) :=
  ⟨⟨by decide +kernel, by decide +kernel, by decide +kernel, bits_of_check (by decide +kernel)⟩, by decide +kernel,
    ⟨takes_live (by decide +kernel) (by decide +kernel), by decide +kernel, by decide +kernel⟩,
    ⟨takes_live (by decide +kernel) (by decide +kernel), by decide +kernel, by decide +kernel, by decide +kernel⟩, by decide +kernel⟩

/-- A ring in DRAM of 16 slots, of which slot 15 is next. -/
def ringQueue : Queue := { oneQueue with ring := 0x2000#64, fetched := 15#32, tail := 16#32 }
def slotRead (w : Nat) : VRead :=
  framerRead (let s := qLive ringQueue; s.setMem { s.mem with dram := [(0x23C0, BitVec.ofNat 8 w)] }) 1 0 0x23C0 64 []
theorem witness_QueuesAdvanceByTheirDoorbells :
    (bellAllowed live (.host 0 1) oneQueue = true ∧ (BitVec.ofNat 32 16 - oneQueue.head).toNat ≤ 2 ^ oneQueue.rlog ∧
      2 ^ oneQueue.rlog < (BitVec.ofNat 32 17 - oneQueue.head).toNat ∧
      (BitVec.ofNat 32 0 - oneQueue.chead).toNat ≤ (BitVec.ofNat 32 oneQueue.written - oneQueue.chead).toNat ∧ fget live.queues 0 = some oneQueue) ∧
    (framerRuns (qLive ringQueue) = true ∧ ringQueue.st = .ready ∧ nextRecord ringQueue = some 0x23C0 ∧ deviceOpen (qLive ringQueue) ringQueue.bells = false ∧ ringQueue.indLeft = 0 ∧ ringQueue.ahead = [] ∧
      (∃ b s1, slotRead 3 = .data b false 0 s1 ∧ recordOk (readRecord b false 0 true) false = true)) ∧
    (∃ b s1, framerRead (let s := qLive ringQueue; s.setMem { s.mem with dram := [(0x23C2, 2#8), (0x23C4, 1#8)] }) 1 0 0x23C0 64 [] = .data b false 0 s1 ∧
      ((readRecord b false 0 true).bits.getLsbD 17 && indirectOk (readRecord b false 0 true).bits.toNat) = true) ∧
    (portWorks live .h = true ∧ romOnly live = false ∧ (0#16).toNat = 0 ∧ ({ oneQueue with st := .stalled } : Queue).st = .stalled) :=
  ⟨by decide +kernel, ⟨by decide +kernel, by decide +kernel, by decide +kernel, by decide +kernel, by decide +kernel, by decide +kernel, data_of_check (by decide +kernel)⟩,
    data_of_check (by decide +kernel), by decide +kernel⟩

/-- COPY of 8 B from 0x2000 to 0x2100, and the same as an accumulating write of 4 B words. -/
def copyRec (op : Nat) : Nat := 2 + op * 2 ^ 69 + 8 * 2 ^ 344 + 0x2100 * 2 ^ 384 + 0x2000 * 2 ^ 448
def fillRec : Nat := 3 + 8 * 2 ^ 344 + 5 * 2 ^ 384 + 0x20F8 * 2 ^ 448
def waitRec (v : Nat) : Nat := 4 + v * 2 ^ 384 + 0x2000 * 2 ^ 448
def signalRec (op addr : Nat) : Nat := 5 + op * 2 ^ 64 + 7 * 2 ^ 384 + addr * 2 ^ 448
def engineOk (x : ERead) : Option (List Byte × Bool × Nat × State) :=
  match x with
  | .data b p bad s => some (b, p, bad, s)
  | .wait _ => none
def running (n : Nat) : State := qLive (qRunning n none)
theorem witness_MoveWaitAndSignalCommandsFinish :
    (∀ op u, (op, u) ∈ [(0, Use.write), (5, .acw)] →
      Takes (running (copyRec op)) 0 2 (fun _ => true) (execOfRec (copyRec op) .running) (running (copyRec op)) (qRunning (copyRec op) none) ∧
      recGet (recOfBits (copyRec op)) 71 69 = op ∧ recGet (recOfBits (copyRec op)) 383 344 = 8 ∧
      (∃ s2, dmaDest (running (copyRec op)) (qRunning (copyRec op) none) u 0x2100 = .at_ 0x2100 s2 ∧ (decide (8 ≤ destRoom (running (copyRec op)) (.at_ 0x2100 s2) 0x2100) &&
        decide (8 ≤ sourceRoom (.at_ 0x2100 s2) 0x2000) && (match dataOf (readSectors (qRunning (copyRec op) none) (execOfRec (copyRec op) .running) [] (keepsPoison 0x2100) 20 s2 0x2000 8) with
          | some (b, p, bad, s3) => b.length == 8 && !p && bad == 0 && s3.reqIds
          | none => false)) = true)) ∧
    (copyChute (running (copyRec 0)) (qRunning (copyRec 0) none) 0x2100 = none ∧ ∀ c, (running (copyRec 0)).chute c = Chute.empty) ∧
    (Takes (running fillRec) 0 3 (fun _ => true) (execOfRec fillRec .running) (running fillRec) (qRunning fillRec none) ∧
      (∃ s2, dmaDest (running fillRec) (qRunning fillRec none) .write 0x20F8 = .at_ 0x20F8 s2 ∧ (decide (8 ≤ destRoom (running fillRec) (.at_ 0x20F8 s2) 0x20F8) && s2.reqIds) = true)) ∧
    (∀ v, v ∈ [0, 1] → Takes (running (waitRec v)) 0 4 (fun _ => true) (execOfRec (waitRec v) .running) (running (waitRec v)) (qRunning (waitRec v) none) ∧
      condMet 0 0 v = decide (v = 0)) ∧
    ((translateAsk (running (waitRec 0)) .framer 1 .read 0x2000 8).1 = .ok 0x2000 ∧ isPolled 0x2000 = false ∧
      (engineOk (engineRead (running (waitRec 0)) .framer 1 0 true 0x2000 8 0 [])).map (fun x => (x.1.length, x.2.1, x.2.2.1)) = some (8, false, 0)) ∧
    (∃ e : Exec, e = { execOfRec (waitRec 1) .waiting with deadline := 1000000 } ∧ e.deadline ≤ live.now ∧ framerRuns live = true ∧ e.typ = 4 ∧ e.status = 0) ∧
    (∀ op u, (op, u) ∈ [(0, Use.write), (2, .atomic)] →
      Takes (running (signalRec op 0x2000)) 0 5 (fun _ => true) (execOfRec (signalRec op 0x2000) .running) (running (signalRec op 0x2000)) (qRunning (signalRec op 0x2000) none) ∧
      (∃ s2, dmaDest (running (signalRec op 0x2000)) (qRunning (signalRec op 0x2000) none) u 0x2000 = .at_ 0x2000 s2 ∧ s2.reqIds = true)) :=
  ⟨by
    intro op u h
    simp only [List.mem_cons, Prod.mk.injEq, List.not_mem_nil, or_false] at h
    obtain ⟨rfl, rfl⟩ | ⟨rfl, rfl⟩ := h <;>
      exact ⟨takes_live (by decide +kernel) (by decide +kernel), by decide +kernel, by decide +kernel, at_of_check (by decide +kernel)⟩,
    ⟨by decide +kernel, fun c => rfl⟩, ⟨takes_live (by decide +kernel) (by decide +kernel), at_of_check (by decide +kernel)⟩,
    by
      intro v h
      simp only [List.mem_cons, List.not_mem_nil, or_false] at h
      obtain rfl | rfl := h <;> exact ⟨takes_live (by decide +kernel) (by decide +kernel), by decide +kernel⟩,
    by decide +kernel, ⟨_, rfl, by decide +kernel, by decide +kernel, by decide +kernel, by decide +kernel⟩,
    by
      intro op u h
      simp only [List.mem_cons, Prod.mk.injEq, List.not_mem_nil, or_false] at h
      obtain ⟨rfl, rfl⟩ | ⟨rfl, rfl⟩ := h <;> exact ⟨takes_live (by decide +kernel) (by decide +kernel), at_of_check (by decide +kernel)⟩⟩

def chuteRec (op : Nat) : Nat := 9 + op * 2 ^ 72 + 255 * 2 ^ 64
def pinRec (un : Nat) : Nat := 10 + un * 2 ^ 64 + 1024 * 2 ^ 408 + 0x2000 * 2 ^ 448
def kerfRec : Nat := 11 + 1024 * 2 ^ 408 + 0x2000 * 2 ^ 448
def statusOf : PinDone → Option (Nat × State)
  | .status n s => some (n, s)
  | .waits _ => none
theorem status_of_check {x : PinDone} {n : Nat} {P : State → Bool}
    (h : (match statusOf x with
      | some (m, t) => decide (m = n) && P t
      | none => false) = true) : ∃ s1, x = .status n s1 ∧ P s1 = true := by
  cases x with
  | status m t =>
    simp only [statusOf, Bool.and_eq_true, decide_eq_true_eq] at h
    exact ⟨t, by rw [h.1], h.2⟩
  | waits t => simp [statusOf] at h
/-- A miss register of line `l` that fetches its first sector. -/
def openFetch (sl l : Nat) : MissReg :=
  { slice := sl, line := l, need := 1#4, snoops := [], inval := false, kept := false, evict := false, waiters := [], got := 0#4, bad := 0#4, snooped := false, since := 0,
    again := false }
def busyLine (n : Nat) : State :=
  let s := running n
  s.setMem { s.mem with miss := [openFetch 8 8] }
def byHost (x : Chute) : State := odPut (odPut (live.setChute 255 x) (chuteOd 255) 1 [0]) (chuteOd 255) 2 [2]

theorem witness_ChuteAndPinCommandsAct :
    (∀ op, op ∈ [0, 1, 2] → Takes (running (chuteRec op)) 0 9 (fun r => recGet r 73 72 == op) (execOfRec (chuteRec op) .running) (running (chuteRec op)) (qRunning (chuteRec op) none) ∧
      recGet (recOfBits (chuteRec op)) 71 64 = 255) ∧
    (odNat (running (chuteRec 0)) (chuteOd 255) 1 ≠ 0 ∧ odNat (odPut (running (chuteRec 0)) (chuteOd 255) 1 [0]) (chuteOd 255) 1 = 0 ∧
      ((running (chuteRec 0)).chute 255).inPkt = false ∧ ((byHost { Chute.empty with inPkt := true }).chute 255).inPkt = true) ∧
    (∀ un, un ∈ [0, 1] → Takes (running (pinRec un)) 0 10 (fun r => r.bits.getLsbD 64 == (un == 1)) (execOfRec (pinRec un) .running) (running (pinRec un)) (qRunning (pinRec un) none) ∧
      rangeLines 0x2000 1024 = 1 ∧ (translateAsk (running (pinRec un)) .framer 1 .read 0x2000 1).1 = .ok 0x2000 ∧
      (∃ s3, pinAt (odPut (running (pinRec un)) 0x6010 5 [0]) 0 0x2000 (un == 1) = .status 3 s3 ∧ decide (fget s3.queues 0 = some (qRunning (pinRec un) none)) = true) ∧
      (∃ s3, pinAt (odPut (running (pinRec un)) 0x6010 5 [1]) 0 0x2000 (un == 1) = .status 0 s3 ∧ decide (fget s3.queues 0 = some (qRunning (pinRec un) none)) = true)) ∧
    (Takes (busyLine kerfRec) 0 11 (fun _ => true) (execOfRec kerfRec .running) (busyLine kerfRec) (qRunning kerfRec none) ∧ kerfBusy (busyLine kerfRec) 1 0x2000 1024 = true) ∧
    (Takes (running kerfRec) 0 11 (fun _ => true) (execOfRec kerfRec .running) (running kerfRec) (qRunning kerfRec none) ∧ kerfBusy (running kerfRec) 1 0x2000 1024 = false ∧
      (pagesAsk (running kerfRec) 1 0x2000 1024).isNone = true ∧ (translate (running kerfRec) 1 .write 0x2000 1024).1 = .ok 0x2000 ∧
      (translate (running kerfRec) 1 .write 0x2000 1024).2.line? 8 = some (cleanLine live 8)) ∧
    (hostBehind (byHost Chute.empty) (.hostPort 1) = false ∧ fromProducer (byHost Chute.empty) 255 (.hostPort 1) = true ∧ fromProducer (byHost Chute.empty) 255 .dma = false ∧
      (openPacket Chute.empty).cur.length + 8 < 64 ∧ Chute.empty.words.length + 2 ≤ chuteSlots ∧ Chute.empty.waitSrc = none) ∧
    (({ Chute.empty with waitSrc := some (.hostPort 1), waitWord := [1], inPkt := true } : Chute).waitSrc = some (.hostPort 1)) :=
  ⟨by
    intro op h
    simp only [List.mem_cons, List.not_mem_nil, or_false] at h
    obtain rfl | rfl | rfl := h <;> exact ⟨takes_live (by decide +kernel) (by decide +kernel), by decide +kernel⟩,
    by decide +kernel,
    by
      intro un h
      simp only [List.mem_cons, List.not_mem_nil, or_false] at h
      obtain rfl | rfl := h <;>
        exact ⟨takes_live (by decide +kernel) (by decide +kernel), by decide +kernel, by decide +kernel, status_of_check (by decide +kernel),
          status_of_check (by decide +kernel)⟩,
    ⟨takes_live (by decide +kernel) (by decide +kernel), by decide +kernel⟩, ⟨takes_live (by decide +kernel) (by decide +kernel), by decide +kernel⟩,
    by decide +kernel, by decide +kernel⟩

def kernelRec : Nat := 1 + 15 * 2 ^ 288 + 0x1000 * 2 ^ 448
def jobRec (typ want num : Nat) : Nat := typ + want * 2 ^ 401 + num * 2 ^ 416
def aJob (held : Bool) : Job := { num := 5#32, energy := 0, claim := [], want := 1, held := held }
def placing (k : Kern) (bay : BaySt) : State :=
  let s := running 3
  { s with kerns := [(1, k)], bays := [(0, { upBay with st := bay })] }
def waitingKern : Kern := { oneKern with st := .waiting, next := 0, cores := [] }
def jobbed (x : Queue) (mode : Nat) : State := odPut (qLive x) 0x6010 10 [BitVec.ofNat 8 mode]
def claiming : Queue := { oneQueue with exec := some { execOfRec (jobRec 7 1 5) .waiting with typ := 7 }, job := some (aJob false) }

theorem witness_KernelsArePlacedAndJobsClaimGroves :
    Takes (running kernelRec) 0 1 (fun _ => true) (execOfRec kernelRec .running) (running kernelRec) (qRunning kernelRec none) ∧
    (fget (placing waitingKern .running).kerns 1 = some waitingKern ∧ ctxRuns (placing waitingKern .running) 1 = true ∧ kernReady waitingKern = true ∧
      eligibleCores (placing waitingKern .running) waitingKern .running ≠ [] ∧ othersFirst (placing waitingKern .running) 1 waitingKern = false) ∧
    (eligibleCores (placing waitingKern .asleep) waitingKern .running = [] ∧ (eligibleCores (placing waitingKern .asleep) waitingKern .asleep).head? = some 0 ∧
      ((placing waitingKern .asleep).bay (groveEnt (placing waitingKern .asleep) (coreGrove 0)).bay).st = .asleep) ∧
    (Takes (jobbed (qRunning (jobRec 7 2 5) none) 1) 0 7 (fun _ => true) (execOfRec (jobRec 7 2 5) .running) (jobbed (qRunning (jobRec 7 2 5) none) 1) (qRunning (jobRec 7 2 5) none) ∧
      jobMode (jobbed (qRunning (jobRec 7 2 5) none) 1) 0 = true ∧
      ((jobbed (qRunning (jobRec 7 2 5) none) 1).fn 0).groves.length < recGet (recOfBits (jobRec 7 2 5)) 410 401) ∧
    (Takes (jobbed (qRunning (jobRec 7 1 5) none) 0) 0 7 (fun _ => true) (execOfRec (jobRec 7 1 5) .running) (jobbed (qRunning (jobRec 7 1 5) none) 0) (qRunning (jobRec 7 1 5) none) ∧
      jobMode (jobbed (qRunning (jobRec 7 1 5) none) 0) 0 = false ∧ jobMode (jobbed (qRunning (jobRec 7 1 5) none) 1) 0 = true ∧
      recGet (recOfBits (jobRec 7 1 5)) 410 401 ≤ ((jobbed (qRunning (jobRec 7 1 5) none) 1).fn 0).groves.length) ∧
    (let s := { jobbed claiming 1 with cores := [] }
     ctxRuns s 1 = true ∧ (chooseClaim s 0 claiming [] 1 (recGet (recOfBits (jobRec 7 1 5)) 511 448) (recGet (recOfBits (jobRec 7 1 5)) 415 411)).length = 1 ∧
       ∀ g, g ∈ chooseClaim s 0 claiming [] 1 0 0 → groveBusy s g = false) ∧
    (∀ num, num ∈ [5, 6] → Takes (qLive (qRunning (jobRec 8 0 num) (some (aJob true)))) 0 8 (fun _ => true) (execOfRec (jobRec 8 0 num) .running)
      (qLive (qRunning (jobRec 8 0 num) (some (aJob true)))) (qRunning (jobRec 8 0 num) (some (aJob true)))) :=
  ⟨takes_live (by decide +kernel) (by decide +kernel), by decide +kernel, by decide +kernel,
    ⟨takes_live (by decide +kernel) (by decide +kernel), by decide +kernel, by decide +kernel⟩,
    ⟨takes_live (by decide +kernel) (by decide +kernel), by decide +kernel, by decide +kernel, by decide +kernel⟩, by decide +kernel,
    by
      intro n h
      simp only [List.mem_cons, List.not_mem_nil, or_false] at h
      obtain rfl | rfl := h <;> exact takes_live (by decide +kernel) (by decide +kernel)⟩

/-- Kernel 1 is resident and past its time slice; kernel 2, of a better class, waits for its cores. -/
def evicting : State :=
  let k : Kern := { oneKern with cls := 1 }
  let full : Whorl := oneWhorl p0
  let s := budget (odPut (running 3) 0x7020 1 [1]) 13 1
  { s with classC := [(classKey 0 1, 5)], kerns := [(1, k), (2, { waitingKern with q := 1, gran := 32, nwh := 1 })],
           cores := (List.range 16).map fun c => (c, { coreWith full with slots := (List.range 8).map fun n => (n, full) }) }
def savedKern : Kern := { oneKern with st := .saved, saved := [{ core := 0, slot := 3, whorl := wh0 }] }
def limited : Kern := { oneKern with tlim := 1 }
def stopping (d : Bool) : State := { live with ctxs := [(1, { oneCtx with stopping := true, dying := d })] }

theorem witness_KernelsSwitchAndContextsStop :
    (fget evicting.kerns 1 = some { oneKern with cls := 1 } ∧ mayEvict evicting 1 { oneKern with cls := 1 } = true ∧
      betterVictim evicting 1 { oneKern with cls := 1 } = false) ∧
    (({ oneKern with st := .saving } : Kern).st = .saving ∧ ctxLive live 1 = true ∧ (∀ w, w ∈ kernWhorls live 1 → whorlBusy live w.1 w.2.1 = false) ∧
      kernWhorls live 1 ≠ []) ∧
    (let s := { placing savedKern .running with cores := [] }
     fget s.kerns 1 = some savedKern ∧ ctxRuns s 1 = true ∧ restoreFits s savedKern = true ∧ fget (s.core 0).slots 3 = none ∧
       ((liveKerns s savedKern.part).any fun o => o.1 != 1 && kernReady o.2 && comesBefore s o (1, savedKern) &&
         (o.2.st == .saved || !(eligibleCores s o.2 .running).isEmpty)) = false) ∧
    (({ oneKern with st := .restoring } : Kern).st = .restoring ∧ ctxRuns live 1 = true) ∧
    (kernLimit live limited = some 1000000 ∧ 1000000 ≤ limited.ranFor + (live.now - limited.placedAt) ∧ live.felled = false ∧
      fget live.ctxs limited.ctx = some oneCtx ∧ oneCtx.fault = 0) ∧
    (∀ d, fget (stopping d).ctxs 1 = some { oneCtx with stopping := true, dying := d } ∧ ctxQuiet (stopping d) 1 = true) :=
  ⟨by decide +kernel, by decide +kernel, by decide +kernel, by decide +kernel, by decide +kernel, by decide +kernel⟩

/-! ## The host link, tenons, joints, rafter dies -/

def vfView : State := live.setPort 1 { live.port 1 with vfEnable := true, numVfs := 5 }
def asked1 : Bool × State := askPieces (withLine live 8) 1 0 (barPieces 8 0x2000 8)
def taken1 : List Byte × Bool × Nat × State := takePieces asked1.2 1 0 (barPieces 8 0x2000 8)
theorem witness_HostAccessesReachTheirFunctionsPages :
    (linkWorks live 1 = true ∧ inView live 1 0 = true ∧ inView live 1 6 = false ∧ inView vfView 1 5 = true ∧ ideOk live 1 = true ∧
      ideOk (odPut live 0x6001 10 [1]) 1 = false) ∧
    (barReach live 0 false (usableSize live - 8) 8 = true ∧ barReach live 0 false (usableSize live - 7) 8 = false ∧
      barReach live 0 true 0x2000 8 = true ∧ regionOf 0x2000 ≠ .chute ∧ live.reqIds = true ∧ 8 ≤ pieceRoom 0x2000) ∧
    ((askPieces (withLine live 8) 1 0 (barPieces 8 0x2000 8) = (false, asked1.2)) ∧ taken1.2.1 = false ∧ taken1.2.2.1 = 0 ∧ taken1.1.length = 8) ∧
    ((live.dom 77).st = .on ∧ live.mbox.busy = false ∧ live.mbox.resp = false ∧ bits (1536#64).toNat 10 0 = 1536 ∧ bits (1537#64).toNat 10 0 = 1537 ∧
      (live.fn 0).tlbDone = true ∧ ctxFn live 1 = some 0 ∧ ctxFn live 2 ≠ some 0 ∧ bits (1#64 <<< 51).toNat 62 51 = 1) ∧
    (let s := live.setFn 0 { live.fn 0 with tlbDone := false }
     (s.fn 0).tlbDone = false ∧ (s.mem.reqs.any (usesOld (s.fn 0).tlbCtx (s.fn 0).tlbUpTo)) = false) :=
  ⟨by decide +kernel, by decide +kernel, ⟨pair_of (by decide +kernel), by decide +kernel⟩, by decide +kernel, by decide +kernel⟩

theorem witness_FunctionsResetAndAppearInViews :
    ((∀ c, c ∈ live.ctxs → c.2.f ≠ 5) ∧ sharedPages live 5 = [] ∧ (live.dom 77).st = .on) ∧
    ((vfView.port 1).vfEnable = true ∧ 5 ≤ (vfView.port 1).numVfs ∧ (vfView.port 1).numVfs ≤ 63 ∧ ∀ i, i ≤ 63 → homePort vfView i ≠ 1) ∧
    (linkWorks live 1 = true ∧ (live.mem.reqs.any (usesAts live 1 0 0 1)) = false) :=
  ⟨by decide +kernel, by decide +kernel, by decide +kernel⟩

def lostPort (due felled : Bool) : State :=
  let s := live.setPort 1 { live.port 1 with up := false, lostAt := none, resetDue := due }
  { s with fell := { s.fell with st := if felled then 2 else 0 }, mod := { s.mod with perstN := [true, true], refclk := [true, true] } }
theorem witness_LinksGoDownAndComeBack :
    ((live.port 1).up = true ∧ linkWorks live 1 = true) ∧
    (mayTrain (lostPort false false) 1 = true ∧ ((lostPort false false).port 1).up = false ∧ lossElapsed (lostPort false false) 1 = false) ∧
    (∀ f, (((lostPort true f).port 1).up = false ∧ lossElapsed (lostPort true f) 1 = true ∧ (lostPort true f).felled = f) ∧
      ∀ c, c ∈ (lostPort true f).ctxs → homePort (lostPort true f) c.2.f ≠ 1) ∧
    (lostPort false false).mod.perstN[1]? = some true :=
  ⟨by decide +kernel, by decide +kernel, by decide +kernel, by decide +kernel⟩

def okFacts : AdmitFacts :=
  { refclk := true, sideband := true, agreed := true, rate := 32,
    ident := leBytes 64 (0x1234 * 2 ^ 240 + 2 * 2 ^ 208 + 16 * 2 ^ 192 + 1 * 2 ^ 184), trained := 0xFF#8, streaming := true }
theorem witness_TenonsAndRafterDiesAreRepairedTestedAndAdmitted :
    (tenonWorks live 0 15 = true ∧ tenonWorks live 9 7 = true ∧ (live.tenon 15).width = 0 ∧ (live.tenon 15).bad = [] ∧ (live.tenon 15).rep < 4 ∧
      odNat live 0x4410 2 ≠ 1 ∧ (workingTenons live 9).contains 6 = true) ∧
    ((recentTimes live (live.tenon 15).recent 1000000000 1).length < 3 ∧ 3 ≤ (recentTimes live [live.now, live.now] 1000000000 1).length) ∧
    ((live.setTenon 15 { live.tenon 15 with train := true }).tenon 15).train = true ∧
    (let s := odPut { live with mod := { live.mod with op := .test } } 0xB010 2 [1]
     portWorks s .h = true ∧ romOnly s = false ∧ s.mod.op = .test ∧ odNat s 0xB010 2 ≠ 0 ∧ live.mod.op ≠ .test) ∧
    ({ live with test := { live.test with running := true } } : State).test.running = true ∧
    ((live.die 1).result = 0 ∧ (live.dom 79).st = .on ∧ admitRefusal okFacts = 0 ∧ admitRefusal { okFacts with rate := 16 } = 3) ∧
    (portWorks live .f = true ∧ romOnly live = false ∧ live.mod.op ≠ .standby) :=
  ⟨by decide +kernel, by decide +kernel, by decide +kernel, by decide +kernel, by decide +kernel, by decide +kernel, by decide +kernel⟩

def jhdr (len : BitVec 7) (sub : BitVec 5) (addr : W48) (tag : BitVec 10) : JHdr :=
  { addr := addr, dst := 0#12, src := 0#12, tag := tag, scope := 0#3, cls := 0#3, sub := sub, pois := false, len := len, z := 0#21 }
def dieLive : State := (withLine live 8).setDie 1 { live.die 1 with powered := true, result := 1 }
/-- A request in a peer window of session 0, which is on die 1. -/
def peerReq : Req := reqOf (.load false) { laneTo 0x400000000000 [0, 0, 0, 0] with sent := true }
def peerLive : State :=
  let s := withReq dieLive { peerReq with region := .peer }
  (odPut s 0x1600 0 (leBytes 32 (2 ^ 159 + 2 ^ 128))).setSess 0 { Sess.blank with st := 2 }
theorem witness_JointPacketsActAndAreAnswered :
    ((dieLive.die 1).powered = true ∧ 64 < (jhdr 65 0 0x2000 0).len.toNat ∧ (jhdr 64 0 0x2000 0).len.toNat ≤ 64) ∧
    (HomeReady dieLive 8 (cleanLine live 8) ∧ regionOf 0x2300 = .dram ∧ jointLen (jhdr 64 0 0x2300 0) = 256 ∧ 0x2300 % 1024 + 256 ≤ 1024 ∧
      0x2300 + 256 ≤ usableSize dieLive ∧ writeRefused dieLive 0x2300 256 = false ∧ inBiasTable dieLive 0x2300 256 = false ∧ turnOf dieLive (.rafter 1) dieLive.mem.nextReq 0x2300 = true ∧ mirrorOf dieLive 8 = none ∧
      jointLen (jhdr 1 0 0x2300 0) = 4 ∧ 
      (Memory.wf dieLive.mem.dram && Memory.wf dieLive.mem.llc) = true) ∧
    (let r : Req := { peerReq with region := .peer }
     (∀ x, x ∈ peerLive.mem.reqs → x.id % 1024 = 1 → x = r) ∧ r ∈ peerLive.mem.reqs ∧ findReq peerLive 1 = some r ∧
       regionOf 0x400000000000 = .peer ∧ windowSession peerLive (reqFn peerLive r) 0x400000000000 = some 0 ∧ sessDie peerLive 0 = 1 ∧
       (peerLive.die 1).powered = true ∧ r.kind.reads = true) ∧
    (let m : MissReg := { openFetch 8 8 with need := 0#4, snoops := [(10, 0)] }
     let s := dieLive.setMem { dieLive.mem with miss := [m] }
     missOf s 8 = some m ∧ m.snoops.contains (10, 0) = true ∧ (jhdr 0 0 0x2000 0).len = 0#7) ∧
    ((cleanLine live 8).ovf = false ∧ ¬((cleanLine live 8).st = .m ∧ (cleanLine live 8).own = 10) ∧ (Line.slice { cleanLine live 8 with st := .m, own := 10 }) < 128) :=
  ⟨by decide +kernel, by unfold HomeReady; decide +kernel, by decide +kernel, by decide +kernel, by decide +kernel⟩

theorem test_a_bar4_read_returns_little_endian_bytes :
    (next (.bar4Read 1 0 0x2000 2) (let s := withLine live 8; s.setMem { s.mem with dram := [(0x2001, 7#8)] })).out.head? =
      some (.barData 1 0 [0, 7] 0) := by decide +kernel
theorem test_admission_keeps_the_refusals_reason :
    ((next (.admission 1 { okFacts with refclk := false }) live).die 1).reason = 1 := by decide +kernel
theorem test_an_unanswered_lane_repair_narrows_after_four : ((next (.laneRepair 0 15 40 true)
    (live.setTenon 15 { live.tenon 15 with rep := 4 })).tenon 15).width = 1 := by decide +kernel

/-! ## Rafter sessions -/

/-- Session 0 of function 0 runs on die 1, port 0, with a peer of address 0 and session 0. -/
def sessState (x : Sess) : State :=
  let s := withLine live 8
  let s := (odPut s 0x1600 0 (leBytes 32 (2 ^ 159 + 2 ^ 128))).setSess 0 x
  s.setDie 1 { live.die 1 with powered := true, result := 1, cfg := 0, ports := [(0, 2), (1, 0)], clock := true }
def openSess : Sess := { Sess.blank with st := 2 }
def rhdr (psn : W32) (addr : W64) (len : BitVec 16) (sub : BitVec 5) : RHdr :=
  { die := 1, port := 0, smac := 0#48, ver := 1#4, dsess := 0#16, ssess := 0#16, psn := psn, rpsn := 0#32, apsn := 0#32, addr := addr,
    len := len, scope := 0#2, sub := sub, tag := 9#8, z := 0#16, pois := false }
theorem frameSession_addr (s : State) (psn : W32) (a : W64) (len : BitVec 16) (sub : BitVec 5) :
    frameSession s (rhdr psn a len sub) = frameSession s (rhdr 0#32 0#64 0#16 0#5) := by
  unfold frameSession rhdr
  rfl
theorem portUp_addr (s : State) (psn : W32) (a : W64) (len : BitVec 16) (sub : BitVec 5) :
    portUp s (rhdr psn a len sub) = portUp s (rhdr 0#32 0#64 0#16 0#5) := by
  unfold portUp rhdr
  rfl
theorem frameOk_addr (psn : W32) (a : W64) (len : BitVec 16) (sub : BitVec 5) (n : Nat) :
    frameOk (rhdr psn a len sub) n = frameOk (rhdr 0#32 0#64 len sub) n := by
  unfold frameOk rhdr
  rfl
theorem frameFor_live {s : State} (a : W64)
    (h : (portUp s (rhdr 0#32 0#64 0#16 0#5) && decide (frameSession s (rhdr 0#32 0#64 0#16 0#5) = some 0)) = true) :
    FrameFor s (rhdr 1#32 a 8#16 0#5) 31 0 := by
  simp only [Bool.and_eq_true, decide_eq_true_eq] at h
  refine ⟨?_, ?_, ?_⟩
  · rw [portUp_addr]; exact h.1
  · rw [frameOk_addr]; decide
  · rw [frameSession_addr]; exact h.2
def asking : Sess := { openSess with asked := [(9, 1, 0)] }
def askingState : State := withReq (sessState asking) { peerReq with region := .peer }

theorem witness_DataFramesAreAppliedInSequence :
    (portUp live (rhdr 1 0 0 0) = false ∧ portUp (sessState openSess) (rhdr 1 0 0 0) = true ∧ frameOk (rhdr 1 0 4097 0) 31 = false ∧
      frameSession live (rhdr 1 0 0 0) = none) ∧
    (∀ h, h ∈ [rhdr 1 0x2000 0 0, rhdr 1 0x2000 4 4, rhdr 1 0x2000 4096 10] → FrameFor (sessState openSess) h 31 0) ∧
    (((sessState openSess).session 0).st = 2 ∧ (sessState openSess).felled = false ∧ (rhdr 1 0x2000 4096 0).psn = ((sessState openSess).session 0).rpsn + 1 ∧
      ((sessState openSess).session 0).inbound = [] ∧ (rhdr 1 0x2000 4096 0).scope = 0#2 ∧ (sessState openSess).reqIds = true ∧ regionOf 0x2000 ≠ .chute) ∧
    (inboundAllowed (sessState openSess) 0 .write 0x2000 4096 && inboundAllowed (sessState openSess) 0 .read 0x2000 4096 &&
      inboundAllowed (sessState openSess) 0 .atomic 0x2000 8 && inboundAllowed (sessState openSess) 0 .acw 0x2000 4096) = true ∧
    (inboundAllowed (sessState openSess) 0 .write (usableSize live - 4095) 4096 = false ∧ inboundAllowed (sessState openSess) 0 .read (usableSize live) 1 = false) ∧
    ((askingState.session 0).asked.find? (fun b => b.1 == 9) = some (9, 1, 0) ∧ findReq askingState 1 = some { peerReq with region := .peer } ∧
      FrameFor askingState (rhdr 1 0x2000 4 0) 31 0 ∧ (askingState.session 0).posted = []) :=
  ⟨by decide +kernel, by unfold FrameFor; decide +kernel, by decide +kernel, by decide +kernel, by decide +kernel,
    by unfold FrameFor; decide +kernel⟩

theorem witness_ControlFramesMoveTheirSession :
    (FrameFor (sessState { Sess.blank with st := 1 }) (rhdr 1#32 (digestPrefix (sessState { Sess.blank with st := 1 })) 8#16 0#5) 31 0 ∧
      ((sessState { Sess.blank with st := 1 }).session 0).st = 1) ∧
    (FrameFor (sessState { Sess.blank with st := 1 }) (rhdr 1#32 (digestPrefix (sessState { Sess.blank with st := 1 }) + 1) 8#16 0#5) 31 0 ∧
      digestPrefix (sessState { Sess.blank with st := 1 }) + 1 ≠ digestPrefix (sessState { Sess.blank with st := 1 })) ∧
    (FrameFor (sessState { Sess.blank with st := 2 }) (rhdr 1#32 0#64 8#16 0#5) 31 0 ∧ ((sessState { Sess.blank with st := 2 }).session 0).st = 2) :=
  ⟨⟨frameFor_live _ (by decide +kernel), rfl⟩, ⟨frameFor_live _ (by decide +kernel), by bv_omega⟩, frameFor_live _ (by decide +kernel), rfl⟩

def sentFrame : Frame :=
  { psn := 1#32, op := 0, addr := 0x2000#64, data := [1], len := 1, scope := 0, sub := 0, tag := 0, req := 1, lane := 0, pois := false }
def keptSess (retries : Nat) (held : Bool) : Sess := { openSess with kept := [sentFrame], retries := retries, held := held, unacked := 1 }
/-- The same session at a later time, when every timer is due. -/
def lateState (x : Sess) : State :=
  let s := sessState x
  { s with mod := { s.mod with time := 0x100000000000#64 } }
theorem witness_SessionTimersAndPortsActWhenDue :
    (let s := lateState { Sess.blank with st := 1 }
     sessUp s 0 = true ∧ (s.session 0).st = 1 ∧ (s.session 0).lastSent + 1000000 ≤ s.now) ∧
    (∀ h, let s := lateState (keptSess (odNat live 0x1500 2 - 2) h)
      sessUp s 0 = true ∧ (s.session 0).st = 2 ∧ 0 < (s.session 0).unacked ∧ (s.session 0).kept ≠ [] ∧
        (s.session 0).lastProgress + 1000 * odNat s 0x1500 1 ≤ s.now ∧ ((s.session 0).held = true ∨ (s.session 0).retries + 1 < odNat s 0x1500 2) ∧
        (s.session 0).lastSent + 1000000 * odNat s 0x1500 3 ≤ s.now ∧ (s.session 0).lastHeard + 4 * (1000000 * odNat s 0x1500 3) ≤ s.now) ∧
    (let s := lateState (keptSess (odNat live 0x1500 2 - 1) false)
     (s.session 0).held = false ∧ odNat s 0x1500 2 ≤ (s.session 0).retries + 1) ∧
    (let s := sessState openSess
     fget s.sess 0 = some openSess ∧ sessDie s 0 = 1 ∧ sessPort s 0 = 0 ∧ fget (s.die 1).ports 1 = some 0 ∧ (s.die 1).clock = true ∧
       (s.die 1).clock ≠ false ∧ (s.die 1).powered = true ∧ portCount (s.die 1).cfg = 2) :=
  ⟨by decide +kernel, by decide +kernel, by decide +kernel, by decide +kernel⟩

/-! ## Power, gating, heat -/

def facts (mv ma : Nat) : PowerFacts := { mv := mv, ma := ma, wantMa := 0, fillerW := 0, sagDomains := [] }
def issuing : State := live.setDom 0 { onDom with issued := true, lim := 63 }
theorem witness_PowerLoopsAndThermalSamplesAct :
    ((limitReason issuing (facts 54000 1000000000) (rampCap issuing 54000)).isSome = true ∧ isCompute 0 = true ∧ isCompute 72 = true ∧ isCompute 76 = false ∧
      (issuing.dom 0).st = .on ∧ issuing.power.fastAt ≠ issuing.now / 1000 + 1 ∧ (issuing.dom 0).issued = true ∧ 3 < (issuing.dom 0).lim) ∧
    (let s : State := { issuing with mod := { issuing.mod with time := 1001000#64 } }
     s.power.slowAt ≠ s.now / 1000000 + 1 ∧ s.power.heatAt ≠ s.now / 100000 + 1 ∧
     limitReason s (facts 54000 0) (rampCap s 54000) = none ∧ s.now / 1000 % 10 ≠ 0) ∧
    ((fgetD issuing.power.hot (0 / 19) 0).testBit 0 = false ∧ (issuing.dom 1).issued = false) ∧
    (bayUp live 3 = true ∧ 10500 < maxTemp [10501] ∧ maxTemp [10500] = 10500) :=
  ⟨by decide +kernel, by decide +kernel, by decide +kernel, by decide +kernel⟩

/-- Core 0 holds nothing; gating is on. -/
def idleState : State :=
  let s := odPut (odPut live 0x3000 13 [1]) 0x3000 12 [10]
  { s with cores := [], fns := [] }
def gatingDom (w : Bool) : State := idleState.setDom 0 { onDom with st := .gating, wanted := w }
def draining : State := live.setBay 3 { upBay with draining := true, toSleep := true }
def asleepBay (k : Bool) : State := live.setBay 3 { upBay with st := .asleep, waking := k }
theorem witness_DomainsGateAndBaysSleep :
    (isCompute 0 = true ∧ (idleState.dom 0).st = .on ∧ odNat idleState 0x3000 13 = 1 ∧ domainFree idleState 0 = true ∧ idleState.power.falling = false ∧
      bayUp idleState (0 / 19) = true ∧ (idleState.dom 0).idleSince + 1000 * odNat idleState 0x3000 12 ≤ idleState.now) ∧
    (∀ w, ((gatingDom w).dom 0).st = .gating ∧ ((gatingDom w).dom 0).idleSince + 2000 ≤ (gatingDom w).now) ∧
    ((live.setDom 0 { onDom with st := .waking }).dom 0).st = .waking ∧
    (portWorks idleState .h = true ∧ romOnly idleState = false ∧ isStaged idleState 0x3020 4 = false ∧ sleepRefused idleState 3 = false ∧
      bayUp idleState 3 = true ∧ (idleState.bay 3).draining = false ∧ sleepRefused live 0 = true ∧ ((asleepBay false).bay 3).st = .asleep) ∧
    ((draining.bay 3).toSleep = true ∧ (draining.bay 3).draining = true ∧ bayDrained (drainLines draining (linesIn draining 3)) 3 = true) ∧
    (((asleepBay true).bay 3).waking = true ∧ ((asleepBay true).bay 3).forced = false ∧ bayCool (asleepBay true) 3 = true) :=
  ⟨by decide +kernel, by decide +kernel, by decide +kernel, by decide +kernel, by decide +kernel, by decide +kernel⟩

theorem test_a_write_frame_moves_rpsn : ((next (.rafterWrite (rhdr 1 0x2000 1 0) [5]) (sessState openSess)).session 0).rpsn = 1#32 := by decide +kernel
theorem test_a_hold_keeps_the_session_open : ((next (.hold (rhdr 1 0x2000 1 0)) (sessState openSess)).session 0).held = true := by decide +kernel
theorem test_an_idle_domain_gates : ((next (.domainGate 0) idleState).dom 0).st = .gating := by decide +kernel
theorem test_throttle_is_held : (next .throttleNAssert live).power.throttled = true := by decide +kernel

/-! ## Failures, bays in reset, Scribe -/

/-- No kernel holds a whorl; the same with every spare grove of bay 0 dead. -/
def quiet : State := { live with kerns := [], cores := [] }
def noSpare : State := { quiet with deadGroves := (List.range 208).filter fun p => !(List.range 192).any fun g => physGrove 0 (groveEnt live g).col (groveEnt live g).row == p }
/-- Bay 0 with 160 working groves: its spares and 32 groves are dead. -/
def worn : State :=
  { noSpare with groves := (List.range 32).map fun g => (g, { groveEnt live g with lost := true }),
                 deadGroves := noSpare.deadGroves ++ (List.range 32).map fun g => physGrove 0 (groveEnt live g).col (groveEnt live g).row }
theorem witness_FailedCoresMoveTheirGroveToASpare :
    ((groveEnt quiet 191).lost = false ∧ (quiet.bay (groveEnt quiet 191).bay).st = .running ∧ (∀ e, e ∈ quiet.kerns → e.2.st = .ended) ∧
      3056 ∈ groveCores 191 ∧ coreUsed quiet 3056 = true ∧ (quiet.core 3056).failed = false ∧ (quiet.dom (coreDomain quiet 3056)).st ≠ .off) ∧
    ((nearestSpare quiet (groveEnt quiet 191)).isSome = true ∧ nearestSpare noSpare (groveEnt noSpare 191) = none ∧
      161 ≤ workingGroves quiet 0 ∧ portWorks quiet .f = true ∧ romOnly quiet = false) ∧
    (767 < (768#16).toNat ∧ workingGroves worn 0 < 161 ∧ (groveEnt worn 191).lost = false ∧ (groveEnt worn 0).lost = true) :=
  ⟨by decide +kernel, by decide +kernel, by decide +kernel⟩

def oneCore : State := { live with dbg := { live.dbg with opened := true } }
def resetting (drain : Bool) (since : Nat) : State :=
  { quiet.setBay 3 { upBay with st := .resetting, draining := drain, since := since } with cores := [] }
theorem witness_BaysResetReturnOrRetire :
    (oneCore.dbg.opened = true ∧ (oneCore.bay 0).st = .running ∧ (∀ b, b < 4 → b ≠ 0 → (oneCore.bay b).st ≠ .resetting ∧ (oneCore.bay b).st ≠ .returning)) ∧
    ((oneCore.kerns.filter fun e => e.2.st != .ended && kernHit oneCore e.1 e.2 (bayCores 0)) = [(1, oneKern)] ∧ oneCore.felled = false ∧
      ctxFaulted oneCore 1 = false ∧ oneCore.cuts = [] ∧ mayReplay { oneCore with cores := [] } oneKern [] [] = true ∧ mayReplay oneCore { oneKern with rsafe := false } [] [] = false) ∧
    (((resetting true 0).bay 3).st = .resetting ∧ ((resetting true 0).bay 3).draining = true ∧ ((resetting true 0).bay 3).confirmed = false ∧
      ((resetting true (live.now - 100000)).bay 3).since + 100000 ≤ live.now) ∧
    (((resetting false 0).bay 3).draining = false ∧ lentLines (resetting false 0) 3 = [] ∧ owedLines (resetting false 0) 3 = [] ∧ ∀ e, e ∈ (resetting false 0).cores → e.2.failed = false) ∧
    (isCompute 57 = true ∧ (quiet.dom 57).st ≠ .off) :=
  ⟨by decide +kernel, by decide +kernel, by decide +kernel, by decide +kernel, by decide +kernel⟩

def rowIs (i j : Nat) (a : OdAcc) (size : Nat) (text : Bool) : Bool :=
  match odRow i j with
  | some r => r.acc == a && r.size == size && isText r == text
  | none => false
def rulesFor (s : State) (i j : Nat) (data : List Byte) (staged : Bool) : Option (Option Nat × Option Nat × Option Nat) :=
  (odRow i j).bind fun r => if isStaged s i j == staged then some (lengthRule r 0 data, valueRule r i j data, stateRule s (odPut s i j data) i j) else none
def stagedState : State := { live with dict := { live.dict with staged := [(odKey 0x7020 1, leBytes 4 1000)], peg := some .h } }
def recovering : State := { live with mod := { live.mod with phase := .romRecovery } }
theorem witness_EntriesAreReadAndWrittenByTheirRules :
    (portWorks live .f = true ∧ portWorks live .h = true ∧ romOnly live = false) ∧
    (portWorks recovering .f = true ∧ romOnly recovering = true ∧ romEntry 0x1400 1 = false ∧ romEntry 0x13FF 1 = true) ∧
    (odRow 0x1000 9 = none ∧ rowIs 0x1000 5 .ro 8 false = true ∧ rowIs 0x1000 1 .ro 16 true = true ∧ rowIs 0x7020 1 .rw 4 false = true ∧
      rowIs 0x1600 0 .rws 32 true = true) ∧
    (rulesFor live 0x7020 1 (leBytes 4 3000) false = some (none, none, none) ∧ odValue live 0x7020 1 ≠ leBytes 4 3000 ∧
      plainKey (odKey 0x7020 1) = true ∧ (rulesFor live 0x7020 1 [0] false).map (·.1) = some (some 0x01000005) ∧
      ((rulesFor live 0x7020 1 (leBytes 4 0) false).map (·.2.1.isSome)) = some true ∧ rulesFor stagedState 0x7020 1 (leBytes 4 3000) true = some (none, none, none)) ∧
    (((rulesFor live 0x5040 1 [2] false).map (·.2.2)) = some (some 0x03000060)) :=
  ⟨by decide +kernel, by decide +kernel, by decide +kernel, by decide +kernel, by decide +kernel⟩

theorem witness_ThePegStagesAndCommitsAllOrNothing :
    (portWorks live .f = true ∧ romOnly live = false ∧ live.dict.peg = none) ∧
    (portWorks stagedState .h = true ∧ romOnly stagedState = false ∧ stagedState.dict.peg = some .h ∧ (Port.h ≠ Port.f) ∧ stagedState.dict.leaseEnd ≤ stagedState.now) ∧
    (rowIs 0x7020 1 .rw 4 false = true ∧ ({ stagedState with dict := { stagedState.dict with staged := [] } } : State).dict.staged = [] ∧
      (rulesFor live 0x7020 1 (leBytes 4 1000) false).map (·.2.1) = some none) ∧
    (stagedState.dict.staged = [(odKey 0x7020 1, leBytes 4 1000)] ∧ plainKey (odKey 0x7020 1) = true ∧
      stateRule stagedState (odPut stagedState 0x7020 1 (leBytes 4 1000)) 0x7020 1 = none ∧ leBytes 4 1000 ≠ odValue stagedState 0x7020 1 ∧
      ({ stagedState with trust := { stagedState.trust with keyAvailable := true } } : State).trust.keyAvailable = true ∧
      (stagedState.dict.staged.map (·.1)).Nodup) :=
  ⟨by decide +kernel, by decide +kernel, by decide +kernel, by decide +kernel⟩

/-- A message of one record with these headers. -/
def message (gen hdr : Nat) : List Byte := leBytes 16 (2 ^ 124 + 2 ^ 112 + 7 * 2 ^ 96 + 24 * 2 ^ 80 + gen) ++ leBytes 8 hdr
def infoHdr (i j : Nat) : Nat := 4 * 2 ^ 56 + i * 2 ^ 40 + j * 2 ^ 32
def env0 : Envelope := { smac := 5#48, broadcast := false, vtag := none }
def parsed (b : List Byte) : Option (Nat × List Nat) := (parseMsg .f b).map fun x => (bits x.1 63 0, x.2.map fun r => r.hdr)
def okData (r : OdRes) : Option (List Byte) :=
  match r with
  | .ok _ d => some d
  | _ => none
theorem witness_MessagesRunTheirRecordsInOrder :
    (portWorks live .f = true ∧ romOnly live = false ∧ env0.broadcast = false) ∧
    (parsed [] = none ∧ parsed (message 0 (infoHdr 0x1000 9)) = some (0, [infoHdr 0x1000 9]) ∧
      parsed (message (live.dict.generation + 1) (infoHdr 0x1000 5)) = some (live.dict.generation + 1, [infoHdr 0x1000 5])) ∧
    (∀ room, runRec live .f room { hdr := infoHdr 0x1000 9, data := [] } = .abort 0x01000001) ∧
    (∃ d, (∀ room, runRec live .f room { hdr := infoHdr 0x1000 5, data := [] } = .ok live d) ∧ pad4 d.length ≤ 1472) ∧
    resetsModule { hdr := infoHdr 0x1000 5, data := [] } = false := by
  refine ⟨by decide +kernel, by decide +kernel, fun room => ?_, ⟨(okData (infoOp live 0x1000 5)).getD [], fun room => ?_, by decide +kernel⟩, by decide +kernel⟩
  · rfl
  · rfl

theorem test_the_peg_is_taken : (next (.pegTake .f) live).dict.peg = some .f := by decide +kernel
theorem test_a_value_out_of_range_is_aborted :
    (match (next (.write .f 0x7020#16 1#8 0#20 (leBytes 4 0)) live).out.head? with
      | some (.abort .f c []) => decide (c = 0x020000B0#32)
      | _ => false) = true := by decide +kernel
theorem test_a_failed_grove_moves : (groveEnt (next (.groveFailure 191) quiet) 191).row ≠ (groveEnt quiet 191).row ∨
    (groveEnt (next (.groveFailure 191) quiet) 191).col ≠ (groveEnt quiet 191).col := by decide +kernel

/-! ## The global stop, operating states, start-up -/

def felling (st source : Nat) (halt : Bool) : State :=
  { live with fell := { live.fell with st := st, reason := 0xFF01#16, source := source }, mod := { live.mod with haltN := halt } }
def inOp (o : OpState) : State := { live with mod := { live.mod with op := o } }
def fellRec (f reason : Nat) : Nat := 12 + f * 2 ^ 21 + reason * 2 ^ 64
theorem witness_FellsStopTheDeviceAndResumesRestartIt :
    (portWorks live .f = true ∧ romOnly live = false ∧ 0xFF00 ≤ (0xFF00#16).toNat ∧ (0xFEFF#16).toNat < 0xFF00 ∧
      (inOp .start).mod.op = .start ∧ portWorks (inOp .start) .f = true ∧ live.mod.op ≠ .start ∧ live.mod.op ≠ .standby ∧ live.felled = false) ∧
    (∀ h, portWorks (felling 2 0 h) .f = true ∧ romOnly (felling 2 0 h) = false ∧ (felling 2 0 h).fell.st = 2 ∧ (felling 2 0 h).mod.haltN = h ∧
      (felling 2 0 h).felled = true) ∧
    ((felling 1 0 true).fell.st = 1 ∧ cutReady (felling 1 0 true) = true ∧
      cutReady { felling 1 0 true with ctxs := [(1, { oneCtx with stopping := true })] } = false ∧ (felling 3 0 true).fell.st = 3) ∧
    (Takes (running (fellRec 0 0x77)) 0 12 (fun _ => true) (execOfRec (fellRec 0 0x77) .running) (running (fellRec 0 0x77)) (qRunning (fellRec 0 0x77) none) ∧
      Takes (running (fellRec 0 0xFF00)) 0 12 (fun _ => true) (execOfRec (fellRec 0 0xFF00) .running) (running (fellRec 0 0xFF00)) (qRunning (fellRec 0 0xFF00) none)) ∧
    (ExecPhase.running ≠ .waiting ∧ (qRunning (fellRec 0 0x77) none).f = 0 ∧ recGet (recOfBits (fellRec 0 0x77)) 79 64 = 0x77 ∧ (running (fellRec 0 0x77)).fell.st = 0) ∧
    (∀ x, x ∈ [OpState.start, .standby, .service] → (inOp x).mod.haltN = true ∧ (inOp x).mod.op = x ∧ (inOp x).fell.st = 0) ∧
    ((felling 2 2 false).mod.haltN = false ∧ (felling 2 2 false).fell.source = 2) :=
  ⟨by decide +kernel, by decide +kernel, by decide +kernel, ⟨takes_live (by decide +kernel) (by decide +kernel), takes_live (by decide +kernel) (by decide +kernel)⟩,
    by decide +kernel, by decide +kernel, by decide +kernel⟩

def noCtx (o : OpState) : State := { inOp o with ctxs := [] }
def atRest : State :=
  let b : Bay := { Bay.offBay with st := .asleep }
  { inOp .standby with mod := { (inOp .standby).mod with draining := true }, bays := [(0, b), (1, b), (2, b), (3, b)] }
def switchedOff (mv : Nat) (n : Bool) : State :=
  { live with mod := { live.mod with switchClosed := false, inputMv := mv, modResetN := n } }
def heldReset : State := { live with mod := { live.mod with modResetN := false, phase := .off } }
theorem witness_OperatingStatesAndPowerFollowTheirRules :
    (∀ o, o ∈ [OpState.service, .test, .recovery, .standby, .start] →
      portWorks (inOp o) .f = true ∧ romOnly (inOp o) = false ∧ (inOp o).mod.op = o ∧ (noCtx o).ctxs = [] ∧ (inOp o).ctxs ≠ [] ∧ portWorks (noCtx o) .f = true) ∧
    (atRest.mod.op = .standby ∧ atRest.mod.draining = true ∧ ∀ n, n < 4 → bayUp atRest n = false) ∧
    (∀ n, (switchedOff 56000 n).mod.switchClosed = false ∧ (switchedOff 56000 n).mod.modResetN = n ∧ 48000 < 62000 ∧
      62000 < (if 62000 < (switchedOff 56000 n).mod.inputMv then 61000 else 62001)) ∧
    (60999 < (if 62000 < (switchedOff 62001 true).mod.inputMv then 61000 else 62001)) ∧
    (live.mod.switchClosed = true ∧ live.mod.modResetN = true ∧ heldReset.mod.switchClosed = true ∧ heldReset.mod.modResetN = false ∧ heldReset.mod.phase = .off) :=
  ⟨by decide +kernel, by decide +kernel, by decide +kernel, by decide +kernel, by decide +kernel⟩

/-- Start-up runs; an erased slot holds no image. -/
def starting (slot result : Nat) (key : Bool) : State :=
  { live with
    mod := { live.mod with op := .start, phase := .running, startResult := result, haltSeen := true },
    flash := { live.flash with factory := false },
    trust := { live.trust with runSlot := slot, keyDerived := true, keyAvailable := key } }
def notDerived : State := { starting 0 0 true with trust := { (starting 0 0 true).trust with keyDerived := false } }
/-- Whether an image verifies is open (log entry 10): a state in which the running slot boots is one in which the two signatures of its
images do; the other hypotheses are met whether or not they do. -/
theorem witness_StartUpEndsAndTimeGoesOn :
    State.reset.mod.phase = .released ∧
    (notDerived.trust.keyDerived = false ∧ notDerived.mod.phase = .running) ∧
    (∀ k, (starting 0 3 k).mod.phase = .running ∧ (starting 0 3 k).trust.keyDerived = true ∧ (starting 0 3 k).mod.startResult ≠ 0) ∧
    ((starting 0 0 true).mod.startResult = 0 ∧ (starting 0 0 true).mod.haltSeen = true ∧ (starting 0 0 true).fell.st = 0) ∧
    (∀ k, (starting 0 0 k).trust.keyAvailable = k ∧ bootable (starting 0 0 k) (starting 0 0 k).trust.runSlot = false ∧
      bootable (starting 0 0 k) (inactiveSlot (starting 0 0 k)) = false) ∧
    (timeRuns live = true ∧ timeRuns heldReset = false ∧ live.mod.fullAt < live.now / 65536 ∧
      live.now / 65536 ≤ ({ live.mod with fullAt := 15 } : ModuleSt).fullAt ∧ 1 < 2 ∧ live.mod.refclk[1]? = some true) := by
  refine ⟨by decide +kernel, by decide +kernel, by decide +kernel, by decide +kernel, ?_, by decide +kernel⟩
  decide +kernel

/-! ## Trust -/

def updating (op : Option UpdOp) (trial pend w : Bool) : State :=
  { oneCore with trust := { oneCore.trust with op := op, done := op.isNone, onTrial := trial, pend := pend, writable := w, keyAvailable := true },
                 flash := { oneCore.flash with slotB := [(5, 0xF0#8)] } }
theorem witness_UpdatesChangeOnlyTheInactiveSlotAndTheBootRecord :
    (pfAgent live .dbg = false ∧ pfAgent oneCore .dbg = true ∧ oneCore.trust.done = true ∧
      (updating (some .erase) false false false).trust.done = false) ∧
    (∀ x, x ∈ [(UpdOp.erase, false, false), (.cancel, false, true), (.confirm, true, false)] →
      (updating (some x.1) x.2.1 x.2.2 false).trust.op = some x.1 ∧ updateResult (updating (some x.1) x.2.1 x.2.2 false) x.1 true = 0) ∧
    (updateResult (updating (some .erase) true false false) .erase true = 3 ∧ updateResult (updating (some .erase) false false false) .erase false = 4) ∧
    ((updating none false false true).trust.writable = true ∧ (updating none false false true).trust.done = true ∧
      slotShape .dbg 5 2 = true ∧ Memory.wf (slotMem (updating none false false true) (inactiveSlot (updating none false false true))) = true ∧
      (updating none false false false).trust.writable = false ∧ slotShape .dbg 0x1000000 1 = false) :=
  ⟨by decide +kernel, by decide +kernel, by decide +kernel, by decide +kernel⟩

def talking (phase : Nat) (key : Bool) : State := { live with trust := { live.trust with spdm := [(1, phase)], keyAvailable := key } }
def spdmFrame (msg : List Byte) (ver : BitVec 4) : SpdmFrame :=
  { env := env0, ver := ver, kind := 0, z1 := 0, seq := 7, z2 := 0, len := BitVec.ofNat 16 msg.length, msg := msg }
theorem witness_MeasurementsAndSpdmRequestsAreAnswered :
    (spdmWorks { live with ports := [] } (.doe 1) = false ∧ spdmWorks (talking 0 true) (.doe 1) = true ∧ negotiated (talking 0 true) (.doe 1) = false) ∧
    (∀ k, negotiated (talking 3 k) (.doe 1) = true ∧ spdmWorks (talking 3 k) (.doe 1) = true ∧ (talking 3 k).trust.keyAvailable = k) ∧
    (spdmWorks live .portF = true ∧ spdmHeaderOk (spdmFrame [0x12, 0x84] 1) = true ∧ (spdmFrame [0x12, 0x84] 1).msg.take (spdmFrame [0x12, 0x84] 1).len.toNat = [0x12, 0x84]) ∧
    (([0x12#8, 0xE4#8][1]?).getD 0#8).toNat = 0xE4 ∧ spdmReply .portF 3 0xE4 = none ∧ fgetD live.trust.spdm (transportKey .portF) 0 = 0 ∧
    (4 ≤ fgetD (talking 4 true).trust.spdm 1 0 ∧ spdmWorks (talking 4 true) (.doe 1) = true ∧
      [0x12#8, 0xFE#8, 0, 0, 0, 0, 0, 0, 0, 0, 0, 0, 4][11]? = some 0#8 ∧ [0x12#8, 0xFE#8, 0, 0, 0, 0, 0, 0, 0, 0, 0, 0, 4][12]? = some 4#8) ∧
    (moduleOn live = true ∧ romOnly live = false ∧ spdmHeaderOk (spdmFrame [0x12] 2) = false) :=
  ⟨by decide +kernel, by decide +kernel, by decide +kernel, by decide +kernel, by decide +kernel, by decide +kernel, by decide +kernel, by decide +kernel⟩

/-! ## Observation and debug -/

def sampling (base : W64) : State :=
  { oneCore with obs := { oneCore.obs with smpBase := base, smpN := 4, sel := 0#9, period := 1000, nextSample := 5 } }
theorem witness_LogAcknowledgementTickAndSampleAct :
    (pfAgent live .dbg = false ∧ pfAgent oneCore .dbg = true) ∧
    (sampleDue live = false ∧ sampleDue (sampling 0x2000) = true ∧ sampleFits (sampling 0x2000) = true ∧ sampleFits (sampling 0xFFFFFFFFFF00) = false) ∧
    (let s : State := { oneCore with obs := { oneCore.obs with banks := [(5, { epoch := 1, run := [], last := [] }), (0x10000, { epoch := 1, run := [(0, 3)], last := [] })] } }
     pfAgent s .dbg = true ∧ fget s.obs.banks 0x10000 = some { epoch := 1, run := [(0, 3)], last := [] }) :=
  ⟨by decide +kernel, by decide +kernel, by decide +kernel⟩

theorem debug_of_check {s : State} {ps : List (Nat × Nat)}
    (h : (match debugAsk s ps with
      | (false, s1) => (debugTake s1 ps).2.1 == 0
      | (true, _) => false) = true) : ∃ s1 b s2, debugAsk s ps = (false, s1) ∧ debugTake s1 ps = (b, 0, s2) := by
  split at h
  · rename_i s1 hs
    refine ⟨s1, (debugTake s1 ps).1, (debugTake s1 ps).2.2, hs, ?_⟩
    have : (debugTake s1 ps).2.1 = 0 := by simpa using h
    rw [← this]
  · cases h
def openLine : State := { withLine live 8 with dbg := { live.dbg with opened := true } }
def openOp (o : OpState) : State := { inOp o with dbg := { live.dbg with opened := true } }
def locked (t : Nat) : State := { live with dbg := { live.dbg with lockedUntil := t } }
def asked : State := { live with dbg := { live.dbg with nonce := some (List.replicate 32 7#8, live.now), fails := 2 } }
/-- Whether a key verifies is open (log entry 10): the last clause meets `unlockOk` where it does. -/
theorem witness_DebugOperationsAreGatedAndAnswered :
    (moduleOn live = true ∧ live.dbg.opened = false ∧ moduleOn openLine = true ∧ openLine.dbg.opened = true) ∧
    ((12#16).toNat % 8 ≠ 0 ∧ 1024 < (1032#16).toNat ∧ (0x2004#48).toNat % 8 ≠ 0 ∧ (8#16).toNat % 8 = 0 ∧ 8 ≤ (8#16).toNat ∧ (0x2000#48).toNat % 8 = 0) ∧
    (debugReach openLine false (0x00D000000000#48).toNat 8 = false ∧ debugReach openLine false (0x2000#48).toNat 8 = true ∧ debugBusy openLine = false ∧
      ∃ s1 b s2, debugAsk openLine (barPieces 8 0x2000 8) = (false, s1) ∧ debugTake s1 (barPieces 8 0x2000 8) = (b, 0, s2)) ∧
    (1152 < (List.replicate 1153 0#8).length ∧ [1#8, 2].length ≤ 1152 ∧ regionOf 0x2000 = .dram ∧ [1#8, 2].length ≤ pieceRoom 0x2000 ∧ openLine.reqIds = true ∧
      debugReach openLine true 0x2000 2 = true ∧ regionOf 0x00D000000000 ≠ .chute ∧ debugReach openLine true 0x00D000000000 2 = false) ∧
    (romOnly openLine = false ∧ openLine.mod.op ≠ .start ∧ openLine.mod.op ≠ .standby ∧ openLine.fell.st = 0 ∧ (openOp .start).mod.op = .start ∧
      (openOp .start).dbg.opened = true) ∧
    (let s : State := { felling 2 0 true with dbg := { live.dbg with opened := true } }
     s.fell.st = 2 ∧ s.mod.haltN = true ∧ s.dbg.opened = true ∧ moduleOn s = true) ∧
    (openLine.mod.op ≠ .test ∧ (openOp .test).mod.op = .test ∧ 2 ^ 20 ≤ (0x100000#32).toNat ∧ (0xFFFFF#32).toNat < 2 ^ 20) ∧
    ((locked 500).dbg.lockedUntil ≠ 0 ∧ (locked 500).dbg.lockedUntil ≤ (locked 500).now ∧ live.dbg.lockedUntil = 0 ∧ (locked 2000000).now < (locked 2000000).dbg.lockedUntil ∧
      live.dbg.lockedUntil ≤ live.now) ∧
    ((List.replicate 1152 0#8).length = 1152 ∧ unlockOk live [] = false ∧ 2 ≤ asked.dbg.fails ∧
      ((∀ a b c, Config.pssVerifies a b c = true) → unlockOk asked (List.replicate 1152 0#8) = true)) ∧
    (live.mod.op ≠ .start ∧ (next .moduleReset live).mod.op = .start) := by
  refine ⟨by decide +kernel, by decide +kernel, ⟨by decide +kernel, by decide +kernel, by decide +kernel, debug_of_check (by decide +kernel)⟩, by decide +kernel,
    by decide +kernel, by decide +kernel, by decide +kernel, by decide +kernel, ⟨by decide +kernel, rfl, by decide +kernel, fun h => ?_⟩, by decide +kernel⟩
  have hn : asked.dbg.nonce = some (List.replicate 32 7#8, live.now) := rfl
  simp only [unlockOk, hn, h, Bool.and_true, decide_eq_true_eq]
  exact Nat.le_add_right _ _

def shifted (req : List W32) : State := { live with dbg := { live.dbg with req := req, resp := [5#32] } }
def openTest : State := openOp .test
/-- A whole frame that asks for STATUS: eight times 16 header bits, operation 6 above. -/
def statusBody : List Byte := leBytes 2 16 ++ leBytes 16 (6 * 2 ^ 120)
theorem witness_TheTapAndTheUartCarryDebugRequests :
    (moduleOn (shifted []) = true ∧ (0#34).getLsbD 33 = false ∧ (0x200000001#34).getLsbD 33 = true ∧ requestWhole (shifted [0, 0, 0, 0x06000000]).dbg.req = true ∧
      requestWhole (shifted [0, 0, 0]).dbg.req = false ∧ (0x206000000#34).getLsbD 33 = true ∧
      requestWhole ((shifted [0, 0, 0]).dbg.req ++ [(0x206000000#34).truncate 32]) = true ∧ requestWhole (shifted []).dbg.req = false ∧ requestWhole ([] ++ [(0x200000001#34).truncate 32]) = false) ∧
    (crc32 statusBody = crc32 statusBody ∧ crc32 [] ≠ 5 ∧ leNat (statusBody.take 2) + 2 = statusBody.length ∧ 18 ≤ statusBody.length) ∧
    ((statusBody.drop 18).length = debugDataLen (leNat ((statusBody.drop 2).take 16)) ∧ [1#8].length ≠ debugDataLen (leNat ((statusBody.drop 2).take 16)) ∧
      bits (leNat ((statusBody.drop 2).take 16)) 103 96 = 0 ∧ bits (leNat ((statusBody.drop 2).take 16)) 119 104 ≤ 1152 ∧
      bits (leNat ((statusBody.drop 2).take 16)) 127 120 = 6) ∧
    (live.dbg.opened = false ∧ openLine.dbg.opened = true ∧ openLine.mod.op ≠ .test ∧ openTest.dbg.opened = true ∧ openTest.mod.op = .test ∧
      moduleOn openTest = true) ∧
    (let v : W64 := 9 + 2 * 2 ^ 8 + 60000 * 2 ^ 16
     bits v.toNat 7 0 ≤ 9 ∧ bits v.toNat 15 8 ≤ 2 ∧ 0 < bits v.toNat 47 16 ∧ bits v.toNat 47 16 ≤ 60000 ∧ v.getLsbD 48 = false) :=
  ⟨by decide +kernel, by decide +kernel, by decide +kernel, by decide +kernel, by decide +kernel⟩

theorem test_haltn_fall_fells : (next .haltNFall live).fell.st = 1 := by decide +kernel
theorem test_an_erase_empties_the_inactive_slot :
    slotMem (next (.updateOperationDone true) (updating (some .erase) false false false)) 1 = [] := by decide +kernel
theorem test_turn_off_clears_the_fault_log : (next (.turnOff .undervoltage) live).flog.count = 0 := by decide +kernel
theorem test_flog_ack_stays_below_the_count : (next (.flogAck .dbg 9) oneCore).flog.ack = 0#64 := by decide +kernel
/-! ## Rules of one sentence, the block -/

theorem witness_PredicateSevenReadsAsOneAndDiscardsWrites :
    legalSetp (fr 7 1 2 0 0) = true ∧ (fr 7 1 2 0 0).d = 7#7 ∧
    ∀ x, x ∈ [(0x00 : BitVec 7), 0x01, 0x02, 0x03].map (fun fn => (regWord ⟨0x0D, fn⟩ (fr 7 1 2 0 0), regsOf (regWide (fr 7 1 2 0 0)) [(fr 7 1 2 0 0).a, (fr 7 1 2 0 0).b])) →
      IssuesWord blive true x.1 x.2 bwh bp :=
  ⟨by decide +kernel, by decide +kernel, all_issue (by decide +kernel)⟩

/-- Forms whose mask is register u3, which reads 0, and one under guard p1. -/
def maskReg (f : FCol) : FCol := { f with ms := 1#1, mask := 3#16 }
def voteForm (d : BitVec 7) : FCol := { fc d 0 0 0 with ms := 1#1, mask := 3#16, di := 0#1 }
def tileMask (f : FTile) : FTile := { f with ms := 1#1, mask := 3#16 }
def guarded : FCol := { bcol with gp := 1#3 }
def tileGuarded (f : FTile) : FTile := { f with gp := 1#3 }
def colCodes : List Code := [⟨0x20, 0x00⟩, ⟨0x20, 0x01⟩, ⟨0x20, 0x02⟩, ⟨0x20, 0x03⟩, ⟨0x21, 0x00⟩, ⟨0x21, 0x01⟩, ⟨0x21, 0x02⟩]
def tileForms : List (TileKind × BitVec 6 × FTile) :=
  [(.mac, 0x28, ft 0 65 66 0 0), (.seq, 0x29, ft 0 65 66 67 0), (.st, 0x2B, ft 0 65 0 0 0), (.fold, 0x2A, ft 0 65 66 67 0)]
def tileKeys (g : FTile) : List Nat := [g.a, g.b, g.c].flatMap (fun r => if isU r then regKeys 1 r else []) ++ maskKeys g.ms g.mask
def oldMode : State := odPut blive 0x6010 6 [1]
theorem runsFor_old (word : W64) : RunsFor (coded oldMode word) w0 1 := ⟨bwh, oneKern, oneCtx, rfl, rfl, rfl, rfl, rfl⟩
theorem witness_CollectivesNeedGuardSevenAndAMember :
    (∀ word, RunsFor (coded blive word) w0 1 ∧ RunsFor (coded oldMode word) w0 1) ∧
    (guardAll guarded.gn guarded.gp = false ∧ (fc 3 1 1 0).ms = 0#1 ∧ (fc 3 1 1 0).mask = 0#16 ∧
      ∀ x, x ∈ colCodes.flatMap (fun c => [(colWord c guarded, []), (colWord c (fc 3 1 1 0), [])]) → IssuesWord blive true x.1 x.2 bwh bp) ∧
    (guardAll (maskReg bcol).gn (maskReg bcol).gp = true ∧ maskFieldOk (maskReg bcol).ms (maskReg bcol).mask = true ∧
      memberMask bwh 1#1 3#16 = 0#16 ∧ legalShfl (maskReg bcol) = true ∧ legalVote (voteForm 2) false = true ∧ legalVote (voteForm 3) true = true) ∧
    (∀ x, x ∈ (colCodes.take 4).map (fun c => (colWord c (maskReg bcol), [(3#7 : BitVec 7), 1#7].flatMap (regKeys 1) ++ maskKeys 1#1 3#16)) ++
        [(colWord ⟨0x21, 0x00⟩ (voteForm 2), maskKeys 1#1 3#16), (colWord ⟨0x21, 0x01⟩ (voteForm 2), maskKeys 1#1 3#16),
          (colWord ⟨0x21, 0x02⟩ (voteForm 3), regKeys 1 3#7 ++ maskKeys 1#1 3#16)] → IssuesWord blive true x.1 x.2 bwh bp) ∧
    (∀ k op g, (k, op, g) ∈ tileForms → guardAll (tileGuarded g).gn (tileGuarded g).gp = false ∧ g.ms = 0#1 ∧ g.mask = 0#16 ∧
      guardAll (tileMask g).gn (tileMask g).gp = true ∧ maskFieldOk (tileMask g).ms (tileMask g).mask = true ∧ legalTile k (tileMask g) = true) ∧
    (∀ x, x ∈ tileForms.flatMap (fun y => [(tileWord ⟨y.2.1, 0x00⟩ (tileGuarded y.2.2), []), (tileWord ⟨y.2.1, 0x00⟩ y.2.2, []),
        (tileWord ⟨y.2.1, 0x00⟩ (tileMask y.2.2), tileKeys (tileMask y.2.2))]) →
      IssuesWord blive false x.1 x.2 bwh bp ∧ IssuesWord oldMode false x.1 x.2 bwh bp) ∧
    (∀ x, x ∈ tileForms → sn2Mode (coded oldMode (tileWord ⟨x.2.1, 0x00⟩ (tileMask x.2.2))) w0 = true) :=
  ⟨fun word => ⟨runsFor_coded _ word rfl, runsFor_old word⟩, ⟨by decide +kernel, rfl, rfl, all_issue (by decide +kernel)⟩, by decide +kernel,
    all_issue (by decide +kernel),
    fun k op g h => by
      simp only [tileForms, List.mem_cons, Prod.mk.injEq, List.mem_nil_iff, or_false] at h
      obtain ⟨rfl, rfl, rfl⟩ | ⟨rfl, rfl, rfl⟩ | ⟨rfl, rfl, rfl⟩ | ⟨rfl, rfl, rfl⟩ := h <;> decide +kernel,
    fun x h => ⟨all_issue (by decide +kernel) x h, all_issue (by decide +kernel) x h⟩, by decide +kernel⟩

/-- Two commands wait. -/
def waitingState : State := { live with pending := [.throttleNAssert, .haltNFall] }
theorem witness_AStepRunsTheFrontCommand : waitingState.pending = Instr.throttleNAssert :: [.haltNFall] ∧ State.reset.pending = [] := ⟨rfl, rfl⟩

def stepped (s : State) : State :=
  match step s with
  | .next t => t
  | _ => s
theorem witness_EveryStepTakesOneCommandAndKeepsTheGeneration :
    waitingState.pendingWf = true ∧ ∃ t, step waitingState = .next t ∧ t.power.throttled = true :=
  ⟨by decide +kernel, stepped waitingState, rfl, by decide +kernel⟩

theorem witness_EveryStepKeepsMemoryCanonical :
    State.reset.memWf = true ∧ ({ updating none false false true with pending := [.slotWrite .dbg 5 [0xF0#8]] } : State).memWf = true ∧
    ∃ t, step { updating none false false true with pending := [.slotWrite .dbg 5 [0x70#8]] } = .next t ∧ t.flash.slotB = [(5, 0xFF#8)] :=
  ⟨by decide +kernel, by decide +kernel, stepped { updating none false false true with pending := [.slotWrite .dbg 5 [0x70#8]] }, rfl, by decide +kernel⟩

theorem test_no_word_spells_a_command : decodeTableWord 64 0x1234 = none := rfl
theorem test_fetch_places_nothing : State.reset.withFetchWord 64 0x1234 = State.reset := rfl
/-! ## Ill-formed commands -/

theorem test_ill_formed_whorls_and_cores : ∀ c, c ∈ [Instr.nop ⟨12288, 0⟩ (fr 0 0 0 0 0), .rdsr ⟨0, 8⟩ (fr 0 0 0 0 0), .pathSwitch ⟨12288, 7⟩, .tileStart 12288,
    .portBYield 12288, .fillerPass 12288, .granuleZero 12288 0, .granuleZero 0 32, .coreFailed 12288 0, .groveFailure 768] → c.wellFormed = false := by
  decide
theorem test_ill_formed_lines_and_slices : ∀ c, c ∈ [Instr.missFill (2 ^ 38) 0 0, .heldRequestRelease 128, .lineMove (2 ^ 38) true, .rebuild (2 ^ 38) true,
    .zeroing (2 ^ 38), .birspi 2 0 0, .birspi 0 (2 ^ 38) 0, .birsps 0 0 4, .birspe 1 0 4, .biconflict 0 (2 ^ 38), .biconflict 2 0, .biTimeout (2 ^ 38) 0, .biTimeout 0 4,
    .dirtyWritebackPeriod 8, .patrolScrub 1024 0 0 0 0, .patrolScrub 0 786432 0 0 0, .stripeBufferClose 1024 0, .stripeBufferClose 0 786432,
    .mirrorCopy 32] → c.wellFormed = false := by
  decide
theorem test_ill_formed_functions_and_host_ports : ∀ c, c ∈ [Instr.biasFlipShared 64 0 0, .biasFlipDeviceOwned 0 2 0, .biasFlipDone 64, .biasDone 64,
    .adminOperationDone 64, .ctxCreate 64 0 0 0 [], .qDestroy 64 0 0 0, .graphDestroy 64 0 0 0, .bar4Read 2 0 0 8, .bar4Write 0 64 0 [], .errCause 64 0,
    .functionLevelReset 64, .vfDisable 2 0, .vfEnable 0 64 true 0 0, .vfEnable 2 0 true 0 0, .tlbInv 64 0, .tlbInvDone 64, .linkDown 2, .linkUp 2,
    .hotReset 2, .perstAssert 2, .perstRelease 2, .timeSourceChange 2, .referenceClockReturn 2, .linkLossReset 2, .ideIntegrityFailure 2,
    .atsInvalidation 2 0 0 0, .atsTranslationCompletion 2 0 0 true true true, .memclnevct 2 0] → c.wellFormed = false := by
  decide
theorem test_ill_formed_contexts_queues_and_chutes : ∀ c, c ∈ [Instr.contextStopDone 4096, .tail (.host 64 0) 0 0 [], .tail (.host 0 2) 0 0 [], .tail (.core 4096) 0 0 [],
    .chead (.core 0) 4096 0, .slotFetch 4096 [], .kernel (.queue 4096), .copy (.node 0 65536) [], .graphLaunch 4096, .jobBegin 4096, .claimHeld 4096, .jobEnd 4096,
    .flush (some (.queue 4096)) 0, .flush none 256, .fellCommand 4096, .word (.hostPort 2) 0 0, .word (.rafter 2) 0 0, .word .dma 256 0,
    .lastn .dma 0 0 0, .lastn .dma 0 9 0, .producerResume 256, .flogAck (.core 4096) 0, .eptick (.dma 4096) 0] → c.wellFormed = false := by
  decide
theorem test_ill_formed_joints_sessions_and_domains : ∀ c, c ∈ [Instr.laneRepair 10 0 0 true, .laneRepair 0 16 0 true, .tenonRetrain 10 0, .tenonRetrainDone 0 16,
    .readmit .f 2, .rafterClock 2 true, .ethernetPortDown 2 0, .ethernetPortUp 0 2, .rafterAck { rhdr 0 0 0 0 with die := 2 }, .synResend 1024, .ackTimer 1024,
    .retransmitTimeout 1024, .keepaliveSend 1024, .keepaliveLost 1024, .domainGate 80, .domainWakeDone 80, .domainGateDone 80, .domainFailed 80,
    .baySleepRequest .f 4, .bayWakeRequest (.request .f) 4, .baySleepEntered 4, .bayWakeDone 4, .drainConfirmTimeout 4, .bayReturned 4,
    .bayReturnTimeout 4, .slotWrite (.core 4096) 0 [], .erase (.dma 4096)] → c.wellFormed = false := by
  decide
theorem test_ill_formed_joint_packets : ∀ h : JHdr, (Instr.rds 2 h).wellFormed = false ∧ (Instr.jointWr 2 h []).wellFormed = false ∧ (Instr.ack 2 h).wellFormed = false :=
  fun _ => ⟨rfl, rfl, rfl⟩
theorem test_edges_are_well_formed : ∀ c, c ∈ [Instr.nop ⟨12287, 7⟩ (fr 0 0 0 0 0), .groveFailure 767, .lineMove (2 ^ 38 - 1) true, .lastn .dma 255 8 0, .lastn .dma 0 1 0,
    .bar4Read 1 63 0 8, .laneRepair 9 15 0 true, .domainGate 79, .synResend 1023, .tail (.host 63 1) 4095 0 []] → c.wellFormed = true := by
  decide

/-- An invalidation of one page drops a translation cached from any page of its 64 KiB group (R337, R339). -/
theorem test_a_group_translation_serves_its_span :
    servesSpan (1, 0x21, 0x80#64) 0x2F 1 = true ∧ servesSpan (1, 0x21, 0x80#64) 0x30 1 = false ∧ servesSpan (1, 0x21, 0#64) 0x2F 1 = false := by
  decide +kernel
end Sys2Proof.Tests
end

/-! PROOFS. The state at the release point of a power-on (R493), and why it meets the invariants that every step keeps. -/

namespace Sys2Proof.Machine

/-! ## What a state with empty tables satisfies -/

theorem pendingWf_of_pending_nil {s : State} (h : s.pending = []) : s.pendingWf = true := by
  simp only [State.pendingWf, h, List.all_nil]

theorem reqIds_of_reqs_nil {s : State} (h : s.mem.reqs = []) : s.reqIds = true := by
  simp only [State.reqIds, h, List.all_nil]

/-- ALERT_N stays released while the fault log has counted no entry and the phase is not the held one. -/
theorem alertAsserted_of_count_zero {s : State} (hc : s.flog.count = 0) (hp : s.mod.phase ≠ .held) : alertAsserted s = false := by
  simp [alertAsserted, hc, hp]

/-! ## The state after reset -/

/-- Domain 76 is the one entry of the reset state's table of domains; any other reads as a domain that is off. -/
theorem reset_dom (g : Nat) : State.reset.dom g = if g = 76 then { Dom.offDom with st := .on } else Dom.offDom := by
  have hdoms : State.reset.doms = fset [] 76 { Dom.offDom with st := .on } := rfl
  rw [State.dom, hdoms, fgetD_fset]
  rfl

theorem reset_dom_76_on : (State.reset.dom 76).st = .on := by rw [reset_dom, if_pos rfl]

theorem reset_dom_off {g : Nat} (h : g ≠ 76) : (State.reset.dom g).st = .off := by rw [reset_dom, if_neg h]; rfl

/-- The six memories of the module and the two flash slots are empty at reset, and an empty memory is canonical. -/
theorem reset_memWf : State.reset.memWf = true := by
  have hmem : State.reset.mem = MemSys.blank := rfl
  have hflash : State.reset.flash = Flash.shipped := rfl
  simp only [State.memWf, hmem, hflash, MemSys.blank, Flash.shipped, wf_nil, Bool.and_self]

theorem reset_alert_released : alertAsserted State.reset = false :=
  alertAsserted_of_count_zero rfl (show StartPhase.released ≠ StartPhase.held by decide)

/-- Settles O58: a field that stands in the reset state is read off it; the domains, the alert and the three invariants rest on the
lemmas above. -/
theorem resetLeavesTheBlockInStart : Obligations.ResetLeavesTheBlockInStart := by
  unfold Obligations.ResetLeavesTheBlockInStart
  exact ⟨rfl, rfl, rfl, rfl, rfl, rfl, rfl, rfl, rfl, rfl, rfl, reset_alert_released, rfl, rfl, rfl, rfl,
    reset_dom_76_on, fun _ h => reset_dom_off h, rfl,
    reset_memWf, pendingWf_of_pending_nil rfl, reqIds_of_reqs_nil rfl, rfl, rfl, rfl⟩

end Sys2Proof.Machine

/-! PROOFS. What TILE_START leaves where the queue head is a TILE.ZERO (R112, R117), and why the clear of one tile may change what
another tile reads: the statement is about every state, and so about whorls whose accumulator map is not in ascending key order. -/

namespace Sys2Proof.Machine

/-! ## The end of a step that retires no whorl and unblocks no release -/

/-- A whorl that still has paths keeps its slot (R57). -/
theorem retireWhorl_of_paths {s : State} {w : Wid} {wh : Whorl} (h : whorlOf s w = some wh) (hp : wh.paths ≠ []) :
    retireWhorl s w = s := by
  simp [retireWhorl, h, hp]

theorem unblock_of_noBlocked {s : State} (h : NoBlocked s) : unblock s = s := by
  have hnone : (s.mem.reqs.filter fun r => r.phase == .blocked) = [] := by simpa [NoBlocked] using h
  rw [unblock, hnone]
  rfl

/-! ## TILE_START of a TILE.ZERO -/

/-- The state in which a queue head is carried out: its slot has taken the turn, and the step is counted (R112, Table 18.1). -/
def tileTaken (s : State) (core slot : Nat) : State :=
  count (count (s.setCore core { s.core core with tileRr := slot }) (coreBank core 0) 0 1) (coreBank core 0) 6 1

/-- A head that clears a tile reads no memory, so no walk and no fault stands before it (R117). -/
theorem exec_tileStart_zero {s : State} {core slot : Nat} {wh : Whorl} {o : TileOp} {rest : List TileOp}
    (hrun : coreRuns s core = true) (hyield : ((s.core core).yield && remoteWaits s core) = false)
    (hslot : nextTileSlot s core = some slot) (hwh : whorlOf s ⟨core, slot⟩ = some wh) (hq : wh.tileQ = o :: rest)
    (hpaths : wh.paths ≠ []) (hblocked : NoBlocked s) (hkind : o.kind = .zero) :
    exec (.tileStart core) s = .next (putWhorl (tileTaken s core slot) ⟨core, slot⟩
      (queueFreed s.now { tileClear wh o.f.ty.toNat o.f.acc.toNat with tileQ := rest })) := by
  have hwalks : rangesNeed s (whorlCtx s wh) (tileRanges s (whorlCtx s wh) core o) = none := by
    simp [tileRanges, hkind, entryRanges, rangesNeed]
  have hstart : ∀ s1, startTile s1 ⟨core, slot⟩ wh o = .ok s1 (tileClear wh o.f.ty.toNat o.f.acc.toNat) := fun s1 => by
    simp only [startTile, hkind]
  show execTileStart core s = _
  simp only [execTileStart, hrun, hyield, hslot, hwh, hq, hwalks, hstart]
  rw [retireWhorl_of_paths (whorlOf_putWhorl _ _ _) (by exact hpaths), unblock_of_noBlocked (by exact hblocked)]
  rfl

/-! ## The counterexample -/

/-- A queued TILE.ZERO of tile 1. -/
def clearTile1 : TileOp :=
  { kind := .zero, a := 0#64, b := 0#64, c := 0#64, pc := 0x1000#64, lanes := 1#16, mark := 0,
    f := { gn := 0#1, gp := 7#3, acc := 1#2, ty := 0#4, a := 0#7, b := 0#7, c := 0#7, rnd := 0#2, sat := 0#1, ms := 0#1, mask := 0#16 } }

/-- A resident kernel of context 1 with one whorl, on core 0. -/
def residentKern : Kern :=
  { src := .queue 0, q := 0, seq := 0, ctx := 1, part := 0, cls := 0, pc := 0x1000#64, args := 0#64, hint := 0#64, hlog := 0,
    tlim := 0, rsafe := true, tpw := 1, wpc := 1, gran := 0, nwh := 1, next := 1, left := 1, st := .resident, repl := 0,
    chuteTaken := false, first := [], cores := [0], charged := 0, placedAt := 0, startAt := [], readySince := 0, ranFor := 0,
    saved := [], savedStore := [], pending := none, endAt := 0, lastAck := 0 }

/-- Element 0 of tile 1 (key 16) stands before element 0 of tile 0 (key 0): a read of key 0 ends at key 16 and gives 0. -/
def disorderedWhorl : Whorl :=
  { newWhorl 1 residentKern 0 0 with acc := [(16, 5#32), (0, 7#32)], tileQ := [clearTile1] }

/-- Core 0 runs in SERVICE, and its slot 0 holds that whorl. -/
def disorderedState : State :=
  { State.reset with
    mod := { State.reset.mod with op := .service }
    bays := [(0, { Bay.offBay with st := .running })]
    doms := [(0, { Dom.offDom with st := .on })]
    cores := [(0, { Core.blank with slots := [(0, disorderedWhorl)] })]
    kerns := [(1, residentKern)] }

/-- Once tile 1 is cleared, the read of element 0 of tile 0 meets key 0. -/
theorem disorderedWhorl_cell_changes :
    disorderedWhorl.cell 0 0 = 0 ∧ (tileClear disorderedWhorl 0 1).cell 0 0 = 7 := by decide

/-- Refutes O15: its frame for TILE.ZERO, that no other tile changes, fails where the map of the tiles' elements is not in ascending
key order; no hypothesis of the statement excludes such a whorl. -/
theorem not_theTileSlotCarriesOutQueueHeads : ¬ Obligations.TheTileSlotCarriesOutQueueHeads := by
  unfold Obligations.TheTileSlotCarriesOutQueueHeads
  intro h
  have hrun : coreRuns disorderedState 0 = true := by decide +kernel
  have hyield : ((disorderedState.core 0).yield && remoteWaits disorderedState 0) = false := by decide +kernel
  have hslot : nextTileSlot disorderedState 0 = some 0 := by decide +kernel
  have hwh : whorlOf disorderedState ⟨0, 0⟩ = some disorderedWhorl := rfl
  have hpaths : disorderedWhorl.paths ≠ [] := List.cons_ne_nil _ _
  have hblocked : NoBlocked disorderedState := fun r hr => absurd hr List.not_mem_nil
  obtain ⟨hclauses, -⟩ := h disorderedState 0
  obtain ⟨hzero, -⟩ := hclauses 0 disorderedWhorl clearTile1 [] hrun hyield hslot hwh rfl hpaths rfl hblocked
  obtain ⟨t, wh', ht, hwh', -, -, -, hframe, -⟩ := hzero rfl
  rw [exec_tileStart_zero hrun hyield hslot hwh rfl hpaths hblocked rfl, Host.Outcome.next.injEq] at ht
  rw [← ht, whorlOf_putWhorl, Option.some.injEq] at hwh'
  have hsame : (tileClear disorderedWhorl 0 1).cell 0 0 = disorderedWhorl.cell 0 0 := by
    have hcell := hframe 0 0 (by decide) (by decide)
    rw [← hwh'] at hcell
    exact hcell
  obtain ⟨hbefore, hafter⟩ := disorderedWhorl_cell_changes
  omega

end Sys2Proof.Machine

/-! PROOFS. What the commands on a queue's doorbells, ring and state leave in its entry (R264, R271 to R278, Table 10.7). -/

namespace Sys2Proof.Machine

/-! ## Reads that leave the queues as they are -/

theorem Looked.queues {s t : State} (h : Looked s t) : t.queues = s.queues := by
  unfold Looked at h
  rw [h]

theorem grantDma_looked (s : State) (line : Nat) : Looked s (grantDma s line) := by
  unfold grantDma
  split
  · split <;> rfl
  · rfl

/-- A hit at a home, granted to the DMA cache or not, changes counters and lines alone. -/
theorem hitHome_looked (s : State) (pa len : Nat) (dc : Bool) (cls : Nat) : Looked s (hitHome s pa len dc cls) := by
  unfold hitHome
  extract_lets line r
  split
  · rfl
  · have ht := (countLookup_state s r).trans (touch_state _ line)
    cases dc
    · exact ht
    · exact ht.trans (grantDma_looked _ line)

theorem hostLearn_queues (s : State) (hw : List Host.Cell) (pa len : Nat) : (hostLearn s hw pa len).queues = s.queues := by
  unfold hostLearn
  split <;> rfl

/-- An engine's read that was asked for gives its bytes and drops its request. -/
theorem engineAsk_data_queues {s s1 : State} {a : Agent} {ctx pa len cls bad : Nat} {k : ReqKind} {b : List Byte} {p : Bool}
    (h : engineAsk s a ctx pa len k cls = .data b p bad s1) : s1.queues = s.queues := by
  unfold engineAsk at h
  split at h
  · split at h
    · split at h <;> cases h
      rfl
    · cases h
  · cases h

/-- Wherever the bytes come from, an engine's read that gives them leaves the queues. -/
theorem engineRead_data_queues {s s1 : State} {a : Agent} {ctx f pa len cls bad : Nat} {dc p : Bool} {hw : List Host.Cell}
    {b : List Byte} (h : engineRead s a ctx f dc pa len cls hw = .data b p bad s1) : s1.queues = s.queues := by
  unfold engineRead at h
  split at h
  · cases h
  · split at h
    case h_1 =>
      split at h
      · cases h
      · cases h; rfl
      · split at h
        · cases h; exact (hitHome_looked s pa len dc cls).queues
        · exact engineAsk_data_queues h
    case h_2 =>
      split at h <;> cases h
      · rfl
      · exact (classCount_state _ _ _ _ _ _).queues
    case h_3 =>
      extract_lets c at h
      split at h
      · cases h
      · cases h; rfl
      · split at h <;> cases h
        rfl
    case h_4 =>
      split at h
      · cases h
        split
        · rfl
        · exact hostLearn_queues s hw pa len
      · cases h
    case h_5 => exact engineAsk_data_queues h
    case h_6 => cases h; rfl
    case h_7 => cases h; rfl

/-- A range is read piece after piece; each piece is a translation and an engine's read. -/
theorem readVirt_data_queues {a : Agent} {ctx f cls : Nat} {dc : Bool} {hw : List Host.Cell} (n : Nat) {s s1 : State}
    {va len bad : Nat} {b : List Byte} {p : Bool} (h : readVirt a ctx f dc cls hw n s va len = .data b p bad s1) :
    s1.queues = s.queues := by
  induction n generalizing s va len b p bad with
  | zero => cases h; rfl
  | succ n ih =>
    unfold readVirt at h
    split at h
    · cases h; rfl
    · extract_lets k at h
      split at h
      · cases h
      · cases h
      · next hx => cases h; exact (translateAsk_state hx (by simp)).queues
      · cases h
      · next hx =>
        split at h
        · cases h
        · next hr =>
          have hfirst := (engineRead_data_queues hr).trans (translateAsk_state hx (by simp)).queues
          split at h
          · next hrest => cases h; exact (ih hrest).trans hfirst
          · next hno => exact absurd h (hno _ _ _ _)

theorem framerRead_data_queues {s s1 : State} {ctx f va len bad : Nat} {hw : List Host.Cell} {b : List Byte} {p : Bool}
    (h : framerRead s ctx f va len hw = .data b p bad s1) : s1.queues = s.queues :=
  readVirt_data_queues _ h

/-! ## A discarded doorbell (R272) -/

theorem leNat_leBytes (n v : Nat) : leNat (leBytes n v) = v % 256 ^ n := by
  induction n generalizing v with
  | zero => simp [leBytes, leNat, Nat.mod_one]
  | succ n ih => rw [leBytes, leNat, ih, BitVec.toNat_ofNat, Nat.pow_succ' (m := 256), Nat.mod_mul (a := 256)]

/-- The count of discarded doorbells is a U64 (R272). -/
theorem odNat_odAdd_discards (s : State) :
    odNat (odAdd s 0x7000 4 1) 0x7000 4 = min (2 ^ 64 - 1) (odNat s 0x7000 4 + 1) := by
  have hsize : ((odRow 0x7000 4).map (·.size)).getD 8 = 8 := by decide
  simp only [odAdd, hsize]
  rw [odNat, odPut, fget_fset_self]
  simp only [leNat_leBytes]
  omega

theorem sendMsi_queues (s : State) (f vec : Nat) : (sendMsi s f vec).queues = s.queues := by
  unfold sendMsi
  extract_lets p x
  split <;> rfl

theorem sendMsi_dict (s : State) (f vec : Nat) : (sendMsi s f vec).dict = s.dict := by
  unfold sendMsi
  extract_lets p x
  split <;> rfl

theorem raiseEvec_queues (s : State) (q : Nat) : (raiseEvec s q).queues = s.queues := by
  unfold raiseEvec
  split
  · exact sendMsi_queues _ _ _
  · rfl

theorem raiseEvec_dict (s : State) (q : Nat) : (raiseEvec s q).dict = s.dict := by
  unfold raiseEvec
  split
  · exact sendMsi_dict _ _ _
  · rfl

theorem odNat_of_dict {s t : State} (h : t.dict = s.dict) {idx sub : Nat} (hslot : idx ≠ 0x1100) :
    odNat t idx sub = odNat s idx sub := by
  simp [odNat, odDefault, h, hslot]

theorem badBell_queues (s : State) (q : Nat) : (badBell s q).queues = s.queues := raiseEvec_queues _ q

theorem odNat_badBell (s : State) (q : Nat) : odNat (badBell s q) 0x7000 4 = min (2 ^ 64 - 1) (odNat s 0x7000 4 + 1) := by
  rw [badBell, odNat_of_dict (raiseEvec_dict _ q) (by decide), odNat_odAdd_discards]

/-! ## A host's doorbells -/

/-- A host's TAIL that its function may write: discarded and counted where its value is wide or beyond the ring, else the new TAIL,
with the writes its port sent before (R264, R272). -/
theorem exec_tail_host {s : State} {q f p : Nat} {x : Queue} {value : W64} {hw : List Host.Cell} (hq : fget s.queues q = some x)
    (ha : bellAllowed s (.host f p) x = true) :
    exec (.tail (.host f p) q value hw) s = .next (
      if 2 ^ 32 ≤ value.toNat ∨ 2 ^ x.rlog < (BitVec.ofNat 32 value.toNat - x.head).toNat then badBell (learnHost s hw) q
      else (learnHost s hw).setQueue q { x with
        tail := BitVec.ofNat 32 value.toNat
        bells := stillOpen (learnHost s hw) x.bells ++ portWrites (learnHost s hw) p }) := by
  show execTail _ _ _ _ s = _
  simp only [execTail, hq, ha, bellDone, hostWrites, Bool.not_true, Bool.false_eq_true, if_false]

/-- A host's CHEAD that its function may write: discarded and counted where its value is wide or ahead of the records, else the new
CHEAD, after which a queue in CQ_WAIT writes its shadow records (R272, Table 10.7). -/
theorem exec_chead_host {s : State} {q f p : Nat} {x : Queue} {value : W64} (hq : fget s.queues q = some x)
    (ha : bellAllowed s (.host f p) x = true) :
    exec (.chead (.host f p) q value) s = .next (
      if 2 ^ 32 ≤ value.toNat ∨ (BitVec.ofNat 32 x.written - x.chead).toNat < (BitVec.ofNat 32 value.toNat - x.chead).toNat then
        badBell s q
      else if x.st = .cqWait then
        startInvalid (drainAll (s.setQueue q { x with chead := BitVec.ofNat 32 value.toNat }) q) q
      else s.setQueue q { x with chead := BitVec.ofNat 32 value.toNat }) := by
  show execChead _ _ _ s = _
  simp only [execChead, hq, ha, bellDone, Bool.not_true, Bool.false_eq_true, if_false]

/-! ## Fetching a slot (R276 to R278) -/

/-- Nothing completes at once where the next record read, if there is one, can be executed (R277). -/
theorem startInvalid_of_recordOk {s : State} {q : Nat} {x : Queue} (hq : fget s.queues q = some x)
    (hok : ∀ r, r ∈ x.ahead.head? → recordOk r false = true) : startInvalid s q = s := by
  have hbegin : beginQueue s q (fun r => !recordOk r false) = none := by
    cases ha : x.ahead with
    | nil => simp [beginQueue, hq, ha]
    | cons r rest =>
      have hr : recordOk r false = true := hok r (by simp [ha])
      simp [beginQueue, hq, ha, hr]
  rw [startInvalid, hbegin]

/-- A slot taken onto an empty list leaves a record there that can be executed, or a valid indirect entry and none (R276). -/
theorem takeSlot_ahead_recordOk {x : Queue} {r : Rec} (ha : x.ahead = [])
    (hr : (r.bits.getLsbD 17 = false ∧ recordOk r false = true) ∨
      (r.bits.getLsbD 17 = true ∧ r.bad = 0 ∧ indirectOk r.bits.toNat = true)) :
    ∀ r', r' ∈ (takeSlot x r).ahead.head? → recordOk r' false = true := by
  simp only [BitVec.getLsbD] at hr
  obtain ⟨hind, hok⟩ | ⟨hind, hbad, hvalid⟩ := hr
  · simp [takeSlot, hind, ha, hok]
  · simp [takeSlot, hind, hbad, hvalid, ha]

/-- The Framer takes the slot it has read, when the record there does not complete at once. -/
theorem exec_slotFetch_data {s s1 : State} {q va bad : Nat} {x : Queue} {hw : List Host.Cell} {b : List Byte} {p : Bool}
    (hq : fget s.queues q = some x) (hrun : framerRuns s = true) (hst : x.st = .ready) (hbells : deviceOpen s x.bells = false)
    (hind : x.indLeft = 0) (hnext : nextRecord x = some va) (hread : framerRead s x.ctx x.f va 64 hw = .data b p bad s1)
    (hok : ∀ r, r ∈ (takeSlot x (readRecord b p bad true)).ahead.head? → recordOk r false = true) :
    exec (.slotFetch q hw) s = .next (s1.setQueue q (takeSlot x (readRecord b p bad true))) := by
  have hq1 : fget s1.queues q = some x := by rw [framerRead_data_queues hread, hq]
  show execSlotFetch q hw s = _
  simp only [execSlotFetch, hq, hrun, hst, hbells, hnext, hread, hind, hq1, Bool.not_true, Bool.false_eq_true, ne_eq,
    not_true_eq_false, or_self, if_false, Nat.lt_irrefl, decide_false, Bool.not_false, Bool.true_or]
  rw [startInvalid_of_recordOk (fget_fset_self _ _ _) hok]

/-! ## Resuming a queue (R275, Table 10.7) -/

/-- A stalled queue without shadow records takes the state beneath the stall. -/
theorem drainAll_of_shadow_nil {s : State} {q : Nat} {x : Queue} (hq : fget s.queues q = some x) (hst : x.st = .stalled)
    (hshadow : x.shadow = []) :
    drainAll s q = s.setQueue q { x with st := if x.paused then .paused else .ready, drainDue := false } := by
  simp [drainAll, drainShadow, hq, hst, hshadow, settledState]

theorem queueResume_of_empty {s : State} {q : Nat} {x : Queue} (hq : fget s.queues q = some x) (hst : x.st = .stalled)
    (hshadow : x.shadow = []) (ha : x.ahead = []) :
    queueResume s q = s.setQueue q { x with st := if x.paused then .paused else .ready, drainDue := false } := by
  rw [queueResume, drainAll_of_shadow_nil hq hst hshadow]
  exact startInvalid_of_recordOk (fget_fset_self _ _ _) (by simp [ha])

/-- A write to OD 0x7010:01 is answered by the port that works, past the boot ROM. -/
theorem exec_queueResumeWrite {s : State} {p : Port} {w : W16} (hport : portWorks s p = true) (hrom : romOnly s = false) :
    exec (.queueResumeWrite p w) s = .next (answer s p (opQueueResume w.toNat s)) := by
  show execQueueResumeWrite p w s = _
  simp [execQueueResumeWrite, viaPort, hport, hrom]

/-! ## The obligation's three parts -/

/-- TAIL of a host: forward within the ring, or discarded and counted (R272). -/
theorem tail_advances_or_is_discarded {s : State} {q f p : Nat} {x : Queue} (hq : fget s.queues q = some x) (value : W64)
    (hw : List Host.Cell) (ha : bellAllowed s (.host f p) x = true) :
    (value.toNat < 2 ^ 32 → (BitVec.ofNat 32 value.toNat - x.head).toNat ≤ 2 ^ x.rlog →
      ∃ t, exec (.tail (.host f p) q value hw) s = .next t ∧ fget t.queues q = some
          { x with tail := BitVec.ofNat 32 value.toNat, bells := stillOpen (learnHost s hw) x.bells ++ portWrites (learnHost s hw) p }) ∧
    (2 ^ 32 ≤ value.toNat ∨ 2 ^ x.rlog < (BitVec.ofNat 32 value.toNat - x.head).toNat →
      ∃ t, exec (.tail (.host f p) q value hw) s = .next t ∧ fget t.queues q = some x ∧
        odNat t 0x7000 4 = min (2 ^ 64 - 1) (odNat s 0x7000 4 + 1)) := by
  rw [exec_tail_host hq ha]
  constructor
  · intro hnarrow hroom
    rw [if_neg (not_or.mpr ⟨Nat.not_le.mpr hnarrow, Nat.not_lt.mpr hroom⟩)]
    exact ⟨_, rfl, fget_fset_self _ _ _⟩
  · intro hbad
    rw [if_pos hbad]
    refine ⟨_, rfl, ?_, ?_⟩
    · rw [badBell_queues]; exact hq
    · rw [odNat_badBell]; rfl

/-- CHEAD of a host: forward within the records written, or discarded and counted (R272). -/
theorem chead_advances_or_is_discarded {s : State} {q f p : Nat} {x : Queue} (hq : fget s.queues q = some x) (value : W64)
    (ha : bellAllowed s (.host f p) x = true) :
    (value.toNat < 2 ^ 32 → (BitVec.ofNat 32 value.toNat - x.chead).toNat ≤ (BitVec.ofNat 32 x.written - x.chead).toNat →
      x.st ≠ .cqWait → ∃ t, exec (.chead (.host f p) q value) s = .next t ∧
        fget t.queues q = some { x with chead := BitVec.ofNat 32 value.toNat }) ∧
    (2 ^ 32 ≤ value.toNat ∨ (BitVec.ofNat 32 x.written - x.chead).toNat < (BitVec.ofNat 32 value.toNat - x.chead).toNat →
      ∃ t, exec (.chead (.host f p) q value) s = .next t ∧ fget t.queues q = some x ∧
        odNat t 0x7000 4 = min (2 ^ 64 - 1) (odNat s 0x7000 4 + 1)) := by
  rw [exec_chead_host hq ha]
  constructor
  · intro hnarrow hbehind hst
    rw [if_neg (not_or.mpr ⟨Nat.not_le.mpr hnarrow, Nat.not_lt.mpr hbehind⟩), if_neg hst]
    exact ⟨_, rfl, fget_fset_self _ _ _⟩
  · intro hbad
    rw [if_pos hbad]
    exact ⟨_, rfl, (congrArg (fget · q) (badBell_queues s q)).trans hq, odNat_badBell s q⟩

/-- A resume of a stalled queue is done and acknowledged; of any other it is rejected and changes nothing (R275). -/
theorem queueResumeWrite_resumes_or_aborts {s : State} {p : Port} {w : W16} {x : Queue} (hq : fget s.queues w.toNat = some x)
    (hport : portWorks s p = true) (hrom : romOnly s = false) :
    (x.st = .stalled → x.shadow = [] → x.ahead = [] → ∃ t, exec (.queueResumeWrite p w) s = .next t ∧
      fget t.queues w.toNat = some { x with st := if x.paused then .paused else .ready, drainDue := false } ∧
      .scribe p none [] ∈ t.out) ∧
    (x.st ≠ .stalled → exec (.queueResumeWrite p w) s = .next (s.emit (.abort p 0x03000094#32 []))) := by
  rw [exec_queueResumeWrite hport hrom]
  simp only [opQueueResume, hq]
  constructor
  · intro hst hshadow ha
    rw [if_pos hst, queueResume_of_empty hq hst hshadow ha]
    exact ⟨_, rfl, fget_fset_self _ _ _, List.mem_cons_self⟩
  · intro hst
    rw [if_neg hst]
    rfl

/-- Settles O27: each command's meaning is said once above, and its clauses are read off the branches. That a CHEAD below the one
written before is discarded and counted is the model's choice (log 101). -/
theorem queuesAdvanceByTheirDoorbells : Obligations.QueuesAdvanceByTheirDoorbells := by
  unfold Obligations.QueuesAdvanceByTheirDoorbells
  intro s q x hq
  refine ⟨?bells, ?fetch, ?resume⟩
  case bells =>
    intro f p value hw ha
    obtain ⟨htail, htailBad⟩ := tail_advances_or_is_discarded hq value hw ha
    obtain ⟨hchead, hcheadBad⟩ := chead_advances_or_is_discarded hq value ha
    exact ⟨htail, htailBad, hchead, hcheadBad⟩
  case fetch =>
    intro hw va b p bad s1 hrun hst hbells hind hahead hnext hread hrec
    exact ⟨_, exec_slotFetch_data hq hrun hst hbells hind hnext hread (takeSlot_ahead_recordOk hahead hrec),
      fget_fset_self _ _ _⟩
  case resume =>
    rintro p w rfl hport hrom
    exact queueResumeWrite_resumes_or_aborts hq hport hrom

end Sys2Proof.Machine
